-- ==== Sys2Proof/Word.lean ====
section
/-! DEFINITION. The word types of the M840 model and their plainest arithmetic. -/

namespace Sys2Proof

/-- One byte. -/
abbrev Byte := BitVec 8

/-- A 32-bit value: an FP32 pattern, a draw, a half register. -/
abbrev W32 := BitVec 32

/-- A 64-bit value: a register, an address of Table 12.2, a handle (R5, R40). -/
abbrev Word := BitVec 64

/-- Division rounding up. -/
def ceilDiv (a b : Nat) : Nat := (a + b - 1) / b

/-- The least multiple of `b` that is not below `a`. -/
def roundUp (a b : Nat) : Nat := ceilDiv a b * b

/-- A counter that stays at `2^w - 1` (the "saturates" of the register maps). -/
def satAdd (w a b : Nat) : Nat := min (a + b) (2 ^ w - 1)

end Sys2Proof
end

