-- ==== Sys2Proof/Syntax.lean ====
section
/-! DEFINITION. The commands of the M840: one constructor of `Instr` for each row of spec/opcode_table.json, with
the operands that come from outside the device's state. -/

namespace Sys2Proof

/-- A tensor operand: an address of Table 12.2 and its 16-byte tensor format record (Table 3.5) as two words. -/
structure TRef where
  addr : Word
  recLo : Word
  recHi : Word
  deriving DecidableEq, Repr

/-- The answer of a lower tier to a request of the command that is not data (R249, R250): the granule's virtual
address, and whether the request passed its timeout (`true`) or met an uncorrectable error (`false`). -/
abbrev TierRsp := List (Nat × Bool)

/-- Who places a clause: a LAUNCH descriptor (queue, submission index) or a pool's step (context, pool, number). -/
inductive ClauseRef where
  | desc (q i : Nat)
  | step (ctx pool n : Nat)
  deriving DecidableEq, Repr

/-- A scalar operand of an instruction: an FP32 value, or the loss scale latched for the step (R86). -/
inductive Scalar where
  | imm (w : W32)
  | lossScale
  deriving DecidableEq, Repr

/-- MATRIX_INSTRUCTION (R73, R74): both operands have K contiguous; `y` is written in FP32, row-major. `malformed`: what stands in the
image at the program's place is no instruction of the part, an operand or branch outside the image, or past its last instruction
(R57). -/
structure MatOp where
  a : TRef
  b : TRef
  y : Word
  m : Nat
  n : Nat
  k : Nat
  group : Nat
  malformed : Bool
  deriving DecidableEq, Repr

/-- A conversion (R81) of a row-major tensor: the source, the destination, the shape, the tensor ID of stochastic
rounding (R78) and the logical coordinate of the first element. -/
structure ConvOp where
  src : TRef
  dst : TRef
  rows : Nat
  cols : Nat
  tensor : Word
  row0 : Nat
  col0 : Nat
  deriving DecidableEq, Repr

/-- A scale pass (R80): the source, the record whose scales are formed, where the tensor scale is written, and the
largest magnitude that the clause's other cores found (+0 for none). -/
structure ScaleOp where
  src : TRef
  dst : TRef
  tsOut : Word
  rows : Nat
  cols : Nat
  amaxIn : W32
  deriving DecidableEq, Repr

/-- The MASK operand of Table 5.5. -/
inductive AttnMask where
  | causal
  | window (win : Nat)
  | tile (addr : Word)
  | all
  deriving DecidableEq, Repr

/-- Where an attention instruction takes its keys and values (R126, R162). -/
inductive AttnKV where
  | paged (batch layout : Word) (layer head0 nh : Nat)
  | dense (k v : TRef) (heads rows len dim : Nat)
  deriving DecidableEq, Repr

/-- The operands of Table 5.5, with the tensor ID and the logical coordinate of the first element that stochastic rounding of O names
(R78; log entry 27). -/
structure AttnOp where
  q : TRef
  kv : AttnKV
  gq : Nat
  sms : W32
  mask : AttnMask
  pfp8 : Bool
  o : TRef
  lse : Word
  stat : Word
  tensor : Word
  row0 : Nat
  col0 : Nat
  deriving DecidableEq, Repr

/-- The attention backward instruction (R162): the forward operands, dO, and the three gradients. -/
structure AttnBwOp where
  fwd : AttnOp
  dO : TRef
  dq : Word
  dk : Word
  dv : Word
  deriving DecidableEq, Repr

/-- The activations of Table 7.1. -/
inductive ActKind where
  | relu
  | leaky (a : W32)
  | clamp (lo hi : W32)
  | gelu
  | silu
  | gated
  | rmsNorm (eps : W32)
  | meanVarNorm (eps : W32)
  deriving DecidableEq, Repr

/-- An activation (R154): FP32 input `x`, second input of a gated product or gamma of a normalisation `x2`, output,
and where the kept data of Table 7.1 goes (address 0: nothing kept); `aux` holds the mean of a mean-and-variance row. -/
structure ActOp where
  kind : ActKind
  x : TRef
  x2 : Word
  y : Word
  kept : TRef
  aux : Word
  rows : Nat
  cols : Nat
  deriving DecidableEq, Repr

/-- A backward activation (R154): the output gradient, the kept data, and the input gradient(s). -/
structure ActBwOp where
  kind : ActKind
  dy : Word
  kept : TRef
  x2 : Word
  dx : Word
  dx2 : Word
  rows : Nat
  cols : Nat
  deriving DecidableEq, Repr

/-- The dropout instruction (R156), forward or backward. -/
structure DropOp where
  tensor : Word
  thr : W32
  scl : Scalar
  src : Word
  dst : Word
  rows : Nat
  cols : Nat
  row0 : Nat
  col0 : Nat
  deriving DecidableEq, Repr

/-- A core's part in the row sums of R161: it holds whole rows; it writes its partial sums where the handle it pushes to the clause's
lowest core points; the lowest core adds all partials, its own first and the others at the addresses that ascending handles brought,
and writes the totals; a core forms dx with the totals that the returned handle points to. -/
inductive NormPart where
  | whole
  | push (sums : Word)
  | join (others : List Word) (totals : Word)
  | finish (totals : Word)
  deriving DecidableEq, Repr

/-- The backward normalisation instruction (R161, Table 7.3) on a core's columns of each row; `width` is the whole row's. -/
structure NormBwOp where
  meanVar : Bool
  dy : Word
  x : TRef
  gamma : Word
  r : Word
  mu : Word
  dx : Word
  dgamma : Word
  rows : Nat
  cols : Nat
  width : Nat
  part : NormPart
  deriving DecidableEq, Repr

/-- The vocabulary-head instructions (R164). -/
structure VocabOp where
  x : TRef
  w : TRef
  lse : Word
  rows : Nat
  vocab : Nat
  dim : Nat
  group : Nat
  deriving DecidableEq, Repr

/-- The backward half of R164: targets, loss weights and the two gradient buffers. -/
structure VocabBwOp where
  fwd : VocabOp
  target : Word
  weight : Word
  dx : Word
  dw : Word
  deriving DecidableEq, Repr

/-- The vector draw instruction (R223): draws of a rectangle of logical coordinates, written as 32-bit words. -/
structure DrawOp where
  tensor : Word
  dst : Word
  rows : Nat
  cols : Nat
  row0 : Nat
  col0 : Nat
  deriving DecidableEq, Repr

/-- A projection output path's append (R121): one new row of a K or, with `value`, a V projection, in FP32. -/
structure KvAppendOp where
  layout : Word
  pool : Nat
  slot : Nat
  pre : Bool
  pos : Nat
  layer : Nat
  head : Nat
  value : Bool
  row : List W32
  deriving DecidableEq, Repr

/-- What one row of a step program's scores holds for token choice (R99). -/
structure SeqScores where
  seq : Nat
  scores : List W32
  deriving DecidableEq, Repr

/-- An Accord flit: the header of Table 9.2 and its data. -/
structure AccFlit where
  kind : Nat
  group : Nat
  gset : Nat
  epoch : Nat
  shard : Nat
  len : Nat
  offset : Nat
  srcRank : Nat
  data : List Byte
  deriving DecidableEq, Repr

/-- An operation's signature (R285). -/
structure CollSig where
  op : Nat
  red : Nat
  count : Nat
  root : Nat
  dfmt : Nat
  deriving DecidableEq, Repr

/-- Which line of which remote transfer of its sender a remote write carries: core, path, the transfer's number on the core, the line. -/
structure WriteTag where
  core : Nat
  path : Nat
  num : Nat
  line : Nat
  deriving DecidableEq, Repr

/-- What a flit's payload says to this device. The manual lays out the Accord payload (Table 9.2) and the beacon's
content (R415) and no other; the rest is carried as its meaning (log entry 12). -/
inductive FlitMsg where
  | acc (f : AccFlit)
  | collUp (op : Nat) (sig : CollSig) (chunk fromRank : Nat) (vals : List W32)
  | collDown (op : Nat) (sig : CollSig) (chunk fromRank : Nat) (bytes : List Byte)
  | dmaWrite (group rank : Nat) (tag : WriteTag) (addr : Word) (data : List Byte)
  | dmaAck (group rank : Nat) (tag : WriteTag) (status : Nat)
  | join (rank : Nat) (digest : List Byte)
  | abort (op rank cause : Nat)
  /-- The receivers beyond the edge are detached from an operation (R299). -/
  | collDetach (op fromRank : Nat)
  | beacon (rank hop : Nat) (time : Nat)
  | replay (seq : Nat)
  /-- A decode device asks a peer's pool to prefill a rollout (R95): the peer's context and pool, the asking rank and context, the
  rollout, its layout and its prompt. -/
  | prefillAsk (ctx pool rank home seq tpg ppg : Nat) (prompt : List Byte)
  /-- The peer has no room or another layout; the decode device gives the rollout up. -/
  | prefillNo (ctx seq : Nat)
  | prefillStop (ctx seq rank home : Nat)
  /-- A prompt page and its header reach the decode device; it has completed there; the last one has been shipped. -/
  | kvPage (ctx seq page : Nat) (header data : List Byte)
  | kvAck (ctx seq page : Nat)
  | kvDone (ctx seq : Nat)
  | other
  deriving DecidableEq, Repr

/-- A flit as it arrives: its 256 bytes, whether its GCM tag passes, the 224 payload bytes that its decryption gives (R276), and what they
say. An Accord flit's fields are read from the payload itself, as Table 9.2 lays them out. -/
structure Flit where
  bytes : List Byte
  tagOk : Bool
  plain : List Byte
  msg : FlitMsg
  deriving DecidableEq, Repr

/-- Whose lower-tier request an event names (Table 11.8). -/
inductive Requester where
  | channel (core ch : Nat)
  | particle (core seq : Nat)
  | move (ctx id : Nat)
  | dmaCopy (q i : Nat)
  | operand (core seq : Nat)
  | store (core seq : Nat)
  deriving DecidableEq, Repr

/-- The outcome of the two ends' exchange of R378 as this end meets it. -/
inductive KeyExchange where
  | ok (peerRank : Nat) (measMatch : Bool)
  | failed
  deriving DecidableEq, Repr

/-- One of the five resets that a host function can ask for (R346). -/
inductive FlrKind where
  | function (n : Nat)
  | hot
  | vfDisable (numVFs : Nat)
  deriving DecidableEq, Repr

/-- The commands: one constructor per row of spec/opcode_table.json, in the table's order. `q i` names a taken
descriptor; `fn` is the function of the host port that carries an access (R345). -/
inductive Instr where
  | launch (q i : Nat)
  | clausePlace (ref : ClauseRef)
  | clauseComplete (ctx id : Nat) (lengths : List Nat)
  | handlePush (core seq chain : Nat) (handle : Word)
  | handlePop (core seq chain : Nat)
  | learningFullStop (ctx : Nat) (rsp : TierRsp)
  | barrierMet (ctx : Nat) (rsp : TierRsp)
  | barrierAbort (ctx : Nat)
  | generationFullStop (ctx : Nat)
  | coreReset (core : Nat)
  | coreRemove (core : Nat)
  | cntClrStall (fn core : Nat)
  | cntClrLag (fn core : Nat)
  | cntClrWcet (fn core : Nat)
  | matrixInstruction (core seq : Nat) (op : MatOp) (rsp : TierRsp)
  | engineOutputWrite (core seq : Nat) (op : ConvOp) (rsp : TierRsp)
  | conversionInstruction (core seq : Nat) (op : ConvOp) (rsp : TierRsp)
  | scaleFormingInstruction (core seq : Nat) (op : ScaleOp) (rsp : TierRsp)
  | attentionInstruction (core seq : Nat) (op : AttnOp) (rsp : TierRsp)
  | attentionBackward (core seq : Nat) (op : AttnBwOp) (rsp : TierRsp)
  | activationInstruction (core seq : Nat) (op : ActOp) (rsp : TierRsp)
  | activationBackward (core seq : Nat) (op : ActBwOp) (rsp : TierRsp)
  | dropoutInstruction (core seq : Nat) (op : DropOp) (rsp : TierRsp)
  | normBackward (core seq : Nat) (op : NormBwOp) (rsp : TierRsp)
  | vocabHeadInstruction (core seq : Nat) (op : VocabOp) (rsp : TierRsp)
  | vocabHeadBackward (core seq : Nat) (op : VocabBwOp) (rsp : TierRsp)
  | vectorDraw (core seq : Nat) (op : DrawOp)
  | kvAppendWrite (core seq : Nat) (op : KvAppendOp) (rsp : TierRsp)
  | start (q i : Nat)
  | cancel (q i : Nat)
  | pause (q i : Nat)
  | resume (q i : Nat)
  | pool (q i : Nat)
  | mask (q i : Nat)
  | prefillStep (ctx seq : Nat) (table : Word)
  | decodeStep (ctx pool : Nat) (table : Word) (scores : List SeqScores)
  | stepBoundary (ctx seq : Nat)
  | promptShipped (ctx seq : Nat)
  | remotePrefillRefused (ctx seq : Nat)
  | pauseMoveDone (ctx seq : Nat)
  | resumeMoveDone (ctx seq : Nat)
  | ttlExpire (ctx seq : Nat)
  | evict (q i : Nat)
  | kvBaseWrite (fn ctx which : Nat) (value : Word)
  | kvPoolWrite (fn ctx : Nat) (pages : Nat)
  | silCreate (q i : Nat)
  | silDestroy (q i : Nat)
  | silAppend (q i : Nat) (rsp : TierRsp)
  | silDraw (q i : Nat) (rsp : TierRsp)
  | recordCommit (ring : Nat) (rsp : TierRsp)
  | lrnStepWrite (fn ctx : Nat) (value : Word)
  | upd (core seq : Nat) (offset : Nat) (rsp : TierRsp)
  | apply (ctx id : Nat) (rsp : TierRsp)
  | watch (ctx id : Nat)
  | unwatch (ctx id : Nat)
  | reduce (ctx id : Nat)
  | updChunk (ctx id unit : Nat) (rsp : TierRsp)
  | factPassB (ctx id : Nat)
  | updComplete (ctx id : Nat)
  | wsCreate (q i : Nat) (rsp : TierRsp)
  | send (q i : Nat) (rsp : TierRsp)
  | sendComplete (q i : Nat)
  | wsDestroy (q i : Nat)
  | await (q i : Nat)
  | accordFlitArrive (port : Nat) (flit : AccFlit)
  | bankRelease (set : Nat)
  | shareDetach (group gset epoch : Nat) (edge : Option Nat)
  | detachFlitArrive (flit : AccFlit)
  | asmTmo (set : Nat)
  | map (q i : Nat)
  | unmap (q i : Nat)
  | move (q i : Nat)
  | hint (q i : Nat)
  | moveGranule (ctx id : Nat) (rsp : TierRsp)
  | tierRequestComplete (req : Requester) (va : Nat) (uncorrectable : Bool)
  | tierTimeoutExpiry (req : Requester) (va : Nat)
  | patrolScrub (tier frame : Nat) (corrected : Nat) (uncorrectable passEnd : Bool)
  | tierQuotaWrite (fn ctx tier limit : Nat)
  | tierProbe (fn ctx : Nat) (va : Nat)
  | dma (core seq ch offset : Nat) (next : Bool)
  | dmaWait (core seq ch n : Nat)
  | dmaStat (core seq ch : Nat)
  | dmaClr (core seq ch : Nat)
  | ptWait (core seq n : Nat)
  | ptStat (core seq : Nat)
  | ptClr (core seq : Nat)
  | dmaTransfer (core ch : Nat) (rsp : TierRsp)
  | dmaTransferComplete (core ch : Nat)
  | dmaRetry (core ch : Nat) (addr : Word)
  | remoteWriteArrive (group rank : Nat) (tag : WriteTag) (dst : Word) (data : List Byte) (rsp : TierRsp)
  | dmaCopy (q i : Nat) (rsp : TierRsp) (busErrors : Nat) (addr : Word)
  | flitReceive (port : Nat) (flit : Flit) (symbols : List Nat)
  | replayRequest (port seq : Nat)
  | portTraining (port : Nat) (lanes : BitVec 4) (kx : KeyExchange)
  | laneFail (port : Nat)
  | retrainTimeout (port : Nat)
  | portDown (port : Nat)
  | rekey (port dir : Nat) (kx : KeyExchange)
  | rekeyRetry (port : Nat) (kx : KeyExchange)
  | keyLimitReached (port : Nat)
  | group (q i : Nat)
  | joinReceive (group rank : Nat) (digest : List Byte)
  | groupJoinTimeout (group : Nat)
  | collDestroy (q i : Nat)
  | allReduce (q i : Nat) (rsp : TierRsp)
  | reduceScatter (q i : Nat) (rsp : TierRsp)
  | allGather (q i : Nat) (rsp : TierRsp)
  | broadcast (q i : Nat) (rsp : TierRsp)
  | barrier (q i : Nat)
  | coll (core seq offset : Nat) (rsp : TierRsp)
  | collWait (core seq group n : Nat)
  | collStat (core seq group : Nat)
  | collOperationComplete (group op : Nat) (rsp : TierRsp)
  | collAbortTimeout (group op : Nat)
  | abortReceive (group op rank cause : Nat)
  | collShareDetach (group op : Nat) (edge : Option Nat)
  | recal (fn port : Nat)
  | recalStart (port : Nat)
  | recalComplete (port : Nat) (lanes : BitVec 4)
  | area (q i : Nat)
  | save (q i : Nat)
  | saveWritesDone (ctx : Nat) (rsp : TierRsp)
  | saveOutcome (ctx : Nat) (rsp : TierRsp)
  | restore (q i : Nat) (rsp : TierRsp)
  | query (q i : Nat) (rsp : TierRsp)
  | ckptJobWrite (fn ctx : Nat) (which : Nat) (value : Word)
  | tenCreate (fn tenant : Nat) (value : Word)
  | ctxReset (fn ctx : Nat)
  | ctxDestroy (fn ctx : Nat)
  | ctxTeardown (ctx : Nat)
  | tenantReset (fn tenant : Nat)
  | tenCfgWrite (fn tenant : Nat) (value : Word)
  | cores (q i : Nat)
  | coresApply (ctx : Nat)
  | queDb (fn q tail : Nat)
  | queCqDb (fn q head : Nat)
  | queEnable (fn q : Nat) (value : Word)
  | queDisable (fn q : Nat) (value : Word)
  | descriptorTake (ctx : Nat) (lost : Bool)
  | completionWrite (q : Nat)
  | topo (q i : Nat) (rsp : TierRsp)
  | base (q i : Nat)
  | win (q i : Nat)
  | power (q i : Nat)
  | thermal (q i : Nat)
  | detach (q i : Nat)
  | hostWindowRead (fn offset len : Nat) (mem : Bool) (rsp : TierRsp)
  | hostWindowWrite (fn offset : Nat) (mem : Bool) (data : List Byte) (rsp : TierRsp)
  | linkL0Timeout
  | ideFailure
  | viral
  | reattach (fn : Nat)
  | hostAttach
  | hostLinkTrainingStart
  | flr (kind : FlrKind)
  | tenKeyLoad (fn tenant : Nat) (addr : Word)
  | tenRpt (fn tenant : Nat) (addr : Word)
  | erase (fn tenant : Nat)
  | commitSvn (fn : Nat) (flashOk : Bool)
  | getVersion (req : List Byte)
  | getCapabilities (req : List Byte)
  | negotiateAlgorithms (req : List Byte) (falcon shake kem : Bool)
  | getDigests (req : List Byte)
  | getCertificate (req : List Byte) (slot offset len : Nat)
  | challenge (req : List Byte) (slot : Nat)
  | getMeasurements (req : List Byte) (index : Nat)
  | keyExchange (req : List Byte) (kemOffered : Bool)
  | finish (req : List Byte) (session : Nat) (ok : Bool)
  | endSession (req : List Byte) (session : Nat)
  | heartbeat (req : List Byte) (session : Nat)
  | keyUpdate (req : List Byte) (session : Nat)
  | chunkSend (req : List Byte) (handle seqNo : Nat) (last : Bool)
  | chunkGet (req : List Byte) (handle seqNo : Nat)
  | ideKm (req : List Byte) (session : Nat) (cachemem : Bool)
  | noiseHealthFailure
  | coldReset (puf : List Byte)
  | recover (image : List Byte)
  | warmReset
  | version
  | flashWrite
  | removeCore
  | timeRole
  | logRead
  | mbxWarmReset
  | wakeRequest (domain : Nat)
  | wakeGrant
  | tokenRefill
  | domainIdleOff (domain : Nat)
  | selfThrottleSample (domain : Nat) (temp : Int)
  | junctionClampStep (domain : Nat) (temp : Int)
  | packageFloorSample (watts : Nat)
  | currentClamp (rail : Nat) (milliamps : Nat)
  | thermalShutdown (die : Nat)
  | railMonitorTrip (rail : Nat)
  | powerLoss
  | beaconSend
  | beaconReceive (port rank hop : Nat) (time : Nat)
  | linkDelayMeasure (port delayPs : Nat)
  | holdover
  | timeAdj (fn : Nat) (value : Word)
  | tsyncInEdge (time : Nat)
  | wholeSecond
  | timeNowRead (fn : Nat) (half : Option Bool)
  | timeHostInRead (fn : Nat) (wide : Bool) (departNs : Nat)
  | selftest (q i : Nat)
  | selftestStart (block index : Nat)
  | selftestDone (block index : Nat) (part timeUs : Nat)
  | selftestWaitExpiry (block index : Nat)
  | regWrite (fn bar offset : Nat) (wide : Bool) (value : Word)
  | hostLinkTrained (width rate : Nat)
  | configRequest (fn : Nat)
  | currentClampRelease (rail : Nat)
  | resetPinAssert
  | firmwareSelftest (block index level : Nat)
  deriving DecidableEq, Repr

end Sys2Proof
end

