-- ==== Sys2Proof/Config.lean ====
section
/-! DEFINITION. The free values of the model (no body: nothing in Lean can evaluate them) and the primitives the
manual names by reference only (log entries 3 and 9). -/

namespace Sys2Proof.Config

/-- A value the spec leaves open, one for each use: applied to the state's counter `freeIdx` (log entry 3). -/
opaque freeValue : Nat → BitVec 64

/-- The sign and payload of the quiet NaN that an FP32 operation produces: no rule states them (log entry 5). -/
opaque nanPayload : W32

/-- GELU of an FP32 input: R154 gives no formula (log entry 4). -/
opaque gelu : W32 → W32
/-- The derivative of GELU that the special-function unit re-evaluates (R154; log entry 4). -/
opaque geluGrad : W32 → W32
/-- The derivative of SiLU that the special-function unit re-evaluates (R154; log entry 4). -/
opaque siluGrad : W32 → W32
/-- The gate of a gated product and its derivative: no rule names the function (R154; log entry 4). -/
opaque gate : W32 → W32
opaque gateGrad : W32 → W32
/-- The element code that a zero of a given sign converts to in a format under an infinite factor: R81 forms no product of a zero
and infinity (log entry 66). -/
opaque zeroByInf : Nat → Bool → Nat
/-- The bytes of the firmware log (R401 LOG_READ; no layout is stated; log entry 10). -/
opaque fwLogByte : Nat → Byte
/-- The build number of the running firmware (R401 VERSION; log entry 10). -/
opaque fwBuild : BitVec 32
/-- The measurement M1 of the immutable ROM, "a constant of stepping B0" (Table 17.2; log entry 10). -/
opaque romMeasurement : List Byte
/-- The digest of Silda's Falcon-1024 root public key that the ROM holds (R369; log entry 9). -/
opaque rootKeyDigest : List Byte

/-- The payload of a flit of a message, by its place among the message's flits: the manual lays out the Accord payload alone (Table 9.2;
log entry 12). -/
opaque flitPayload : FlitMsg → Nat → BitVec 1792
/-- AES-256-GCM under a port's key index and flit count, over the payload and the framing of a flit: its ciphertext and, above it, its tag
(R276; log entry 9). -/
opaque gcmFlit : Nat → Nat → List Byte → BitVec 1920
/-- Whether the far end of a port grants credit to a flow at a cycle (R268): the manual states no rate at which it does (log entry 75). -/
opaque linkCredit : Nat → Nat → Nat → Bool
/-- The members of a collective group to which this device does not belong, whose tree may pass through it (R292; log entry 75). -/
opaque transitMembers : Nat → List Nat
/-- The flits of a collective operation that have landed on an F-die and still wait for their destination, by group, number, F-die and
cycle: the manual states no pace of such writes (R299; log entry 75). -/
opaque undelivered : Nat → Nat → Nat → Nat → Nat
/-- Whether what holds a core's transfer of a path back at a cycle is the bandwidth of its tier's controller, not latency (R50): the manual
gives the controllers no schedule (log entry 76). -/
opaque bandwidthHeld : Nat → Nat → Nat → Bool
/-- The phase of the cycles, out of every 16, in which throttling withholds a clock (R408; log entry 68). -/
opaque throttlePhase : Nat
/-- The group size, as an index into 32, 64 and 128, of the products of an instruction that carries no group size:
attention and its backward products (R73, R127, R162; log entry 22). -/
opaque productGroup : Nat
/-- The length in bytes of a lowered image, of which only the header is laid out (R57, Table 2.10): by header (log
entry 23). -/
opaque imageLength : List Byte → Nat

/-- Falcon-1024 signature verification: public key, message digest, signature (R369; log entry 9). -/
opaque falconVerify : List Byte → List Byte → List Byte → Bool
/-- Falcon-1024 key generation from a seed: private key and public key (R364; log entry 9). -/
opaque falconKeyGen : List Byte → List Byte × List Byte
/-- Falcon-1024 signature, padded form: private key, digest, signing randomness (R377; log entry 9). -/
opaque falconSign : List Byte → List Byte → Nat → List Byte
/-- ML-KEM-1024 key generation from a seed: decapsulation key and encapsulation key (R364; log entry 9). -/
opaque kemKeyGen : List Byte → List Byte × List Byte
/-- ML-KEM-1024 decapsulation (R382; log entry 9). -/
opaque kemDecaps : List Byte → List Byte → List Byte
/-- AES-256-GCM decryption: key, nonce, additional data, ciphertext, tag; `none` when the tag fails (R382; log entry 9). -/
opaque gcmOpen : List Byte → List Byte → List Byte → List Byte → List Byte → Option (List Byte)
/-- The conditioned random bytes of the source of R367, by request number and byte (log entry 9). -/
opaque randomByte : Nat → Nat → Byte
/-- The raw response of the PUF at a cold reset that the ROM performs itself (R398), by use (log entry 9). -/
opaque pufResponse : Nat → List Byte
/-- The key the ROM reconstructs from a PUF response and helper data with the code of R363, when at most 25 errors
stand in each block (log entry 9). -/
opaque pufReconstruct : List Byte → List Byte → List Byte
/-- The 256-bit check value in the helper data of the calibration body (R363; its layout is not stated; log entry 9). -/
opaque pufCheck : List Byte → List Byte
/-- The public key in a DER certificate (R366; the certificate layout is by reference; log entry 9). -/
opaque certPublicKey : List Byte → List Byte
/-- The alias certificate that the ROM makes and signs (R376; DER by reference; log entry 9). -/
opaque aliasCert : List Byte → List Byte → List Byte → List Byte
/-- Silda's root certificate of slot 0 (R376; log entry 9). -/
opaque rootCert : List Byte
/-- An SPDM 1.3 response by request code and request bytes, where the manual names only the standard (R375; log entry 9). -/
opaque spdmResponse : Nat → List Byte → Nat → List Byte
end Sys2Proof.Config
end

