-- ==== Sys2Proof/Machine/Num.lean ====
section
/-! DEFINITION. FP32 arithmetic and the special functions, correctly rounded (R62 to R64), over exact dyadic values. -/

namespace Sys2Proof.Machine

/-- An exact extended value: `fin neg m e` is `(-1)^neg * m * 2^e`. -/
inductive Ext where
  | nan
  | inf (neg : Bool)
  | fin (neg : Bool) (m : Nat) (e : Int)
  deriving DecidableEq, Repr

namespace Ext

/-- The value zero with a sign. -/
def zero (neg : Bool) : Ext := .fin neg 0 0
/-- A natural number. -/
def ofNat (n : Nat) : Ext := .fin false n 0
/-- Whether the value is NaN. -/
def isNan : Ext → Bool
  | .nan => true
  | _ => false
/-- Whether the value is infinite or NaN. -/
def bad : Ext → Bool
  | .fin .. => false
  | _ => true
/-- Whether the value is a zero of either sign. -/
def isZero : Ext → Bool
  | .fin _ m _ => m = 0
  | _ => false
/-- The sign. -/
def neg : Ext → Bool
  | .nan => false
  | .inf s => s
  | .fin s _ _ => s
/-- The negated value. -/
def negate : Ext → Ext
  | .nan => .nan
  | .inf s => .inf !s
  | .fin s m e => .fin (!s) m e
/-- The magnitude. -/
def abs : Ext → Ext
  | .nan => .nan
  | .inf _ => .inf false
  | .fin _ m e => .fin false m e

/-- The exact product (IEEE 754 for infinities and zeros). -/
def mul : Ext → Ext → Ext
  | .nan, _ => .nan
  | _, .nan => .nan
  | .inf s, .inf t => .inf (s != t)
  | .inf s, .fin t m _ => if m = 0 then .nan else .inf (s != t)
  | .fin s m _, .inf t => if m = 0 then .nan else .inf (s != t)
  | .fin s m e, .fin t n f => .fin (s != t) (m * n) (e + f)

/-- A finite value as an integer of units `2^q`, for `q` not above its exponent. -/
def units (s : Bool) (m : Nat) (e q : Int) : Int :=
  let n : Int := (m * 2 ^ (e - q).toNat : Nat)
  if s then -n else n

/-- The exact sum; a zero sum of values of unlike signs is +0 (round to nearest). -/
def add : Ext → Ext → Ext
  | .nan, _ => .nan
  | _, .nan => .nan
  | .inf s, .inf t => if s = t then .inf s else .nan
  | .inf s, .fin .. => .inf s
  | .fin .., .inf t => .inf t
  | .fin s m e, .fin t n f =>
    let q := min e f
    let v := units s m e q + units t n f q
    if v = 0 then .fin (s && t) 0 0 else .fin (decide (v < 0)) v.natAbs q

/-- Strictly less, for values that are not NaN; the zeros are equal. -/
def lt : Ext → Ext → Bool
  | .nan, _ => false
  | _, .nan => false
  | .inf s, .inf t => s && !t
  | .inf s, .fin .. => s
  | .fin .., .inf t => !t
  | .fin s m e, .fin t n f => decide (units s m e (min e f) < units t n f (min e f))

/-- Equal as numbers. -/
def eqv (a b : Ext) : Bool := !a.isNan && !b.isNan && !lt a b && !lt b a

end Ext

/-- Number of bits of a number. -/
def bitLen (n : Nat) : Nat := if n = 0 then 0 else Nat.log2 n + 1

/-- `n / 2^k` rounded to nearest, ties to even. -/
def rneShift (n k : Nat) : Nat :=
  if k = 0 then n else
    let q := n / 2 ^ k
    let r := n % 2 ^ k
    let h := 2 ^ (k - 1)
    if r > h || (r = h && q % 2 = 1) then q + 1 else q

/-- Round `m * 2^e` to `p` bits with least exponent `qmin`, to nearest even, exponent range unbounded above: the
result is `n * 2^q`. -/
def roundTo (p : Nat) (qmin : Int) (m : Nat) (e : Int) : Nat × Int :=
  let q := max ((bitLen m : Int) + e - p) qmin
  if e ≥ q then (m * 2 ^ (e - q).toNat, q) else (rneShift m (q - e).toNat, q)

/-- The bits of `n * 2^q` in a format of `p` significand bits and least exponent `qmin` (both from `roundTo`). -/
def packMag (p : Nat) (qmin : Int) (n : Nat) (q : Int) : Nat := (q - qmin).toNat * 2 ^ (p - 1) + n

/-- The quiet NaN that FP32 operations produce (log entry 5). -/
def qnan : W32 := 0x7FC00000#32 ||| (Sys2Proof.Config.nanPayload &&& 0x803FFFFF#32)

/-- +infinity and -infinity in FP32. -/
def infPos : W32 := 0x7F800000#32
def infNeg : W32 := 0xFF800000#32
/-- 1.0 in FP32. -/
def one32 : W32 := 0x3F800000#32

/-- Decode an IEEE-like pattern with `eb` exponent bits and `mb` mantissa bits, with infinities and NaNs (R62). -/
def decodeIeee (eb mb : Nat) (bias : Int) (b : Nat) : Ext :=
  let s := bitOf b (eb + mb)
  let E := bitsOf b mb eb
  let M := bitsOf b 0 mb
  if E = 2 ^ eb - 1 then (if M = 0 then .inf s else .nan)
  else if E = 0 then .fin s M (1 - bias - mb)
  else .fin s (2 ^ mb + M) (E - bias - mb)

/-- Decode FP32. -/
def f32 (w : W32) : Ext := decodeIeee 8 23 127 w.toNat

/-- Round an exact value to FP32, to nearest even (R63, R77). -/
def toF32 : Ext → W32
  | .nan => qnan
  | .inf s => if s then infNeg else infPos
  | .fin s m e =>
    let (n, q) := roundTo 24 (-149) m e
    let b := if m = 0 then 0 else packMag 24 (-149) n q
    let b := if b ≥ 0x7F800000 then 0x7F800000 else b
    BitVec.ofNat 32 (b + if s then 2 ^ 31 else 0)

/-- FP32 operations, rounded to nearest even. -/
def fadd (a b : W32) : W32 := toF32 (Ext.add (f32 a) (f32 b))
def fneg (a : W32) : W32 := a ^^^ 0x80000000#32
def fsub (a b : W32) : W32 := toF32 (Ext.add (f32 a) (f32 b).negate)
def fmul (a b : W32) : W32 := toF32 (Ext.mul (f32 a) (f32 b))

/-- A positive rational `num / den * 2^e` as a dyadic of at least `bits` bits whose last bit is sticky: rounding it to
fewer bits rounds the rational. -/
def ratDyadic (bits num den : Nat) (e : Int) : Nat × Int :=
  let s := bits + bitLen den - bitLen num
  let n := num * 2 ^ s
  (2 * (n / den) + (if n % den = 0 then 0 else 1), e - s - 1)

/-- FP32 division, correctly rounded (R64). -/
def fdiv (a b : W32) : W32 :=
  match f32 a, f32 b with
  | .nan, _ => qnan
  | _, .nan => qnan
  | .inf _, .inf _ => qnan
  | .inf s, .fin t _ _ => if s != t then infNeg else infPos
  | .fin s _ _, .inf t => toF32 (Ext.zero (s != t))
  | .fin s m e, .fin t n f =>
    if n = 0 then (if m = 0 then qnan else if s != t then infNeg else infPos)
    else if m = 0 then toF32 (Ext.zero (s != t))
    else
      let (x, q) := ratDyadic 80 m n (e - f)
      toF32 (.fin (s != t) x q)

/-- The integer square root by halving an interval of `2^k` candidates. -/
def isqrtGo (n : Nat) : Nat → Nat → Nat
  | 0, r => r
  | k + 1, r => let t := r + 2 ^ k; isqrtGo n k (if t * t ≤ n then t else r)

/-- The integer square root. -/
def isqrt (n : Nat) : Nat := isqrtGo n (bitLen n / 2 + 1) 0

/-- The square root of a positive dyadic as a dyadic with a sticky last bit. -/
def sqrtDyadic (m : Nat) (e : Int) : Nat × Int :=
  let (m, e) := if e % 2 = 0 then (m, e) else (2 * m, e - 1)
  let s : Nat := 80
  let n := m * 2 ^ (2 * s)
  let r := isqrt n
  (2 * r + (if r * r = n then 0 else 1), e / 2 - (s : Int) - 1)

/-- FP32 square root, correctly rounded (R64). -/
def fsqrt (a : W32) : W32 :=
  match f32 a with
  | .nan => qnan
  | .inf s => if s then qnan else infPos
  | .fin s m e =>
    if m = 0 then a else if s then qnan else
      let (x, q) := sqrtDyadic m e
      toF32 (.fin false x q)

/-- FP32 reciprocal square root, correctly rounded (R64). -/
def frsqrt (a : W32) : W32 :=
  match f32 a with
  | .nan => qnan
  | .inf s => if s then qnan else 0#32
  | .fin s m e =>
    if m = 0 then (if s then infNeg else infPos) else if s then qnan else
      let (m, e) := if e % 2 = 0 then (m, e) else (2 * m, e - 1)
      let S := bitLen m + 80
      let r := isqrt (2 ^ (2 * S) / m)
      let x := 2 * r + (if r * r * m = 2 ^ (2 * S) then 0 else 1)
      toF32 (.fin false x (-(e / 2) - S - 1))

/-- FP32 reciprocal. -/
def frecip (a : W32) : W32 := fdiv one32 a

/-! Exponential and logarithm in fixed point of `fix` fraction bits; the error is far below half a unit of FP32 at
every argument, so that one rounding gives the correctly rounded result (log entry 6). -/

/-- Fraction bits of the fixed point. -/
def fix : Nat := 512

/-- `exp` by its series: term `t`, index `k`, fuel. -/
def expSeries (x : Int) : Nat → Nat → Int → Int → Int
  | 0, _, _, acc => acc
  | n + 1, k, t, acc =>
    let t := t * x / (2 ^ fix * k)
    expSeries x n (k + 1) t (acc + t)

/-- Square a fixed-point value `n` times. -/
def sqrTimes : Nat → Int → Int
  | 0, v => v
  | n + 1, v => sqrTimes n (v * v / 2 ^ fix)

/-- `exp` of a fixed-point value of magnitude below 256. -/
def expFix (x : Int) : Int :=
  let y := x / 512
  sqrTimes 9 (expSeries y 80 1 (2 ^ fix) (2 ^ fix))

/-- A dyadic in fixed point. -/
def toFix (s : Bool) (m : Nat) (e : Int) : Int :=
  let k : Int := e + (fix : Int)
  let v : Nat := if k ≥ 0 then m * 2 ^ k.toNat else m / 2 ^ (-k).toNat
  if s then -(v : Int) else (v : Int)

/-- A fixed-point value rounded to FP32. -/
def fixF32 (v : Int) : W32 := toF32 (.fin (decide (v < 0)) v.natAbs (-(fix : Int)))

/-- FP32 exponential, correctly rounded (R64). -/
def fexp (a : W32) : W32 :=
  match f32 a with
  | .nan => qnan
  | .inf s => if s then 0#32 else infPos
  | .fin s m e =>
    if m = 0 then one32
    else if Ext.lt (.fin false 128 0) (.fin false m e) then (if s then 0#32 else infPos)
    else fixF32 (expFix (toFix s m e))

/-- `2 * atanh z` by its series, for a fixed-point `z` of magnitude at most 1/3. -/
def atanhSeries (z2 : Int) : Nat → Nat → Int → Int → Int
  | 0, _, _, acc => 2 * acc
  | n + 1, k, t, acc => atanhSeries z2 n (k + 2) (t * z2 / 2 ^ fix) (acc + t / k)

/-- `ln ((2^fix + z) / (2^fix - z))`. -/
def twoAtanh (z : Int) : Int := atanhSeries (z * z / 2 ^ fix) 170 1 z 0

/-- `ln 2`. -/
def ln2Fix : Int := twoAtanh ((2 ^ fix : Int) / 3)

/-- `ln` of a positive dyadic. -/
def lnFix (m : Nat) (e : Int) : Int :=
  let b := bitLen m
  let k : Int := e + b - 1
  let oneN : Nat := 2 ^ (b - 1)
  let one : Int := (oneN : Int)
  let z : Int := ((m : Int) - one) * 2 ^ fix / ((m : Int) + one)
  k * ln2Fix + twoAtanh z

/-- The natural logarithm of a positive dyadic, rounded to FP32. -/
def lnDyadic (m : Nat) (e : Int) : W32 := fixF32 (lnFix m e)

/-- FP32 natural logarithm, correctly rounded (R64). -/
def fln (a : W32) : W32 :=
  match f32 a with
  | .nan => qnan
  | .inf s => if s then qnan else infPos
  | .fin s m e => if m = 0 then infNeg else if s then qnan else lnDyadic m e

/-- The quotient of two fixed-point values, the second positive, rounded to FP32. -/
def quotF32 (a b : Int) : W32 :=
  if a = 0 then 0#32 else
    let (x, q) := ratDyadic 400 a.natAbs b.natAbs 0
    toF32 (.fin (decide (a < 0)) x q)

/-- FP32 hyperbolic tangent, correctly rounded (R64). -/
def ftanh (a : W32) : W32 :=
  match f32 a with
  | .nan => qnan
  | .inf s => if s then fneg one32 else one32
  | .fin s m e =>
    if m = 0 then a
    else if Ext.lt (.fin false 60 0) (.fin false m e) then (if s then fneg one32 else one32)
    else
      let x := expFix (toFix s (2 * m) e)
      quotF32 (x - 2 ^ fix) (x + 2 ^ fix)

/-- FP32 logistic function, correctly rounded (R64). -/
def flogistic (a : W32) : W32 :=
  match f32 a with
  | .nan => qnan
  | .inf s => if s then 0#32 else one32
  | .fin s m e =>
    if Ext.lt (.fin false 128 0) (.fin false m e) then (if s then 0#32 else one32)
    else quotF32 (2 ^ fix) (2 ^ fix + expFix (toFix (!s) m e))

/-- The larger of two FP32 values: NaN if any is NaN, and +0 above -0 (R287). -/
def fmax (a b : W32) : W32 :=
  match f32 a, f32 b with
  | .nan, _ => qnan
  | _, .nan => qnan
  | x, y => if x.isZero && y.isZero then (if x.neg then b else a) else if Ext.lt x y then b else a

/-- The sum of a list from a starting value, in order, rounding at each addition. -/
def fsum (acc : W32) (xs : List W32) : W32 := xs.foldl fadd acc

/-- Whether an FP32 value is infinite or NaN. -/
def fbad (a : W32) : Bool := (f32 a).bad

end Sys2Proof.Machine
end

