-- ==== Sys2Proof/Machine/Fmt.lean ====
section
/-! DEFINITION. The format codes: element encodings, conversion, block scales, packed tensors, tensor format records
(R59 to R82). -/

namespace Sys2Proof.Machine

/-- Bits of one element of a format code (Table 3.1). -/
def elemBits (fmt : Nat) : Nat :=
  match fmt with
  | 0 => 32
  | 1 => 16
  | 2 => 16
  | 5 => 6
  | 6 => 6
  | 10 => 6
  | 7 => 4
  | 11 => 4
  | 14 => 4
  | _ => 8

/-- Elements per block: 16 for FB, 32 for MX, 0 for a format without block scales (R66). -/
def blockSize (fmt : Nat) : Nat :=
  if fmt = 0xD || fmt = 0xE then 16 else if 9 ≤ fmt && fmt ≤ 0xC then 32 else 0

/-- MX codes. -/
def isMx (fmt : Nat) : Bool := 9 ≤ fmt && fmt ≤ 0xC
/-- FB codes. -/
def isFb (fmt : Nat) : Bool := fmt = 0xD || fmt = 0xE
/-- Plain codes that carry a tensor scale. -/
def isScaledPlain (fmt : Nat) : Bool := 3 ≤ fmt && fmt ≤ 8

/-- The element format of a code: its mantissa bits, exponent bits, bias and largest finite value's code (Table 3.2). -/
inductive Elem where
  | ieee (eb mb bias : Nat)
  | e4m3
  | small (eb mb bias : Nat)
  | int8
  | mxint8
  deriving DecidableEq, Repr

/-- The element format of a code. -/
def elemOf (fmt : Nat) : Elem :=
  match fmt with
  | 0 => .ieee 8 23 127
  | 1 => .ieee 8 7 127
  | 2 => .ieee 5 10 15
  | 4 => .ieee 5 2 15
  | 5 => .small 3 2 3
  | 6 => .small 2 3 1
  | 10 => .small 2 3 1
  | 7 => .small 2 1 1
  | 11 => .small 2 1 1
  | 14 => .small 2 1 1
  | 8 => .int8
  | 12 => .mxint8
  | _ => .e4m3

/-- A two's-complement byte as a sign and magnitude. -/
def int8Val (b : Nat) : Bool × Nat := if b % 256 ≥ 128 then (true, 256 - b % 256) else (false, b % 256)

/-- Decode a format without infinities or NaNs (R62). -/
def decodeSmall (eb mb bias : Nat) (b : Nat) : Ext :=
  let s := bitOf b (eb + mb)
  let E := bitsOf b mb eb
  let M := bitsOf b 0 mb
  if E = 0 then .fin s M (1 - (bias : Int) - mb) else .fin s (2 ^ mb + M) ((E : Int) - bias - mb)

/-- Decode E4M3 (Table 3.2): S.1111.111 is NaN. -/
def decodeE4m3 (b : Nat) : Ext := if b % 128 = 127 then .nan else decodeSmall 4 3 7 b

/-- Decode one element (R62). -/
def decodeElem (fmt b : Nat) : Ext :=
  match elemOf fmt with
  | .ieee eb mb bias => decodeIeee eb mb bias b
  | .e4m3 => decodeE4m3 b
  | .small eb mb bias => decodeSmall eb mb bias b
  | .int8 => .fin (int8Val b).1 (int8Val b).2 0
  | .mxint8 => .fin (int8Val b).1 (int8Val b).2 (-6)

/-- Significand bits, least exponent, and the code of the largest finite magnitude of an element format. -/
def elemRange (fmt : Nat) : Nat × Int × Nat :=
  match elemOf fmt with
  | .ieee eb mb bias => (mb + 1, 1 - (bias : Int) - mb, (2 ^ eb - 1) * 2 ^ mb - 1)
  | .e4m3 => (4, -9, 0x7E)
  | .small eb mb bias => (mb + 1, 1 - (bias : Int) - mb, 2 ^ (eb + mb) - 1)
  | .int8 => (8, 0, 127)
  | .mxint8 => (8, -6, 127)

/-- How a conversion rounds: to nearest even, or stochastically with a 16-bit draw (R77, R78). -/
inductive Round where
  | nearest
  | stochastic (u : Nat)
  deriving DecidableEq, Repr

/-- Round a magnitude `m * 2^e` to `p` bits with least exponent `qmin`: the result is `n * 2^q`. Stochastic rounding
aligns one unit in the last place to 1 and compares the first 16 bits of the fraction with the draw (R78). -/
def roundMag (r : Round) (p : Nat) (qmin : Int) (m : Nat) (e : Int) : Nat × Int :=
  match r with
  | .nearest => roundTo p qmin m e
  | .stochastic u =>
    let q := max ((bitLen m : Int) + e - p) qmin
    if e ≥ q then (m * 2 ^ (e - q).toNat, q) else
      let k := (q - e).toNat
      let i := m / 2 ^ k
      let f := m % 2 ^ k * 2 ^ 16 / 2 ^ k
      (if f + u ≥ 2 ^ 16 then i + 1 else i, q)

/-- What a conversion gives: the element's bits, whether a finite value saturated, whether the input was infinite or
NaN. -/
structure Conv where
  bits : Nat
  sat : Bool
  badIn : Bool
  deriving DecidableEq, Repr

/-- Whether an element format has a -0. -/
def hasSign (fmt : Nat) : Bool :=
  match elemOf fmt with
  | .int8 => false
  | .mxint8 => false
  | _ => true

/-- The bits of a signed magnitude code. -/
def signedBits (fmt : Nat) (s : Bool) (c : Nat) : Nat :=
  if hasSign fmt then c + (if s then 2 ^ (elemBits fmt - 1) else 0)
  else if s && c ≠ 0 then 256 - c else c

/-- What a NaN converts to (Table 3.3). -/
def nanCode (fmt : Nat) : Nat :=
  match elemOf fmt with
  | .e4m3 => 0x7F
  | .ieee 5 2 _ => 0x7F
  | .ieee 5 10 _ => 0x7E00
  | .ieee 8 7 _ => 0x7FC0
  | .ieee _ _ _ => qnan.toNat
  | _ => 0

/-- Convert an exact value into an element format (R65, Table 3.3). -/
def convert (fmt : Nat) (nonsat : Bool) (r : Round) (x : Ext) : Conv :=
  let (p, qmin, big) := elemRange fmt
  let ieee := match elemOf fmt with | .ieee .. => true | _ => false
  let ovf := if ieee && (nonsat || fmt = 0) then big + 1 else big
  match x with
  | .nan => ⟨nanCode fmt, false, true⟩
  | .inf s => ⟨signedBits fmt s ovf, false, true⟩
  | .fin s m e =>
    if m = 0 then ⟨signedBits fmt s 0, false, false⟩ else
      let (n, q) := roundMag r p qmin m e
      let c := packMag p qmin n q
      if c > big then ⟨signedBits fmt s ovf, ovf = big, false⟩ else ⟨signedBits fmt s c, false, false⟩

/-- The largest finite element value, as used by the scale rules (R79, R80). -/
def emaxOf (fmt : Nat) : Ext := decodeElem fmt (elemRange fmt).2.2

/-! ### Block scales -/

/-- The value of a block scale byte (R67): FB the magnitude of the E4M3 value, MX a power of two. -/
def scaleVal (fmt b : Nat) : Ext :=
  if isFb fmt then (decodeE4m3 b).abs else if b % 256 = 255 then .nan else .fin false 1 ((b % 256 : Nat) - 127 : Int)

/-- A tensor scale as a source uses it: non-finite decodes every element as NaN (R70). -/
def tsVal (ts : W32) : Ext := match f32 ts with | .fin s m e => .fin s m e | _ => .nan

/-- The product with a tensor scale: a TSCALE of 0 decodes every element as 0 (R70). -/
def mulTs (ts : W32) (x : Ext) : Ext := if (f32 ts).isZero && x.bad then Ext.zero false else Ext.mul (tsVal ts) x

/-- The value of an element under its block scale's value and tensor scale (R67, R70). -/
def scaledVal (fmt : Nat) (ts : W32) (s e : Ext) : Ext :=
  if isFb fmt then mulTs ts (Ext.mul s e)
  else if isMx fmt then Ext.mul s e
  else if isScaledPlain fmt then mulTs ts e
  else e

/-- Decode an element with its block scale byte and tensor scale (R67, R70). -/
def decodeScaled (fmt : Nat) (ts : W32) (scale bits : Nat) : Ext :=
  scaledVal fmt ts (scaleVal fmt scale) (decodeElem fmt bits)

/-- Widen an element to FP32 (R67). -/
def widen (fmt : Nat) (ts : W32) (scale bits : Nat) : W32 := toF32 (decodeScaled fmt ts scale bits)

/-- The tensor scale that a scale-forming instruction gives for `amax_t` (R80). -/
def tensorScale (fmt : Nat) (amax : Ext) : W32 :=
  if amax.isZero then one32 else
    let d := if isFb fmt then Ext.mul (.ofNat 448) (emaxOf fmt) else emaxOf fmt
    match amax, d with
    | .fin _ m e, .fin _ n f => let (x, q) := ratDyadic 80 m n (e - f); toF32 (.fin false x q)
    | _, _ => one32

/-- The FB block scale for `amax_b` (R80): `amax_b / (ts * emax)` rounded upward to the next E4M3 value, clamped to
[2^-9, 448]; 0 for a zero maximum. A negative tensor scale makes the quotient negative: the clamp gives 2^-9, code 1. -/
def fbScale (fmt : Nat) (ts : W32) (amax : Ext) : Nat :=
  if amax.isZero then 0 else if (f32 ts).neg then 1 else
    let d := Ext.mul (f32 ts) (emaxOf fmt)
    match (List.range 0x7E).find? fun c => !Ext.lt (Ext.mul (decodeE4m3 (c + 1)) d) amax with
    | some c => c + 1
    | none => 0x7E

/-- `floor(log2 m * 2^e)`. -/
def floorLog2 (m : Nat) (e : Int) : Int := e + (bitLen m : Int) - 1

/-- The MX shared exponent X for `amax_b`, clamped to [-127, 127] (R80). -/
def mxExp (fmt : Nat) (amax : Ext) : Int :=
  match amax with
  | .fin _ m e =>
    let k : Int := if fmt = 9 then 8 else if fmt = 0xC then 0 else 2
    max (-127) (min 127 (floorLog2 m e - k))
  | _ => 127

/-- The scale byte of a block (R80). -/
def blockScale (fmt : Nat) (ts : W32) (amax : Ext) : Nat :=
  if isFb fmt then fbScale fmt ts amax
  else if amax.isZero then 0 else (mxExp fmt amax + 127).toNat

/-- The factor r of R81 for a block with a given scale byte; `none` where every element of the block is written +0. -/
def convFactor (fmt : Nat) (ts : W32) (scale : Nat) : Ext :=
  if isFb fmt then f32 (fdiv one32 (fmul ts (toF32 (scaleVal fmt scale))))
  else if isMx fmt then .fin false 1 (127 - (scale : Int))
  else if isScaledPlain fmt then f32 (fdiv one32 ts)
  else .ofNat 1

/-- The largest magnitude of a list of values; NaN and infinity are left out (R79). -/
def amaxOf (xs : List Ext) : Ext :=
  xs.foldl (fun a x => match x with | .fin _ m e => if Ext.lt a (.fin false m e) then .fin false m e else a | _ => a)
    (Ext.zero false)

/-- Split a list into runs of `n` (the last may be shorter); fuel is the length. -/
def chunksGo {α : Type} (n : Nat) : Nat → List α → List (List α)
  | 0, _ => []
  | _, [] => []
  | k + 1, xs => xs.take n :: chunksGo n k (xs.drop n)

/-- Split a list into runs of `n`. -/
def chunksOf {α : Type} (n : Nat) (xs : List α) : List (List α) := chunksGo (max n 1) xs.length xs

/-- The result of writing values in a format: element codes, scale bytes, and the flags of Table 3.3. -/
structure ConvRun where
  elems : List Nat
  scales : List Nat
  sat : Bool
  badIn : Bool
  deriving DecidableEq, Repr

/-- Nothing written. -/
def ConvRun.empty : ConvRun := ⟨[], [], false, false⟩

/-- Join two runs. -/
def ConvRun.join (a b : ConvRun) : ConvRun := ⟨a.elems ++ b.elems, a.scales ++ b.scales, a.sat || b.sat, a.badIn || b.badIn⟩

/-- Convert one element under a factor (R81). Where the factor is infinite, because 1 ÷ TSCALE or 1 ÷ round_fp32(ts × bs)
overflows, a finite element other than 0 lies above every finite value, and the manual gives no product for a 0 (log entry 66). -/
def convBy (fmt : Nat) (nonsat : Bool) (rd : Round) (r x : Ext) : Conv :=
  match r, x with
  | .inf _, .fin s 0 _ => ⟨Sys2Proof.Config.zeroByInf fmt s % 2 ^ elemBits fmt, false, false⟩
  | .inf _, .fin _ _ _ => ⟨(convert fmt nonsat rd (Ext.mul x r)).bits, !nonsat, false⟩
  | _, _ => convert fmt nonsat rd (Ext.mul x r)

/-- Convert one block or plain run with a given scale byte; `us` gives one draw for each element under stochastic
rounding. -/
def convBlock (fmt : Nat) (nonsat : Bool) (ts : W32) (scale : Nat) (zeroBlock : Bool) (xs : List (Ext × Round)) : ConvRun :=
  let r := convFactor fmt ts scale
  let cs : List Conv := xs.map fun (x, rd) => if zeroBlock then ⟨0, false, x.bad⟩ else convBy fmt nonsat rd r x
  ⟨cs.map (·.bits), if blockSize fmt = 0 then [] else [scale], cs.any (·.sat), cs.any (·.badIn)⟩

/-- Convert a row whose blocks run along it, forming each block scale from the block itself where `given` is `none`,
or taking the given scale bytes (R80 to R82). -/
def convRow (fmt : Nat) (nonsat : Bool) (ts : W32) (given : Option (List Nat)) (xs : List (Ext × Round)) : ConvRun :=
  let bs := blockSize fmt
  if bs = 0 then convBlock fmt nonsat ts 0 false xs
  else
    let blocks := chunksOf bs xs
    let scales := match given with
      | some s => (List.range blocks.length).map fun i => s.getD i 0
      | none => blocks.map fun b => blockScale fmt ts (amaxOf (b.map (·.1)))
    ((blocks.zip scales).map fun (b, s) =>
      convBlock fmt nonsat ts s (if isFb fmt then s % 128 = 0 else s = 0 && (amaxOf (b.map (·.1))).isZero) b).foldl ConvRun.join ConvRun.empty

/-! ### Packing -/

/-- Elements as a little-endian number of `bits` bits each. -/
def packNat (bits : Nat) : List Nat → Nat
  | [] => 0
  | x :: xs => x % 2 ^ bits + 2 ^ bits * packNat bits xs

/-- Pack element codes into bytes (R66): 4- and 6-bit elements are packed little-endian. -/
def packElems (fmt : Nat) (xs : List Nat) : List Byte :=
  leBytes (ceilDiv (xs.length * elemBits fmt) 8) (packNat (elemBits fmt) xs)

/-- Bytes of `n` elements of a format. -/
def elemBytes (fmt n : Nat) : Nat := ceilDiv (n * elemBits fmt) 8

/-- Element `i` of packed bytes. -/
def unpackElem (fmt : Nat) (bs : List Byte) (i : Nat) : Nat :=
  let b := elemBits fmt
  let lo := i * b
  bitsOf (leNat (slice bs (lo / 8) (ceilDiv (lo % 8 + b) 8))) (lo % 8) b

/-! ### Tensor format records (R69, R70) -/

/-- A decoded tensor format record. -/
structure TRec where
  fmt : Nat
  rnd : Nat
  satOvf : Bool
  nonsat : Bool
  axis : Nat
  ts : W32
  scaleRef : Nat
  reserved : Nat
  deriving DecidableEq, Repr

/-- Read a record from its two words (Table 3.5). -/
def TRec.ofWords (lo hi : Nat) : TRec :=
  { fmt := bitsOf lo 0 4, rnd := bitsOf lo 4 2, satOvf := bitOf lo 6, nonsat := bitOf lo 7, axis := bitsOf lo 8 4,
    ts := BitVec.ofNat 32 (bitsOf lo 32 32), scaleRef := hi, reserved := bitsOf lo 12 20 }

/-- The stated checks of R69; `dest` adds the destination rule of R70. Code 0xF is not judged here. -/
def TRec.okR69 (r : TRec) (dest : Bool) : Bool :=
  r.rnd < 2 && (!r.nonsat || r.fmt = 1 || r.fmt = 2 || r.fmt = 4) && (blockSize r.fmt ≠ 0 || r.axis = 0) &&
  r.reserved = 0 && (isScaledPlain r.fmt || isFb r.fmt || r.ts = one32) &&
  r.scaleRef % 64 = 0 && (blockSize r.fmt ≠ 0 || r.scaleRef = 0) &&
  (!dest || (!(f32 r.ts).bad && !(f32 r.ts).isZero))

end Sys2Proof.Machine
end

