-- ==== Sys2Proof/Registers.lean ====
section
/-! DEFINITION. The names of the registers (Tables 21.3 to 21.6 and the field maps of the chapters), their blocks,
reset domains (R8) and field access types (Table 0.3). -/

namespace Sys2Proof

/-- Field access types (Table 0.3); a bit of no field is reserved. -/
inductive Acc where
  | ro | rw | w1c | w1s | rc | wo
  deriving DecidableEq, Repr

/-- Reset domains, narrowest first (R8). -/
inductive Dom where
  | core | context | tenant | warm | cold | powerUp
  deriving DecidableEq, Repr

/-- The blocks of Tables 21.1 and 21.6 that hold registers. -/
inductive Block where
  | core | ctx | ring | unit | set | accGrp | tier | fdie | port | fabGrp | topo | ten | que | glb | sec | mbx | pwr | time
  deriving DecidableEq, Repr

/-- The registers. -/
inductive Reg where
  | coreSlotCfg
  | coreSlotTbl
  | coreSeqStat
  | coreHqStat
  | coreStallCtr
  | coreLagCyc
  | coreWcetOvr
  | coreCntClr
  | coreId
  | coreState
  | ctxLsCfg
  | ctxLsStat
  | ctxNumStat
  | genKv
  | genStat
  | genDefer
  | genEnd
  | genDlStat
  | genPoolStat
  | kvVbase
  | kvPvbase
  | kvHvbase
  | kvPool
  | kvStat
  | kvEvictStat
  | silRingBase
  | silRingCfg
  | silRingHead
  | silRingTail
  | silRingUse
  | silRingStat
  | silRingCnt
  | lrnStep
  | lrnClipCfg
  | lrnClipStat
  | lrnStepStat
  | updCtxCnt
  | updCtxErr
  | updCtxWatch
  | updUnitStat
  | updUnitBytes
  | updUnitWait
  | accSetCfg
  | accEpoch
  | accSetStat
  | accSetCnt
  | accSetErr
  | accFlipTime
  | accSetBase
  | accSetSize
  | accDigest
  | accGrpCfg
  | accGrpStat
  | rngSeed
  | rngSeedLive
  | rngStat
  | tierCap
  | tierTmo
  | tierLpd
  | tierStat
  | tierScrub
  | tierQuota
  | tierUse
  | tierCtxErr
  | tierProbe
  | tierProbeRes
  | dmaChCtl
  | dmaChStat
  | dmaChErr
  | dmaChBytes
  | dmaChAddr
  | dmaPtStat
  | poolCfg
  | poolStat
  | poolWait
  | fabPortCfg
  | fabPortStat
  | fabPortErr
  | fabPortFec
  | fabPortFlits
  | fabGrpCfg
  | fabGrpCtl
  | fabGrpStat
  | fabGrpErr
  | fabTopo
  | ckptJobId
  | ckptJob
  | ckptStat
  | ckptStep
  | ckptRej
  | tenCfg
  | tenStat
  | tenJobCount
  | tenCreate
  | tenCreateRes
  | tenCtl
  | ctxCfg
  | ctxState
  | ctxCtl
  | ctxFault
  | ctxFaultVa
  | ctxCores
  | queDb
  | queCqDb
  | queCfg
  | queSqBase
  | queCqBase
  | queStat
  | queCnt
  | hostStat
  | hostCtl
  | hostEnv
  | hostBase
  | hostBaseDpa
  | hostWinCfg
  | hostWinVa
  | secStat
  | secDevid
  | secSvn
  | secCtl
  | secEvtHead
  | secEvtInfo
  | secEvtTime
  | tenKeyNonce
  | tenKeyLoad
  | tenRpt
  | tenSecStat
  | ctxMeas
  | ctxMeasCnt
  | ctxMeasLog
  | bootStat
  | mbxCmd
  | mbxStat
  | mbxArg
  | mbxRes
  | pwrWakeRate
  | pwrWakeStat
  | pwrLimit
  | pwrStat
  | pwrCfg
  | pwrShut
  | pwrDomOn
  | pwrCoreThr
  | pwrUnitThr
  | pwrTemp
  | timeNow
  | timeFrac
  | timeCfg
  | timeStat
  | timeOfs
  | timeAdj
  | timeHostIn
  | timeHostOut
  | glbInfo
  deriving DecidableEq, Repr

/-- Registers, part 1 of 13. -/
def Reg.all1 : List Reg :=
  [.coreSlotCfg, .coreSlotTbl, .coreSeqStat, .coreHqStat, .coreStallCtr, .coreLagCyc, .coreWcetOvr, .coreCntClr, .coreId, .coreState, .ctxLsCfg, .ctxLsStat]

/-- Registers, part 2 of 13. -/
def Reg.all2 : List Reg :=
  [.ctxNumStat, .genKv, .genStat, .genDefer, .genEnd, .genDlStat, .genPoolStat, .kvVbase, .kvPvbase, .kvHvbase, .kvPool, .kvStat]

/-- Registers, part 3 of 13. -/
def Reg.all3 : List Reg :=
  [.kvEvictStat, .silRingBase, .silRingCfg, .silRingHead, .silRingTail, .silRingUse, .silRingStat, .silRingCnt, .lrnStep, .lrnClipCfg, .lrnClipStat, .lrnStepStat]

/-- Registers, part 4 of 13. -/
def Reg.all4 : List Reg :=
  [.updCtxCnt, .updCtxErr, .updCtxWatch, .updUnitStat, .updUnitBytes, .updUnitWait, .accSetCfg, .accEpoch, .accSetStat, .accSetCnt, .accSetErr, .accFlipTime]

/-- Registers, part 5 of 13. -/
def Reg.all5 : List Reg :=
  [.accSetBase, .accSetSize, .accDigest, .accGrpCfg, .accGrpStat, .rngSeed, .rngSeedLive, .rngStat, .tierCap, .tierTmo, .tierLpd, .tierStat]

/-- Registers, part 6 of 13. -/
def Reg.all6 : List Reg :=
  [.tierScrub, .tierQuota, .tierUse, .tierCtxErr, .tierProbe, .tierProbeRes, .dmaChCtl, .dmaChStat, .dmaChErr, .dmaChBytes, .dmaChAddr, .dmaPtStat]

/-- Registers, part 7 of 13. -/
def Reg.all7 : List Reg :=
  [.poolCfg, .poolStat, .poolWait, .fabPortCfg, .fabPortStat, .fabPortErr, .fabPortFec, .fabPortFlits, .fabGrpCfg, .fabGrpCtl, .fabGrpStat, .fabGrpErr]

/-- Registers, part 8 of 13. -/
def Reg.all8 : List Reg :=
  [.fabTopo, .ckptJobId, .ckptJob, .ckptStat, .ckptStep, .ckptRej, .tenCfg, .tenStat, .tenJobCount, .tenCreate, .tenCreateRes, .tenCtl]

/-- Registers, part 9 of 13. -/
def Reg.all9 : List Reg :=
  [.ctxCfg, .ctxState, .ctxCtl, .ctxFault, .ctxFaultVa, .ctxCores, .queDb, .queCqDb, .queCfg, .queSqBase, .queCqBase, .queStat]

/-- Registers, part 10 of 13. -/
def Reg.all10 : List Reg :=
  [.queCnt, .hostStat, .hostCtl, .hostEnv, .hostBase, .hostBaseDpa, .hostWinCfg, .hostWinVa, .secStat, .secDevid, .secSvn, .secCtl]

/-- Registers, part 11 of 13. -/
def Reg.all11 : List Reg :=
  [.secEvtHead, .secEvtInfo, .secEvtTime, .tenKeyNonce, .tenKeyLoad, .tenRpt, .tenSecStat, .ctxMeas, .ctxMeasCnt, .ctxMeasLog, .bootStat, .mbxCmd]

/-- Registers, part 12 of 13. -/
def Reg.all12 : List Reg :=
  [.mbxStat, .mbxArg, .mbxRes, .pwrWakeRate, .pwrWakeStat, .pwrLimit, .pwrStat, .pwrCfg, .pwrShut, .pwrDomOn, .pwrCoreThr, .pwrUnitThr]

/-- Registers, part 13 of 13. -/
def Reg.all13 : List Reg :=
  [.pwrTemp, .timeNow, .timeFrac, .timeCfg, .timeStat, .timeOfs, .timeAdj, .timeHostIn, .timeHostOut, .glbInfo]

/-- Every register, in the order of the chapters. -/
def Reg.all : List Reg :=
  List.flatten [Reg.all1, Reg.all2, Reg.all3, Reg.all4, Reg.all5, Reg.all6, Reg.all7, Reg.all8, Reg.all9, Reg.all10, Reg.all11, Reg.all12, Reg.all13]

end Sys2Proof
end

