-- ==== Sys2Proof/Machine/Regs.lean ====
section
/-! DEFINITION. The register file's tables, from the field maps of the chapters and the address tables of chapter 21:
for every register its block, offset, stride, number of array entries, reset domain, and its fields with place,
access type and reset value. -/

namespace Sys2Proof.Machine

/-- A named field: `w` bits of a register from bit `lo`. -/
structure Fld where
  reg : Reg
  lo : Nat
  w : Nat
  deriving DecidableEq, Repr

/-- A field of a register map: its name's place, its access type, and its reset value where that is a number. -/
structure FldSpec where
  fld : Fld
  acc : Acc
  rst : Nat
  deriving DecidableEq, Repr

/-- Where a register stands (chapter 21): block, offset in the instance, stride and count of its array, reset domain. -/
structure RegSpec where
  block : Block
  offset : Nat
  stride : Nat
  count : Nat
  dom : Dom
  deriving DecidableEq, Repr

namespace F

def coreSlotCfg_len : Fld := ⟨.coreSlotCfg, 0, 6⟩
def coreSlotCfg_slot_cyc : Fld := ⟨.coreSlotCfg, 6, 6⟩
def coreSlotCfg_top_f : Fld := ⟨.coreSlotCfg, 12, 5⟩
def coreSlotCfg_top_b : Fld := ⟨.coreSlotCfg, 17, 5⟩
def coreSlotCfg_top_u : Fld := ⟨.coreSlotCfg, 22, 5⟩
def coreSlotCfg_dma_own : Fld := ⟨.coreSlotCfg, 27, 16⟩
def coreSlotCfg_table_id : Fld := ⟨.coreSlotCfg, 43, 16⟩
def coreSlotTbl_eng0 : Fld := ⟨.coreSlotTbl, 0, 2⟩
def coreSlotTbl_eng1 : Fld := ⟨.coreSlotTbl, 2, 2⟩
def coreSlotTbl_eng2 : Fld := ⟨.coreSlotTbl, 4, 2⟩
def coreSlotTbl_eng3 : Fld := ⟨.coreSlotTbl, 6, 2⟩
def coreSlotTbl_vec : Fld := ⟨.coreSlotTbl, 8, 2⟩
def coreSeqStat_state : Fld := ⟨.coreSeqStat, 0, 3⟩
def coreSeqStat_cause : Fld := ⟨.coreSeqStat, 3, 3⟩
def coreSeqStat_clause_cnt : Fld := ⟨.coreSeqStat, 8, 32⟩
def coreHqStat_fill : Fld := ⟨.coreHqStat, 0, 7⟩
def coreHqStat_chain : Fld := ⟨.coreHqStat, 8, 16⟩
def coreHqStat_dropped : Fld := ⟨.coreHqStat, 24, 16⟩
def coreStallCtr_count : Fld := ⟨.coreStallCtr, 0, 64⟩
def coreLagCyc_lag : Fld := ⟨.coreLagCyc, 0, 64⟩
def coreWcetOvr_count : Fld := ⟨.coreWcetOvr, 0, 32⟩
def coreWcetOvr_last_over : Fld := ⟨.coreWcetOvr, 32, 32⟩
def coreCntClr_stall : Fld := ⟨.coreCntClr, 0, 1⟩
def coreCntClr_lag : Fld := ⟨.coreCntClr, 1, 1⟩
def coreCntClr_wcet : Fld := ⟨.coreCntClr, 2, 1⟩
def coreId_num : Fld := ⟨.coreId, 0, 8⟩
def coreId_present : Fld := ⟨.coreId, 8, 1⟩
def coreState_state : Fld := ⟨.coreState, 0, 2⟩
def coreState_ctx : Fld := ⟨.coreState, 8, 8⟩
def coreState_role : Fld := ⟨.coreState, 16, 1⟩
def ctxLsCfg_ls_init : Fld := ⟨.ctxLsCfg, 0, 6⟩
def ctxLsCfg_ls_min : Fld := ⟨.ctxLsCfg, 8, 6⟩
def ctxLsCfg_ls_max : Fld := ⟨.ctxLsCfg, 16, 6⟩
def ctxLsCfg_window : Fld := ⟨.ctxLsCfg, 32, 16⟩
def ctxLsCfg_enable : Fld := ⟨.ctxLsCfg, 48, 1⟩
def ctxLsStat_ls_exp : Fld := ⟨.ctxLsStat, 0, 6⟩
def ctxLsStat_clean : Fld := ⟨.ctxLsStat, 16, 16⟩
def ctxLsStat_ovf_steps : Fld := ⟨.ctxLsStat, 32, 32⟩
def ctxNumStat_ovf : Fld := ⟨.ctxNumStat, 0, 1⟩
def ctxNumStat_ovf_seen : Fld := ⟨.ctxNumStat, 1, 1⟩
def ctxNumStat_sat : Fld := ⟨.ctxNumStat, 2, 1⟩
def ctxNumStat_nan_cvt : Fld := ⟨.ctxNumStat, 3, 1⟩
def genKv_quota_pages : Fld := ⟨.genKv, 0, 32⟩
def genKv_reserved : Fld := ⟨.genKv, 32, 32⟩
def genStat_live : Fld := ⟨.genStat, 0, 16⟩
def genStat_paused : Fld := ⟨.genStat, 16, 16⟩
def genStat_pinned : Fld := ⟨.genStat, 32, 1⟩
def genDefer_by_quota : Fld := ⟨.genDefer, 0, 32⟩
def genDefer_by_time : Fld := ⟨.genDefer, 32, 32⟩
def genEnd_cancelled : Fld := ⟨.genEnd, 0, 32⟩
def genEnd_expired : Fld := ⟨.genEnd, 32, 32⟩
def genDlStat_misses : Fld := ⟨.genDlStat, 0, 32⟩
def genDlStat_last_over_ns : Fld := ⟨.genDlStat, 32, 32⟩
def genPoolStat_valid : Fld := ⟨.genPoolStat, 0, 1⟩
def genPoolStat_role : Fld := ⟨.genPoolStat, 1, 2⟩
def genPoolStat_place : Fld := ⟨.genPoolStat, 3, 1⟩
def genPoolStat_guar : Fld := ⟨.genPoolStat, 4, 1⟩
def genPoolStat_batch : Fld := ⟨.genPoolStat, 8, 16⟩
def genPoolStat_cores : Fld := ⟨.genPoolStat, 24, 9⟩
def kvVbase_base : Fld := ⟨.kvVbase, 30, 34⟩
def kvPvbase_base : Fld := ⟨.kvPvbase, 30, 34⟩
def kvHvbase_base : Fld := ⟨.kvHvbase, 23, 41⟩
def kvPool_pages : Fld := ⟨.kvPool, 0, 32⟩
def kvPool_free : Fld := ⟨.kvPool, 32, 32⟩
def kvStat_empty_rows : Fld := ⟨.kvStat, 0, 32⟩
def kvStat_hdr_wr : Fld := ⟨.kvStat, 32, 1⟩
def kvStat_pool_out : Fld := ⟨.kvStat, 33, 1⟩
def kvStat_pages_rej : Fld := ⟨.kvStat, 34, 1⟩
def kvEvictStat_freed : Fld := ⟨.kvEvictStat, 0, 32⟩
def kvEvictStat_moved : Fld := ⟨.kvEvictStat, 32, 32⟩
def silRingBase_vbase : Fld := ⟨.silRingBase, 30, 34⟩
def silRingCfg_valid : Fld := ⟨.silRingCfg, 0, 1⟩
def silRingCfg_full : Fld := ⟨.silRingCfg, 1, 1⟩
def silRingCfg_tier : Fld := ⟨.silRingCfg, 2, 2⟩
def silRingCfg_ctx : Fld := ⟨.silRingCfg, 8, 8⟩
def silRingCfg_cap : Fld := ⟨.silRingCfg, 16, 48⟩
def silRingHead_index : Fld := ⟨.silRingHead, 0, 64⟩
def silRingTail_index : Fld := ⟨.silRingTail, 0, 64⟩
def silRingUse_bytes : Fld := ⟨.silRingUse, 0, 64⟩
def silRingStat_full : Fld := ⟨.silRingStat, 0, 1⟩
def silRingStat_bad : Fld := ⟨.silRingStat, 1, 15⟩
def silRingStat_digest_bad : Fld := ⟨.silRingStat, 16, 16⟩
def silRingStat_gen_drop : Fld := ⟨.silRingStat, 32, 32⟩
def silRingCnt_draws : Fld := ⟨.silRingCnt, 0, 32⟩
def silRingCnt_retired : Fld := ⟨.silRingCnt, 32, 32⟩
def lrnStep_step : Fld := ⟨.lrnStep, 0, 64⟩
def lrnClipCfg_clip_max : Fld := ⟨.lrnClipCfg, 0, 32⟩
def lrnClipCfg_enable : Fld := ⟨.lrnClipCfg, 32, 1⟩
def lrnClipStat_norm : Fld := ⟨.lrnClipStat, 0, 32⟩
def lrnClipStat_factor : Fld := ⟨.lrnClipStat, 32, 32⟩
def lrnStepStat_phase : Fld := ⟨.lrnStepStat, 0, 2⟩
def lrnStepStat_pend : Fld := ⟨.lrnStepStat, 2, 2⟩
def lrnStepStat_clipped_last : Fld := ⟨.lrnStepStat, 4, 1⟩
def lrnStepStat_s_ovf : Fld := ⟨.lrnStepStat, 5, 1⟩
def lrnStepStat_clipped : Fld := ⟨.lrnStepStat, 32, 32⟩
def updCtxCnt_issued : Fld := ⟨.updCtxCnt, 0, 32⟩
def updCtxCnt_done : Fld := ⟨.updCtxCnt, 32, 32⟩
def updCtxErr_last : Fld := ⟨.updCtxErr, 0, 8⟩
def updCtxErr_tier : Fld := ⟨.updCtxErr, 8, 1⟩
def updCtxErr_errors : Fld := ⟨.updCtxErr, 32, 32⟩
def updCtxWatch_armed : Fld := ⟨.updCtxWatch, 0, 9⟩
def updCtxWatch_skipped : Fld := ⟨.updCtxWatch, 32, 32⟩
def updUnitStat_busy : Fld := ⟨.updUnitStat, 0, 1⟩
def updUnitStat_held : Fld := ⟨.updUnitStat, 1, 1⟩
def updUnitStat_ctx : Fld := ⟨.updUnitStat, 8, 8⟩
def updUnitStat_queued : Fld := ⟨.updUnitStat, 16, 8⟩
def updUnitStat_chunks : Fld := ⟨.updUnitStat, 32, 32⟩
def updUnitBytes_bytes : Fld := ⟨.updUnitBytes, 0, 64⟩
def updUnitWait_cycles : Fld := ⟨.updUnitWait, 0, 64⟩
def accSetCfg_valid : Fld := ⟨.accSetCfg, 0, 1⟩
def accSetCfg_ctx : Fld := ⟨.accSetCfg, 8, 8⟩
def accSetCfg_group : Fld := ⟨.accSetCfg, 16, 6⟩
def accSetCfg_local : Fld := ⟨.accSetCfg, 22, 1⟩
def accSetCfg_gset : Fld := ⟨.accSetCfg, 32, 16⟩
def accSetCfg_nshard : Fld := ⟨.accSetCfg, 48, 12⟩
def accEpoch_active : Fld := ⟨.accEpoch, 0, 32⟩
def accEpoch_floor : Fld := ⟨.accEpoch, 32, 32⟩
def accSetStat_state : Fld := ⟨.accSetStat, 0, 2⟩
def accSetStat_lagging : Fld := ⟨.accSetStat, 2, 1⟩
def accSetStat_bank : Fld := ⟨.accSetStat, 3, 1⟩
def accSetStat_landed : Fld := ⟨.accSetStat, 8, 13⟩
def accSetStat_asm : Fld := ⟨.accSetStat, 32, 32⟩
def accSetCnt_flips : Fld := ⟨.accSetCnt, 0, 32⟩
def accSetCnt_lags : Fld := ⟨.accSetCnt, 32, 32⟩
def accSetErr_stale : Fld := ⟨.accSetErr, 0, 16⟩
def accSetErr_bad : Fld := ⟨.accSetErr, 16, 16⟩
def accSetErr_digest_bad : Fld := ⟨.accSetErr, 32, 16⟩
def accSetErr_abandoned : Fld := ⟨.accSetErr, 48, 16⟩
def accFlipTime_time : Fld := ⟨.accFlipTime, 0, 64⟩
def accSetBase_vbase : Fld := ⟨.accSetBase, 30, 34⟩
def accSetSize_size : Fld := ⟨.accSetSize, 0, 64⟩
def accDigest_d : Fld := ⟨.accDigest, 0, 64⟩
def accGrpCfg_cap : Fld := ⟨.accGrpCfg, 0, 6⟩
def accGrpCfg_stall_us : Fld := ⟨.accGrpCfg, 16, 16⟩
def accGrpStat_pauses : Fld := ⟨.accGrpStat, 0, 32⟩
def accGrpStat_detaches : Fld := ⟨.accGrpStat, 32, 16⟩
def accGrpStat_paused : Fld := ⟨.accGrpStat, 48, 1⟩
def rngSeed_seed : Fld := ⟨.rngSeed, 0, 64⟩
def rngSeedLive_seed : Fld := ⟨.rngSeedLive, 0, 64⟩
def rngStat_tiles : Fld := ⟨.rngStat, 0, 32⟩
def rngStat_skip_cyc : Fld := ⟨.rngStat, 32, 32⟩
def tierCap_frames : Fld := ⟨.tierCap, 0, 32⟩
def tierCap_assigned : Fld := ⟨.tierCap, 32, 32⟩
def tierTmo_heart_us : Fld := ⟨.tierTmo, 0, 16⟩
def tierTmo_base_us : Fld := ⟨.tierTmo, 16, 16⟩
def tierLpd_pkgs : Fld := ⟨.tierLpd, 0, 4⟩
def tierLpd_rate : Fld := ⟨.tierLpd, 4, 2⟩
def tierLpd_dens : Fld := ⟨.tierLpd, 6, 2⟩
def tierStat_qwr_rej : Fld := ⟨.tierStat, 0, 1⟩
def tierStat_full : Fld := ⟨.tierStat, 1, 1⟩
def tierStat_retired : Fld := ⟨.tierStat, 16, 16⟩
def tierStat_corrected : Fld := ⟨.tierStat, 32, 32⟩
def tierScrub_top_passes : Fld := ⟨.tierScrub, 0, 32⟩
def tierScrub_heart_passes : Fld := ⟨.tierScrub, 32, 32⟩
def tierQuota_limit : Fld := ⟨.tierQuota, 0, 32⟩
def tierUse_bytes : Fld := ⟨.tierUse, 0, 64⟩
def tierCtxErr_timeouts : Fld := ⟨.tierCtxErr, 0, 32⟩
def tierCtxErr_errors : Fld := ⟨.tierCtxErr, 32, 32⟩
def tierProbe_va : Fld := ⟨.tierProbe, 0, 50⟩
def tierProbeRes_entry : Fld := ⟨.tierProbeRes, 0, 64⟩
def dmaChCtl_retry : Fld := ⟨.dmaChCtl, 0, 3⟩
def dmaChCtl_halted : Fld := ⟨.dmaChCtl, 8, 1⟩
def dmaChStat_queued : Fld := ⟨.dmaChStat, 0, 10⟩
def dmaChStat_last : Fld := ⟨.dmaChStat, 16, 8⟩
def dmaChStat_done : Fld := ⟨.dmaChStat, 32, 32⟩
def dmaChErr_retries : Fld := ⟨.dmaChErr, 0, 16⟩
def dmaChErr_halts : Fld := ⟨.dmaChErr, 16, 16⟩
def dmaChErr_tier : Fld := ⟨.dmaChErr, 32, 32⟩
def dmaChBytes_bytes : Fld := ⟨.dmaChBytes, 0, 64⟩
def dmaChAddr_addr : Fld := ⟨.dmaChAddr, 0, 64⟩
def dmaPtStat_queued : Fld := ⟨.dmaPtStat, 0, 7⟩
def dmaPtStat_halted : Fld := ⟨.dmaPtStat, 7, 1⟩
def dmaPtStat_last : Fld := ⟨.dmaPtStat, 8, 8⟩
def dmaPtStat_done : Fld := ⟨.dmaPtStat, 32, 32⟩
def poolCfg_dma_cap : Fld := ⟨.poolCfg, 0, 6⟩
def poolCfg_coll_cap : Fld := ⟨.poolCfg, 8, 6⟩
def poolStat_free : Fld := ⟨.poolStat, 0, 14⟩
def poolStat_low : Fld := ⟨.poolStat, 16, 14⟩
def poolWait_dma : Fld := ⟨.poolWait, 0, 32⟩
def poolWait_coll : Fld := ⟨.poolWait, 32, 32⟩
def fabPortCfg_enable : Fld := ⟨.fabPortCfg, 0, 1⟩
def fabPortCfg_width_max : Fld := ⟨.fabPortCfg, 1, 2⟩
def fabPortCfg_recal : Fld := ⟨.fabPortCfg, 3, 1⟩
def fabPortCfg_dma_w : Fld := ⟨.fabPortCfg, 8, 4⟩
def fabPortStat_state : Fld := ⟨.fabPortStat, 0, 2⟩
def fabPortStat_width : Fld := ⟨.fabPortStat, 2, 2⟩
def fabPortStat_level_set : Fld := ⟨.fabPortStat, 4, 1⟩
def fabPortStat_peer : Fld := ⟨.fabPortStat, 16, 16⟩
def fabPortStat_retrains : Fld := ⟨.fabPortStat, 32, 32⟩
def fabPortErr_crc : Fld := ⟨.fabPortErr, 0, 32⟩
def fabPortErr_replays : Fld := ⟨.fabPortErr, 32, 16⟩
def fabPortErr_tag : Fld := ⟨.fabPortErr, 48, 16⟩
def fabPortFec_corrected : Fld := ⟨.fabPortFec, 0, 32⟩
def fabPortFec_uncorr : Fld := ⟨.fabPortFec, 32, 32⟩
def fabPortFlits_tx : Fld := ⟨.fabPortFlits, 0, 32⟩
def fabPortFlits_rx : Fld := ⟨.fabPortFlits, 32, 32⟩
def fabGrpCfg_valid : Fld := ⟨.fabGrpCfg, 0, 1⟩
def fabGrpCfg_mode : Fld := ⟨.fabGrpCfg, 1, 1⟩
def fabGrpCfg_narrow : Fld := ⟨.fabGrpCfg, 2, 2⟩
def fabGrpCfg_broken : Fld := ⟨.fabGrpCfg, 4, 1⟩
def fabGrpCfg_ctx : Fld := ⟨.fabGrpCfg, 8, 8⟩
def fabGrpCfg_nmemb : Fld := ⟨.fabGrpCfg, 16, 13⟩
def fabGrpCfg_rank : Fld := ⟨.fabGrpCfg, 32, 12⟩
def fabGrpCtl_weight : Fld := ⟨.fabGrpCtl, 0, 4⟩
def fabGrpCtl_stall_us : Fld := ⟨.fabGrpCtl, 16, 16⟩
def fabGrpCtl_tmo_us : Fld := ⟨.fabGrpCtl, 32, 32⟩
def fabGrpStat_done : Fld := ⟨.fabGrpStat, 0, 32⟩
def fabGrpStat_aborts : Fld := ⟨.fabGrpStat, 32, 16⟩
def fabGrpStat_detaches : Fld := ⟨.fabGrpStat, 48, 16⟩
def fabGrpErr_rank : Fld := ⟨.fabGrpErr, 0, 12⟩
def fabGrpErr_cause : Fld := ⟨.fabGrpErr, 12, 4⟩
def fabGrpErr_seq : Fld := ⟨.fabGrpErr, 32, 32⟩
def fabTopo_pos : Fld := ⟨.fabTopo, 0, 4⟩
def fabTopo_cell : Fld := ⟨.fabTopo, 4, 4⟩
def fabTopo_row : Fld := ⟨.fabTopo, 8, 4⟩
def fabTopo_ncell : Fld := ⟨.fabTopo, 16, 4⟩
def fabTopo_nrow : Fld := ⟨.fabTopo, 20, 4⟩
def fabTopo_valid : Fld := ⟨.fabTopo, 24, 1⟩
def ckptJobId_id : Fld := ⟨.ckptJobId, 0, 64⟩
def ckptJob_grp : Fld := ⟨.ckptJob, 0, 8⟩
def ckptStat_phase : Fld := ⟨.ckptStat, 0, 3⟩
def ckptStat_slot : Fld := ⟨.ckptStat, 3, 1⟩
def ckptStat_last : Fld := ⟨.ckptStat, 8, 8⟩
def ckptStat_commits : Fld := ⟨.ckptStat, 32, 32⟩
def ckptStep_step : Fld := ⟨.ckptStep, 0, 64⟩
def ckptRej_step_rej : Fld := ⟨.ckptRej, 0, 32⟩
def ckptRej_digest_rej : Fld := ⟨.ckptRej, 32, 32⟩
def tenCfg_enable : Fld := ⟨.tenCfg, 0, 1⟩
def tenCfg_max_ctx : Fld := ⟨.tenCfg, 8, 9⟩
def tenCfg_max_cores : Fld := ⟨.tenCfg, 24, 9⟩
def tenCfg_max_queues : Fld := ⟨.tenCfg, 48, 15⟩
def tenStat_contexts : Fld := ⟨.tenStat, 0, 9⟩
def tenStat_cores : Fld := ⟨.tenStat, 16, 9⟩
def tenStat_queues : Fld := ⟨.tenStat, 32, 15⟩
def tenStat_resetting : Fld := ⟨.tenStat, 48, 1⟩
def tenJobCount_started : Fld := ⟨.tenJobCount, 0, 32⟩
def tenJobCount_ended : Fld := ⟨.tenJobCount, 32, 16⟩
def tenJobCount_torn : Fld := ⟨.tenJobCount, 48, 16⟩
def tenCreate_kind : Fld := ⟨.tenCreate, 0, 2⟩
def tenCreate_gen_cores : Fld := ⟨.tenCreate, 8, 9⟩
def tenCreate_lrn_cores : Fld := ⟨.tenCreate, 24, 9⟩
def tenCreate_nq : Fld := ⟨.tenCreate, 40, 13⟩
def tenCreateRes_status : Fld := ⟨.tenCreateRes, 0, 8⟩
def tenCreateRes_ctx : Fld := ⟨.tenCreateRes, 8, 8⟩
def tenCreateRes_busy : Fld := ⟨.tenCreateRes, 16, 1⟩
def tenCreateRes_qbase : Fld := ⟨.tenCreateRes, 32, 14⟩
def tenCtl_reset : Fld := ⟨.tenCtl, 0, 1⟩
def ctxCfg_tenant : Fld := ⟨.ctxCfg, 0, 6⟩
def ctxCfg_kind : Fld := ⟨.ctxCfg, 6, 2⟩
def ctxCfg_valid : Fld := ⟨.ctxCfg, 8, 1⟩
def ctxCfg_qbase : Fld := ⟨.ctxCfg, 16, 14⟩
def ctxCfg_nq : Fld := ⟨.ctxCfg, 32, 13⟩
def ctxState_state : Fld := ⟨.ctxState, 0, 3⟩
def ctxState_gen_held : Fld := ⟨.ctxState, 8, 9⟩
def ctxState_lrn_held : Fld := ⟨.ctxState, 17, 9⟩
def ctxState_gen_tgt : Fld := ⟨.ctxState, 32, 9⟩
def ctxState_lrn_tgt : Fld := ⟨.ctxState, 41, 9⟩
def ctxState_pending : Fld := ⟨.ctxState, 50, 1⟩
def ctxCtl_reset : Fld := ⟨.ctxCtl, 0, 1⟩
def ctxCtl_destroy : Fld := ⟨.ctxCtl, 1, 1⟩
def ctxFault_status : Fld := ⟨.ctxFault, 0, 8⟩
def ctxFault_core : Fld := ⟨.ctxFault, 8, 8⟩
def ctxFault_seq : Fld := ⟨.ctxFault, 16, 2⟩
def ctxFault_valid : Fld := ⟨.ctxFault, 18, 1⟩
def ctxFault_later : Fld := ⟨.ctxFault, 32, 32⟩
def ctxFaultVa_va : Fld := ⟨.ctxFaultVa, 0, 50⟩
def ctxCores_held : Fld := ⟨.ctxCores, 0, 64⟩
def queDb_sq_tail : Fld := ⟨.queDb, 0, 16⟩
def queCqDb_cq_head : Fld := ⟨.queCqDb, 0, 16⟩
def queCfg_enable : Fld := ⟨.queCfg, 0, 1⟩
def queCfg_sq_log : Fld := ⟨.queCfg, 1, 5⟩
def queCfg_cq_log : Fld := ⟨.queCfg, 6, 5⟩
def queCfg_vec : Fld := ⟨.queCfg, 11, 11⟩
def queCfg_irq : Fld := ⟨.queCfg, 22, 1⟩
def queSqBase_base : Fld := ⟨.queSqBase, 12, 52⟩
def queCqBase_base : Fld := ⟨.queCqBase, 12, 52⟩
def queStat_sq_head : Fld := ⟨.queStat, 0, 16⟩
def queStat_inflight : Fld := ⟨.queStat, 16, 16⟩
def queStat_state : Fld := ⟨.queStat, 32, 2⟩
def queStat_cause : Fld := ⟨.queStat, 40, 8⟩
def queCnt_taken : Fld := ⟨.queCnt, 0, 32⟩
def queCnt_done : Fld := ⟨.queCnt, 32, 32⟩
def hostStat_state : Fld := ⟨.hostStat, 0, 2⟩
def hostStat_width : Fld := ⟨.hostStat, 2, 5⟩
def hostStat_rate : Fld := ⟨.hostStat, 7, 2⟩
def hostStat_ide : Fld := ⟨.hostStat, 9, 1⟩
def hostStat_viral : Fld := ⟨.hostStat, 10, 1⟩
def hostStat_discards : Fld := ⟨.hostStat, 32, 16⟩
def hostStat_detaches : Fld := ⟨.hostStat, 48, 16⟩
def hostCtl_reattach : Fld := ⟨.hostCtl, 0, 1⟩
def hostEnv_limit_w : Fld := ⟨.hostEnv, 0, 16⟩
def hostEnv_ambient : Fld := ⟨.hostEnv, 16, 16⟩
def hostEnv_coolant : Fld := ⟨.hostEnv, 32, 16⟩
def hostBase_pid : Fld := ⟨.hostBase, 0, 12⟩
def hostBase_valid : Fld := ⟨.hostBase, 12, 1⟩
def hostBase_len : Fld := ⟨.hostBase, 21, 43⟩
def hostBaseDpa_dpa : Fld := ⟨.hostBaseDpa, 21, 43⟩
def hostWinCfg_valid : Fld := ⟨.hostWinCfg, 0, 1⟩
def hostWinCfg_w : Fld := ⟨.hostWinCfg, 1, 1⟩
def hostWinCfg_ctx : Fld := ⟨.hostWinCfg, 8, 8⟩
def hostWinCfg_len : Fld := ⟨.hostWinCfg, 16, 16⟩
def hostWinCfg_ap : Fld := ⟨.hostWinCfg, 32, 16⟩
def hostWinVa_va : Fld := ⟨.hostWinVa, 30, 20⟩
def secStat_id_ok : Fld := ⟨.secStat, 0, 1⟩
def secStat_puf_fail : Fld := ⟨.secStat, 1, 1⟩
def secStat_cert_fail : Fld := ⟨.secStat, 2, 1⟩
def secStat_ctr_ok : Fld := ⟨.secStat, 3, 1⟩
def secStat_noise_fail : Fld := ⟨.secStat, 4, 1⟩
def secStat_stage : Fld := ⟨.secStat, 8, 8⟩
def secDevid_d : Fld := ⟨.secDevid, 0, 64⟩
def secSvn_ctr : Fld := ⟨.secSvn, 0, 32⟩
def secSvn_run : Fld := ⟨.secSvn, 32, 32⟩
def secCtl_commit_svn : Fld := ⟨.secCtl, 0, 1⟩
def secCtl_peer_match : Fld := ⟨.secCtl, 1, 1⟩
def secEvtHead_total : Fld := ⟨.secEvtHead, 0, 32⟩
def secEvtInfo_code : Fld := ⟨.secEvtInfo, 0, 8⟩
def secEvtInfo_arg : Fld := ⟨.secEvtInfo, 8, 8⟩
def secEvtTime_time : Fld := ⟨.secEvtTime, 0, 64⟩
def tenKeyNonce_n : Fld := ⟨.tenKeyNonce, 0, 64⟩
def tenKeyLoad_addr : Fld := ⟨.tenKeyLoad, 6, 58⟩
def tenRpt_addr : Fld := ⟨.tenRpt, 12, 52⟩
def tenSecStat_mode : Fld := ⟨.tenSecStat, 0, 2⟩
def tenSecStat_kbusy : Fld := ⟨.tenSecStat, 2, 1⟩
def tenSecStat_rbusy : Fld := ⟨.tenSecStat, 3, 1⟩
def tenSecStat_erase : Fld := ⟨.tenSecStat, 4, 1⟩
def tenSecStat_kstatus : Fld := ⟨.tenSecStat, 8, 8⟩
def tenSecStat_rstatus : Fld := ⟨.tenSecStat, 16, 8⟩
def tenSecStat_loads : Fld := ⟨.tenSecStat, 32, 32⟩
def ctxMeas_m : Fld := ⟨.ctxMeas, 0, 64⟩
def ctxMeasCnt_count : Fld := ⟨.ctxMeasCnt, 0, 63⟩
def ctxMeasCnt_log_err : Fld := ⟨.ctxMeasCnt, 63, 1⟩
def ctxMeasLog_size_log : Fld := ⟨.ctxMeasLog, 0, 5⟩
def ctxMeasLog_base : Fld := ⟨.ctxMeasLog, 12, 38⟩
def bootStat_copy : Fld := ⟨.bootStat, 0, 4⟩
def bootStat_fallback : Fld := ⟨.bootStat, 4, 4⟩
def bootStat_slot : Fld := ⟨.bootStat, 8, 1⟩
def bootStat_link_ms : Fld := ⟨.bootStat, 16, 16⟩
def bootStat_cfg_svn : Fld := ⟨.bootStat, 32, 32⟩
def mbxCmd_cmd : Fld := ⟨.mbxCmd, 0, 8⟩
def mbxStat_busy : Fld := ⟨.mbxStat, 0, 1⟩
def mbxStat_status : Fld := ⟨.mbxStat, 8, 8⟩
def mbxArg_arg : Fld := ⟨.mbxArg, 0, 64⟩
def mbxRes_res : Fld := ⟨.mbxRes, 0, 64⟩
def pwrWakeRate_rate : Fld := ⟨.pwrWakeRate, 0, 5⟩
def pwrWakeRate_depth : Fld := ⟨.pwrWakeRate, 8, 7⟩
def pwrWakeStat_tokens : Fld := ⟨.pwrWakeStat, 0, 7⟩
def pwrWakeStat_queued : Fld := ⟨.pwrWakeStat, 16, 9⟩
def pwrWakeStat_max_wait_ns : Fld := ⟨.pwrWakeStat, 32, 32⟩
def pwrLimit_target_w : Fld := ⟨.pwrLimit, 0, 16⟩
def pwrLimit_max_w : Fld := ⟨.pwrLimit, 16, 16⟩
def pwrLimit_floor : Fld := ⟨.pwrLimit, 32, 4⟩
def pwrStat_pkg_w : Fld := ⟨.pwrStat, 0, 16⟩
def pwrStat_hot_t : Fld := ⟨.pwrStat, 16, 16⟩
def pwrStat_hot_idx : Fld := ⟨.pwrStat, 32, 4⟩
def pwrStat_clamps : Fld := ⟨.pwrStat, 48, 16⟩
def pwrCfg_thr_t : Fld := ⟨.pwrCfg, 0, 16⟩
def pwrCfg_idle_us : Fld := ⟨.pwrCfg, 16, 16⟩
def pwrShut_valid : Fld := ⟨.pwrShut, 0, 1⟩
def pwrShut_idx : Fld := ⟨.pwrShut, 8, 4⟩
def pwrDomOn_on : Fld := ⟨.pwrDomOn, 0, 64⟩
def pwrCoreThr_level : Fld := ⟨.pwrCoreThr, 0, 64⟩
def pwrUnitThr_level : Fld := ⟨.pwrUnitThr, 0, 64⟩
def pwrTemp_temp : Fld := ⟨.pwrTemp, 0, 16⟩
def pwrTemp_max : Fld := ⟨.pwrTemp, 16, 16⟩
def timeNow_ns : Fld := ⟨.timeNow, 0, 64⟩
def timeFrac_frac : Fld := ⟨.timeFrac, 0, 16⟩
def timeCfg_master : Fld := ⟨.timeCfg, 0, 1⟩
def timeCfg_tsync_src : Fld := ⟨.timeCfg, 1, 1⟩
def timeCfg_pps_en : Fld := ⟨.timeCfg, 2, 1⟩
def timeCfg_ref_en : Fld := ⟨.timeCfg, 3, 1⟩
def timeCfg_tsync_en : Fld := ⟨.timeCfg, 4, 1⟩
def timeStat_state : Fld := ⟨.timeStat, 0, 3⟩
def timeStat_conflict : Fld := ⟨.timeStat, 3, 1⟩
def timeStat_hop : Fld := ⟨.timeStat, 8, 3⟩
def timeStat_mrank : Fld := ⟨.timeStat, 16, 12⟩
def timeOfs_ps : Fld := ⟨.timeOfs, 0, 64⟩
def timeAdj_ns : Fld := ⟨.timeAdj, 0, 64⟩
def timeHostIn_ns : Fld := ⟨.timeHostIn, 0, 64⟩
def timeHostOut_ns : Fld := ⟨.timeHostOut, 0, 64⟩
def glbInfo_part_id : Fld := ⟨.glbInfo, 0, 32⟩
def glbInfo_stepping : Fld := ⟨.glbInfo, 32, 8⟩
def glbInfo_code : Fld := ⟨.glbInfo, 40, 1⟩
def glbInfo_cores : Fld := ⟨.glbInfo, 41, 9⟩
def glbInfo_ready : Fld := ⟨.glbInfo, 50, 1⟩

end F

/-- The fields of a register (the field maps). -/
def regFields : Reg → List FldSpec
  | .coreSlotCfg =>
    [⟨F.coreSlotCfg_len, .ro, 0⟩,
     ⟨F.coreSlotCfg_slot_cyc, .ro, 3⟩,
     ⟨F.coreSlotCfg_top_f, .ro, 0x10⟩,
     ⟨F.coreSlotCfg_top_b, .ro, 0⟩,
     ⟨F.coreSlotCfg_top_u, .ro, 0⟩,
     ⟨F.coreSlotCfg_dma_own, .ro, 0⟩,
     ⟨F.coreSlotCfg_table_id, .ro, 0⟩]
  | .coreSlotTbl =>
    [⟨F.coreSlotTbl_eng0, .ro, 0⟩,
     ⟨F.coreSlotTbl_eng1, .ro, 0⟩,
     ⟨F.coreSlotTbl_eng2, .ro, 0⟩,
     ⟨F.coreSlotTbl_eng3, .ro, 0⟩,
     ⟨F.coreSlotTbl_vec, .ro, 0⟩]
  | .coreSeqStat => [⟨F.coreSeqStat_state, .ro, 0⟩, ⟨F.coreSeqStat_cause, .ro, 0⟩, ⟨F.coreSeqStat_clause_cnt, .ro, 0⟩]
  | .coreHqStat => [⟨F.coreHqStat_fill, .ro, 0⟩, ⟨F.coreHqStat_chain, .ro, 0xffff⟩, ⟨F.coreHqStat_dropped, .ro, 0⟩]
  | .coreStallCtr => [⟨F.coreStallCtr_count, .ro, 0⟩]
  | .coreLagCyc => [⟨F.coreLagCyc_lag, .ro, 0⟩]
  | .coreWcetOvr => [⟨F.coreWcetOvr_count, .ro, 0⟩, ⟨F.coreWcetOvr_last_over, .ro, 0⟩]
  | .coreCntClr => [⟨F.coreCntClr_stall, .wo, 0⟩, ⟨F.coreCntClr_lag, .wo, 0⟩, ⟨F.coreCntClr_wcet, .wo, 0⟩]
  | .coreId => [⟨F.coreId_num, .ro, 0⟩, ⟨F.coreId_present, .ro, 0⟩]
  | .coreState => [⟨F.coreState_state, .ro, 0⟩, ⟨F.coreState_ctx, .ro, 0⟩, ⟨F.coreState_role, .ro, 0⟩]
  | .ctxLsCfg =>
    [⟨F.ctxLsCfg_ls_init, .rw, 0x10⟩,
     ⟨F.ctxLsCfg_ls_min, .rw, 0⟩,
     ⟨F.ctxLsCfg_ls_max, .rw, 0x18⟩,
     ⟨F.ctxLsCfg_window, .rw, 0x7d0⟩,
     ⟨F.ctxLsCfg_enable, .rw, 1⟩]
  | .ctxLsStat => [⟨F.ctxLsStat_ls_exp, .ro, 0x10⟩, ⟨F.ctxLsStat_clean, .ro, 0⟩, ⟨F.ctxLsStat_ovf_steps, .ro, 0⟩]
  | .ctxNumStat =>
    [⟨F.ctxNumStat_ovf, .ro, 0⟩,
     ⟨F.ctxNumStat_ovf_seen, .w1c, 0⟩,
     ⟨F.ctxNumStat_sat, .w1c, 0⟩,
     ⟨F.ctxNumStat_nan_cvt, .w1c, 0⟩]
  | .genKv => [⟨F.genKv_quota_pages, .rw, 0⟩, ⟨F.genKv_reserved, .ro, 0⟩]
  | .genStat => [⟨F.genStat_live, .ro, 0⟩, ⟨F.genStat_paused, .ro, 0⟩, ⟨F.genStat_pinned, .ro, 0⟩]
  | .genDefer => [⟨F.genDefer_by_quota, .ro, 0⟩, ⟨F.genDefer_by_time, .ro, 0⟩]
  | .genEnd => [⟨F.genEnd_cancelled, .ro, 0⟩, ⟨F.genEnd_expired, .ro, 0⟩]
  | .genDlStat => [⟨F.genDlStat_misses, .ro, 0⟩, ⟨F.genDlStat_last_over_ns, .ro, 0⟩]
  | .genPoolStat =>
    [⟨F.genPoolStat_valid, .ro, 0⟩,
     ⟨F.genPoolStat_role, .ro, 0⟩,
     ⟨F.genPoolStat_place, .ro, 0⟩,
     ⟨F.genPoolStat_guar, .ro, 0⟩,
     ⟨F.genPoolStat_batch, .ro, 0⟩,
     ⟨F.genPoolStat_cores, .ro, 0⟩]
  | .kvVbase => [⟨F.kvVbase_base, .rw, 0⟩]
  | .kvPvbase => [⟨F.kvPvbase_base, .rw, 0⟩]
  | .kvHvbase => [⟨F.kvHvbase_base, .rw, 0⟩]
  | .kvPool => [⟨F.kvPool_pages, .rw, 0⟩, ⟨F.kvPool_free, .ro, 0⟩]
  | .kvStat =>
    [⟨F.kvStat_empty_rows, .ro, 0⟩,
     ⟨F.kvStat_hdr_wr, .w1c, 0⟩,
     ⟨F.kvStat_pool_out, .w1c, 0⟩,
     ⟨F.kvStat_pages_rej, .w1c, 0⟩]
  | .kvEvictStat => [⟨F.kvEvictStat_freed, .ro, 0⟩, ⟨F.kvEvictStat_moved, .ro, 0⟩]
  | .silRingBase => [⟨F.silRingBase_vbase, .ro, 0⟩]
  | .silRingCfg =>
    [⟨F.silRingCfg_valid, .ro, 0⟩,
     ⟨F.silRingCfg_full, .ro, 0⟩,
     ⟨F.silRingCfg_tier, .ro, 0⟩,
     ⟨F.silRingCfg_ctx, .ro, 0⟩,
     ⟨F.silRingCfg_cap, .ro, 0⟩]
  | .silRingHead => [⟨F.silRingHead_index, .ro, 0⟩]
  | .silRingTail => [⟨F.silRingTail_index, .ro, 0⟩]
  | .silRingUse => [⟨F.silRingUse_bytes, .ro, 0⟩]
  | .silRingStat =>
    [⟨F.silRingStat_full, .w1c, 0⟩,
     ⟨F.silRingStat_bad, .ro, 0⟩,
     ⟨F.silRingStat_digest_bad, .ro, 0⟩,
     ⟨F.silRingStat_gen_drop, .ro, 0⟩]
  | .silRingCnt => [⟨F.silRingCnt_draws, .ro, 0⟩, ⟨F.silRingCnt_retired, .ro, 0⟩]
  | .lrnStep => [⟨F.lrnStep_step, .rw, 0⟩]
  | .lrnClipCfg => [⟨F.lrnClipCfg_clip_max, .rw, 0⟩, ⟨F.lrnClipCfg_enable, .rw, 0⟩]
  | .lrnClipStat => [⟨F.lrnClipStat_norm, .ro, 0⟩, ⟨F.lrnClipStat_factor, .ro, 0⟩]
  | .lrnStepStat =>
    [⟨F.lrnStepStat_phase, .ro, 0⟩,
     ⟨F.lrnStepStat_pend, .ro, 0⟩,
     ⟨F.lrnStepStat_clipped_last, .ro, 0⟩,
     ⟨F.lrnStepStat_s_ovf, .w1c, 0⟩,
     ⟨F.lrnStepStat_clipped, .ro, 0⟩]
  | .updCtxCnt => [⟨F.updCtxCnt_issued, .ro, 0⟩, ⟨F.updCtxCnt_done, .ro, 0⟩]
  | .updCtxErr => [⟨F.updCtxErr_last, .ro, 0⟩, ⟨F.updCtxErr_tier, .w1c, 0⟩, ⟨F.updCtxErr_errors, .ro, 0⟩]
  | .updCtxWatch => [⟨F.updCtxWatch_armed, .ro, 0⟩, ⟨F.updCtxWatch_skipped, .ro, 0⟩]
  | .updUnitStat =>
    [⟨F.updUnitStat_busy, .ro, 0⟩,
     ⟨F.updUnitStat_held, .ro, 0⟩,
     ⟨F.updUnitStat_ctx, .ro, 0⟩,
     ⟨F.updUnitStat_queued, .ro, 0⟩,
     ⟨F.updUnitStat_chunks, .ro, 0⟩]
  | .updUnitBytes => [⟨F.updUnitBytes_bytes, .ro, 0⟩]
  | .updUnitWait => [⟨F.updUnitWait_cycles, .ro, 0⟩]
  | .accSetCfg =>
    [⟨F.accSetCfg_valid, .ro, 0⟩,
     ⟨F.accSetCfg_ctx, .ro, 0⟩,
     ⟨F.accSetCfg_group, .ro, 0⟩,
     ⟨F.accSetCfg_local, .ro, 0⟩,
     ⟨F.accSetCfg_gset, .ro, 0⟩,
     ⟨F.accSetCfg_nshard, .ro, 0⟩]
  | .accEpoch => [⟨F.accEpoch_active, .ro, 0⟩, ⟨F.accEpoch_floor, .ro, 0⟩]
  | .accSetStat =>
    [⟨F.accSetStat_state, .ro, 0⟩,
     ⟨F.accSetStat_lagging, .ro, 0⟩,
     ⟨F.accSetStat_bank, .ro, 0⟩,
     ⟨F.accSetStat_landed, .ro, 0⟩,
     ⟨F.accSetStat_asm, .ro, 0⟩]
  | .accSetCnt => [⟨F.accSetCnt_flips, .ro, 0⟩, ⟨F.accSetCnt_lags, .ro, 0⟩]
  | .accSetErr =>
    [⟨F.accSetErr_stale, .ro, 0⟩,
     ⟨F.accSetErr_bad, .ro, 0⟩,
     ⟨F.accSetErr_digest_bad, .ro, 0⟩,
     ⟨F.accSetErr_abandoned, .ro, 0⟩]
  | .accFlipTime => [⟨F.accFlipTime_time, .ro, 0⟩]
  | .accSetBase => [⟨F.accSetBase_vbase, .ro, 0⟩]
  | .accSetSize => [⟨F.accSetSize_size, .ro, 0⟩]
  | .accDigest => [⟨F.accDigest_d, .ro, 0⟩]
  | .accGrpCfg => [⟨F.accGrpCfg_cap, .rw, 8⟩, ⟨F.accGrpCfg_stall_us, .rw, 0xc8⟩]
  | .accGrpStat => [⟨F.accGrpStat_pauses, .ro, 0⟩, ⟨F.accGrpStat_detaches, .ro, 0⟩, ⟨F.accGrpStat_paused, .ro, 0⟩]
  | .rngSeed => [⟨F.rngSeed_seed, .rw, 0⟩]
  | .rngSeedLive => [⟨F.rngSeedLive_seed, .ro, 0⟩]
  | .rngStat => [⟨F.rngStat_tiles, .ro, 0⟩, ⟨F.rngStat_skip_cyc, .ro, 0⟩]
  | .tierCap => [⟨F.tierCap_frames, .ro, 0⟩, ⟨F.tierCap_assigned, .ro, 0⟩]
  | .tierTmo => [⟨F.tierTmo_heart_us, .rw, 0x32⟩, ⟨F.tierTmo_base_us, .rw, 0x7d0⟩]
  | .tierLpd => [⟨F.tierLpd_pkgs, .ro, 0⟩, ⟨F.tierLpd_rate, .ro, 0⟩, ⟨F.tierLpd_dens, .ro, 0⟩]
  | .tierStat =>
    [⟨F.tierStat_qwr_rej, .w1c, 0⟩,
     ⟨F.tierStat_full, .w1c, 0⟩,
     ⟨F.tierStat_retired, .ro, 0⟩,
     ⟨F.tierStat_corrected, .ro, 0⟩]
  | .tierScrub => [⟨F.tierScrub_top_passes, .ro, 0⟩, ⟨F.tierScrub_heart_passes, .ro, 0⟩]
  | .tierQuota => [⟨F.tierQuota_limit, .rw, 0⟩]
  | .tierUse => [⟨F.tierUse_bytes, .ro, 0⟩]
  | .tierCtxErr => [⟨F.tierCtxErr_timeouts, .ro, 0⟩, ⟨F.tierCtxErr_errors, .ro, 0⟩]
  | .tierProbe => [⟨F.tierProbe_va, .wo, 0⟩]
  | .tierProbeRes => [⟨F.tierProbeRes_entry, .ro, 0⟩]
  | .dmaChCtl => [⟨F.dmaChCtl_retry, .rw, 3⟩, ⟨F.dmaChCtl_halted, .ro, 0⟩]
  | .dmaChStat => [⟨F.dmaChStat_queued, .ro, 0⟩, ⟨F.dmaChStat_last, .ro, 0⟩, ⟨F.dmaChStat_done, .ro, 0⟩]
  | .dmaChErr => [⟨F.dmaChErr_retries, .ro, 0⟩, ⟨F.dmaChErr_halts, .ro, 0⟩, ⟨F.dmaChErr_tier, .ro, 0⟩]
  | .dmaChBytes => [⟨F.dmaChBytes_bytes, .ro, 0⟩]
  | .dmaChAddr => [⟨F.dmaChAddr_addr, .ro, 0⟩]
  | .dmaPtStat =>
    [⟨F.dmaPtStat_queued, .ro, 0⟩,
     ⟨F.dmaPtStat_halted, .ro, 0⟩,
     ⟨F.dmaPtStat_last, .ro, 0⟩,
     ⟨F.dmaPtStat_done, .ro, 0⟩]
  | .poolCfg => [⟨F.poolCfg_dma_cap, .rw, 8⟩, ⟨F.poolCfg_coll_cap, .rw, 8⟩]
  | .poolStat => [⟨F.poolStat_free, .ro, 0x32e0⟩, ⟨F.poolStat_low, .ro, 0x32e0⟩]
  | .poolWait => [⟨F.poolWait_dma, .ro, 0⟩, ⟨F.poolWait_coll, .ro, 0⟩]
  | .fabPortCfg =>
    [⟨F.fabPortCfg_enable, .rw, 0⟩,
     ⟨F.fabPortCfg_width_max, .rw, 0⟩,
     ⟨F.fabPortCfg_recal, .w1s, 0⟩,
     ⟨F.fabPortCfg_dma_w, .rw, 1⟩]
  | .fabPortStat =>
    [⟨F.fabPortStat_state, .ro, 0⟩,
     ⟨F.fabPortStat_width, .ro, 0⟩,
     ⟨F.fabPortStat_level_set, .ro, 0⟩,
     ⟨F.fabPortStat_peer, .ro, 0xffff⟩,
     ⟨F.fabPortStat_retrains, .ro, 0⟩]
  | .fabPortErr => [⟨F.fabPortErr_crc, .ro, 0⟩, ⟨F.fabPortErr_replays, .ro, 0⟩, ⟨F.fabPortErr_tag, .ro, 0⟩]
  | .fabPortFec => [⟨F.fabPortFec_corrected, .ro, 0⟩, ⟨F.fabPortFec_uncorr, .ro, 0⟩]
  | .fabPortFlits => [⟨F.fabPortFlits_tx, .ro, 0⟩, ⟨F.fabPortFlits_rx, .ro, 0⟩]
  | .fabGrpCfg =>
    [⟨F.fabGrpCfg_valid, .ro, 0⟩,
     ⟨F.fabGrpCfg_mode, .ro, 0⟩,
     ⟨F.fabGrpCfg_narrow, .ro, 0⟩,
     ⟨F.fabGrpCfg_broken, .ro, 0⟩,
     ⟨F.fabGrpCfg_ctx, .ro, 0⟩,
     ⟨F.fabGrpCfg_nmemb, .ro, 0⟩,
     ⟨F.fabGrpCfg_rank, .ro, 0⟩]
  | .fabGrpCtl => [⟨F.fabGrpCtl_weight, .rw, 1⟩, ⟨F.fabGrpCtl_stall_us, .rw, 0xc8⟩, ⟨F.fabGrpCtl_tmo_us, .ro, 0x7d0⟩]
  | .fabGrpStat => [⟨F.fabGrpStat_done, .ro, 0⟩, ⟨F.fabGrpStat_aborts, .ro, 0⟩, ⟨F.fabGrpStat_detaches, .ro, 0⟩]
  | .fabGrpErr => [⟨F.fabGrpErr_rank, .ro, 0⟩, ⟨F.fabGrpErr_cause, .ro, 0⟩, ⟨F.fabGrpErr_seq, .ro, 0⟩]
  | .fabTopo =>
    [⟨F.fabTopo_pos, .ro, 0⟩,
     ⟨F.fabTopo_cell, .ro, 0⟩,
     ⟨F.fabTopo_row, .ro, 0⟩,
     ⟨F.fabTopo_ncell, .ro, 0⟩,
     ⟨F.fabTopo_nrow, .ro, 0⟩,
     ⟨F.fabTopo_valid, .ro, 0⟩]
  | .ckptJobId => [⟨F.ckptJobId_id, .rw, 0⟩]
  | .ckptJob => [⟨F.ckptJob_grp, .rw, 0xff⟩]
  | .ckptStat =>
    [⟨F.ckptStat_phase, .ro, 0⟩,
     ⟨F.ckptStat_slot, .ro, 0⟩,
     ⟨F.ckptStat_last, .ro, 0⟩,
     ⟨F.ckptStat_commits, .ro, 0⟩]
  | .ckptStep => [⟨F.ckptStep_step, .ro, 0⟩]
  | .ckptRej => [⟨F.ckptRej_step_rej, .ro, 0⟩, ⟨F.ckptRej_digest_rej, .ro, 0⟩]
  | .tenCfg =>
    [⟨F.tenCfg_enable, .rw, 0⟩,
     ⟨F.tenCfg_max_ctx, .rw, 0⟩,
     ⟨F.tenCfg_max_cores, .rw, 0⟩,
     ⟨F.tenCfg_max_queues, .rw, 0⟩]
  | .tenStat =>
    [⟨F.tenStat_contexts, .ro, 0⟩,
     ⟨F.tenStat_cores, .ro, 0⟩,
     ⟨F.tenStat_queues, .ro, 0⟩,
     ⟨F.tenStat_resetting, .ro, 0⟩]
  | .tenJobCount => [⟨F.tenJobCount_started, .ro, 0⟩, ⟨F.tenJobCount_ended, .ro, 0⟩, ⟨F.tenJobCount_torn, .ro, 0⟩]
  | .tenCreate =>
    [⟨F.tenCreate_kind, .wo, 0⟩,
     ⟨F.tenCreate_gen_cores, .wo, 0⟩,
     ⟨F.tenCreate_lrn_cores, .wo, 0⟩,
     ⟨F.tenCreate_nq, .wo, 0⟩]
  | .tenCreateRes =>
    [⟨F.tenCreateRes_status, .ro, 0⟩,
     ⟨F.tenCreateRes_ctx, .ro, 0⟩,
     ⟨F.tenCreateRes_busy, .ro, 0⟩,
     ⟨F.tenCreateRes_qbase, .ro, 0⟩]
  | .tenCtl => [⟨F.tenCtl_reset, .w1s, 0⟩]
  | .ctxCfg =>
    [⟨F.ctxCfg_tenant, .ro, 0⟩,
     ⟨F.ctxCfg_kind, .ro, 0⟩,
     ⟨F.ctxCfg_valid, .ro, 0⟩,
     ⟨F.ctxCfg_qbase, .ro, 0⟩,
     ⟨F.ctxCfg_nq, .ro, 0⟩]
  | .ctxState =>
    [⟨F.ctxState_state, .ro, 0⟩,
     ⟨F.ctxState_gen_held, .ro, 0⟩,
     ⟨F.ctxState_lrn_held, .ro, 0⟩,
     ⟨F.ctxState_gen_tgt, .ro, 0⟩,
     ⟨F.ctxState_lrn_tgt, .ro, 0⟩,
     ⟨F.ctxState_pending, .ro, 0⟩]
  | .ctxCtl => [⟨F.ctxCtl_reset, .w1s, 0⟩, ⟨F.ctxCtl_destroy, .w1s, 0⟩]
  | .ctxFault =>
    [⟨F.ctxFault_status, .ro, 0⟩,
     ⟨F.ctxFault_core, .ro, 0⟩,
     ⟨F.ctxFault_seq, .ro, 0⟩,
     ⟨F.ctxFault_valid, .ro, 0⟩,
     ⟨F.ctxFault_later, .ro, 0⟩]
  | .ctxFaultVa => [⟨F.ctxFaultVa_va, .ro, 0⟩]
  | .ctxCores => [⟨F.ctxCores_held, .ro, 0⟩]
  | .queDb => [⟨F.queDb_sq_tail, .wo, 0⟩]
  | .queCqDb => [⟨F.queCqDb_cq_head, .wo, 0⟩]
  | .queCfg =>
    [⟨F.queCfg_enable, .rw, 0⟩,
     ⟨F.queCfg_sq_log, .rw, 4⟩,
     ⟨F.queCfg_cq_log, .rw, 4⟩,
     ⟨F.queCfg_vec, .rw, 0⟩,
     ⟨F.queCfg_irq, .rw, 0⟩]
  | .queSqBase => [⟨F.queSqBase_base, .rw, 0⟩]
  | .queCqBase => [⟨F.queCqBase_base, .rw, 0⟩]
  | .queStat =>
    [⟨F.queStat_sq_head, .ro, 0⟩,
     ⟨F.queStat_inflight, .ro, 0⟩,
     ⟨F.queStat_state, .ro, 0⟩,
     ⟨F.queStat_cause, .ro, 0⟩]
  | .queCnt => [⟨F.queCnt_taken, .ro, 0⟩, ⟨F.queCnt_done, .ro, 0⟩]
  | .hostStat =>
    [⟨F.hostStat_state, .ro, 0⟩,
     ⟨F.hostStat_width, .ro, 0⟩,
     ⟨F.hostStat_rate, .ro, 0⟩,
     ⟨F.hostStat_ide, .ro, 0⟩,
     ⟨F.hostStat_viral, .w1c, 0⟩,
     ⟨F.hostStat_discards, .ro, 0⟩,
     ⟨F.hostStat_detaches, .ro, 0⟩]
  | .hostCtl => [⟨F.hostCtl_reattach, .w1s, 0⟩]
  | .hostEnv => [⟨F.hostEnv_limit_w, .ro, 0⟩, ⟨F.hostEnv_ambient, .ro, 0x8000⟩, ⟨F.hostEnv_coolant, .ro, 0x8000⟩]
  | .hostBase => [⟨F.hostBase_pid, .ro, 0⟩, ⟨F.hostBase_valid, .ro, 0⟩, ⟨F.hostBase_len, .ro, 0⟩]
  | .hostBaseDpa => [⟨F.hostBaseDpa_dpa, .ro, 0⟩]
  | .hostWinCfg =>
    [⟨F.hostWinCfg_valid, .ro, 0⟩,
     ⟨F.hostWinCfg_w, .ro, 0⟩,
     ⟨F.hostWinCfg_ctx, .ro, 0⟩,
     ⟨F.hostWinCfg_len, .ro, 0⟩,
     ⟨F.hostWinCfg_ap, .ro, 0⟩]
  | .hostWinVa => [⟨F.hostWinVa_va, .ro, 0⟩]
  | .secStat =>
    [⟨F.secStat_id_ok, .ro, 0⟩,
     ⟨F.secStat_puf_fail, .ro, 0⟩,
     ⟨F.secStat_cert_fail, .ro, 0⟩,
     ⟨F.secStat_ctr_ok, .ro, 0⟩,
     ⟨F.secStat_noise_fail, .ro, 0⟩,
     ⟨F.secStat_stage, .ro, 0⟩]
  | .secDevid => [⟨F.secDevid_d, .ro, 0⟩]
  | .secSvn => [⟨F.secSvn_ctr, .ro, 0⟩, ⟨F.secSvn_run, .ro, 0⟩]
  | .secCtl => [⟨F.secCtl_commit_svn, .w1s, 0⟩, ⟨F.secCtl_peer_match, .rw, 0⟩]
  | .secEvtHead => [⟨F.secEvtHead_total, .ro, 0⟩]
  | .secEvtInfo => [⟨F.secEvtInfo_code, .ro, 0⟩, ⟨F.secEvtInfo_arg, .ro, 0⟩]
  | .secEvtTime => [⟨F.secEvtTime_time, .ro, 0⟩]
  | .tenKeyNonce => [⟨F.tenKeyNonce_n, .ro, 0⟩]
  | .tenKeyLoad => [⟨F.tenKeyLoad_addr, .wo, 0⟩]
  | .tenRpt => [⟨F.tenRpt_addr, .wo, 0⟩]
  | .tenSecStat =>
    [⟨F.tenSecStat_mode, .ro, 0⟩,
     ⟨F.tenSecStat_kbusy, .ro, 0⟩,
     ⟨F.tenSecStat_rbusy, .ro, 0⟩,
     ⟨F.tenSecStat_erase, .w1s, 0⟩,
     ⟨F.tenSecStat_kstatus, .ro, 0⟩,
     ⟨F.tenSecStat_rstatus, .ro, 0⟩,
     ⟨F.tenSecStat_loads, .ro, 0⟩]
  | .ctxMeas => [⟨F.ctxMeas_m, .ro, 0⟩]
  | .ctxMeasCnt => [⟨F.ctxMeasCnt_count, .ro, 0⟩, ⟨F.ctxMeasCnt_log_err, .w1c, 0⟩]
  | .ctxMeasLog => [⟨F.ctxMeasLog_size_log, .rw, 0⟩, ⟨F.ctxMeasLog_base, .rw, 0⟩]
  | .bootStat =>
    [⟨F.bootStat_copy, .ro, 0⟩,
     ⟨F.bootStat_fallback, .ro, 0⟩,
     ⟨F.bootStat_slot, .ro, 0⟩,
     ⟨F.bootStat_link_ms, .ro, 0⟩,
     ⟨F.bootStat_cfg_svn, .ro, 0⟩]
  | .mbxCmd => [⟨F.mbxCmd_cmd, .wo, 0⟩]
  | .mbxStat => [⟨F.mbxStat_busy, .ro, 0⟩, ⟨F.mbxStat_status, .ro, 0⟩]
  | .mbxArg => [⟨F.mbxArg_arg, .rw, 0⟩]
  | .mbxRes => [⟨F.mbxRes_res, .ro, 0⟩]
  | .pwrWakeRate => [⟨F.pwrWakeRate_rate, .rw, 0⟩, ⟨F.pwrWakeRate_depth, .rw, 0⟩]
  | .pwrWakeStat =>
    [⟨F.pwrWakeStat_tokens, .ro, 0⟩,
     ⟨F.pwrWakeStat_queued, .ro, 0⟩,
     ⟨F.pwrWakeStat_max_wait_ns, .ro, 0⟩]
  | .pwrLimit => [⟨F.pwrLimit_target_w, .rw, 0⟩, ⟨F.pwrLimit_max_w, .ro, 0⟩, ⟨F.pwrLimit_floor, .ro, 0⟩]
  | .pwrStat =>
    [⟨F.pwrStat_pkg_w, .ro, 0⟩,
     ⟨F.pwrStat_hot_t, .ro, 0⟩,
     ⟨F.pwrStat_hot_idx, .ro, 0⟩,
     ⟨F.pwrStat_clamps, .ro, 0⟩]
  | .pwrCfg => [⟨F.pwrCfg_thr_t, .rw, 0x2f8⟩, ⟨F.pwrCfg_idle_us, .rw, 0x64⟩]
  | .pwrShut => [⟨F.pwrShut_valid, .ro, 0⟩, ⟨F.pwrShut_idx, .ro, 0⟩]
  | .pwrDomOn => [⟨F.pwrDomOn_on, .ro, 0⟩]
  | .pwrCoreThr => [⟨F.pwrCoreThr_level, .ro, 0⟩]
  | .pwrUnitThr => [⟨F.pwrUnitThr_level, .ro, 0⟩]
  | .pwrTemp => [⟨F.pwrTemp_temp, .ro, 0⟩, ⟨F.pwrTemp_max, .ro, 0⟩]
  | .timeNow => [⟨F.timeNow_ns, .ro, 0⟩]
  | .timeFrac => [⟨F.timeFrac_frac, .ro, 0⟩]
  | .timeCfg =>
    [⟨F.timeCfg_master, .ro, 0⟩,
     ⟨F.timeCfg_tsync_src, .rw, 0⟩,
     ⟨F.timeCfg_pps_en, .rw, 0⟩,
     ⟨F.timeCfg_ref_en, .rw, 0⟩,
     ⟨F.timeCfg_tsync_en, .rw, 0⟩]
  | .timeStat =>
    [⟨F.timeStat_state, .ro, 0⟩,
     ⟨F.timeStat_conflict, .w1c, 0⟩,
     ⟨F.timeStat_hop, .ro, 0⟩,
     ⟨F.timeStat_mrank, .ro, 0⟩]
  | .timeOfs => [⟨F.timeOfs_ps, .ro, 0⟩]
  | .timeAdj => [⟨F.timeAdj_ns, .wo, 0⟩]
  | .timeHostIn => [⟨F.timeHostIn_ns, .ro, 0⟩]
  | .timeHostOut => [⟨F.timeHostOut_ns, .ro, 0⟩]
  | .glbInfo =>
    [⟨F.glbInfo_part_id, .ro, 0x4d383430⟩,
     ⟨F.glbInfo_stepping, .ro, 0xb0⟩,
     ⟨F.glbInfo_code, .ro, 0⟩,
     ⟨F.glbInfo_cores, .ro, 0⟩,
     ⟨F.glbInfo_ready, .ro, 0⟩]

/-- The place and reset domain of a register (Tables 21.3 to 21.6, 2.11). -/
def regSpec : Reg → RegSpec
  | .coreSlotCfg => ⟨.core, 0x20, 8, 1, .core⟩
  | .coreSlotTbl => ⟨.core, 0x1000, 8, 64, .core⟩
  | .coreSeqStat => ⟨.core, 0x40, 8, 3, .core⟩
  | .coreHqStat => ⟨.core, 0x200, 8, 32, .core⟩
  | .coreStallCtr => ⟨.core, 0x100, 8, 24, .core⟩
  | .coreLagCyc => ⟨.core, 0x80, 8, 1, .core⟩
  | .coreWcetOvr => ⟨.core, 0x88, 8, 1, .core⟩
  | .coreCntClr => ⟨.core, 0x90, 8, 1, .core⟩
  | .coreId => ⟨.core, 0x0, 8, 1, .cold⟩
  | .coreState => ⟨.core, 0x8, 8, 1, .cold⟩
  | .ctxLsCfg => ⟨.ctx, 0x400, 8, 1, .context⟩
  | .ctxLsStat => ⟨.ctx, 0x408, 8, 1, .context⟩
  | .ctxNumStat => ⟨.ctx, 0x410, 8, 1, .context⟩
  | .genKv => ⟨.ctx, 0x800, 8, 1, .context⟩
  | .genStat => ⟨.ctx, 0x808, 8, 1, .context⟩
  | .genDefer => ⟨.ctx, 0x810, 8, 1, .context⟩
  | .genEnd => ⟨.ctx, 0x818, 8, 1, .context⟩
  | .genDlStat => ⟨.ctx, 0x820, 8, 1, .context⟩
  | .genPoolStat => ⟨.ctx, 0x880, 8, 16, .context⟩
  | .kvVbase => ⟨.ctx, 0x900, 8, 1, .context⟩
  | .kvPvbase => ⟨.ctx, 0x908, 8, 1, .context⟩
  | .kvHvbase => ⟨.ctx, 0x910, 8, 1, .context⟩
  | .kvPool => ⟨.ctx, 0x918, 8, 1, .context⟩
  | .kvStat => ⟨.ctx, 0x920, 8, 1, .context⟩
  | .kvEvictStat => ⟨.ctx, 0x928, 8, 1, .context⟩
  | .silRingBase => ⟨.ring, 0x0, 8, 1, .context⟩
  | .silRingCfg => ⟨.ring, 0x8, 8, 1, .context⟩
  | .silRingHead => ⟨.ring, 0x10, 8, 1, .context⟩
  | .silRingTail => ⟨.ring, 0x18, 8, 1, .context⟩
  | .silRingUse => ⟨.ring, 0x20, 8, 1, .context⟩
  | .silRingStat => ⟨.ring, 0x28, 8, 1, .context⟩
  | .silRingCnt => ⟨.ring, 0x30, 8, 1, .context⟩
  | .lrnStep => ⟨.ctx, 0xa00, 8, 1, .context⟩
  | .lrnClipCfg => ⟨.ctx, 0xa08, 8, 1, .context⟩
  | .lrnClipStat => ⟨.ctx, 0xa10, 8, 1, .context⟩
  | .lrnStepStat => ⟨.ctx, 0xa18, 8, 1, .context⟩
  | .updCtxCnt => ⟨.ctx, 0xb00, 8, 1, .context⟩
  | .updCtxErr => ⟨.ctx, 0xb08, 8, 1, .context⟩
  | .updCtxWatch => ⟨.ctx, 0xb10, 8, 1, .context⟩
  | .updUnitStat => ⟨.unit, 0x0, 8, 1, .warm⟩
  | .updUnitBytes => ⟨.unit, 0x8, 8, 1, .warm⟩
  | .updUnitWait => ⟨.unit, 0x10, 8, 1, .warm⟩
  | .accSetCfg => ⟨.set, 0x0, 8, 1, .context⟩
  | .accEpoch => ⟨.set, 0x8, 8, 1, .context⟩
  | .accSetStat => ⟨.set, 0x10, 8, 1, .context⟩
  | .accSetCnt => ⟨.set, 0x18, 8, 1, .context⟩
  | .accSetErr => ⟨.set, 0x20, 8, 1, .context⟩
  | .accFlipTime => ⟨.set, 0x28, 8, 1, .context⟩
  | .accSetBase => ⟨.set, 0x30, 8, 1, .context⟩
  | .accSetSize => ⟨.set, 0x38, 8, 1, .context⟩
  | .accDigest => ⟨.set, 0x40, 8, 4, .context⟩
  | .accGrpCfg => ⟨.accGrp, 0x0, 8, 1, .warm⟩
  | .accGrpStat => ⟨.accGrp, 0x8, 8, 1, .warm⟩
  | .rngSeed => ⟨.ctx, 0xc00, 8, 1, .context⟩
  | .rngSeedLive => ⟨.ctx, 0xc08, 8, 1, .context⟩
  | .rngStat => ⟨.core, 0x5000, 8, 1, .core⟩
  | .tierCap => ⟨.tier, 0x200000, 8, 3, .warm⟩
  | .tierTmo => ⟨.tier, 0x200020, 8, 1, .warm⟩
  | .tierLpd => ⟨.tier, 0x200028, 8, 1, .cold⟩
  | .tierStat => ⟨.tier, 0x200030, 8, 1, .warm⟩
  | .tierScrub => ⟨.tier, 0x200038, 8, 1, .warm⟩
  | .tierQuota => ⟨.ctx, 0xd00, 8, 3, .context⟩
  | .tierUse => ⟨.ctx, 0xd20, 8, 3, .context⟩
  | .tierCtxErr => ⟨.ctx, 0xd40, 8, 1, .context⟩
  | .tierProbe => ⟨.ctx, 0xd48, 8, 1, .context⟩
  | .tierProbeRes => ⟨.ctx, 0xd50, 8, 1, .context⟩
  | .dmaChCtl => ⟨.core, 0x4000, 0x100, 8, .core⟩
  | .dmaChStat => ⟨.core, 0x4008, 0x100, 8, .core⟩
  | .dmaChErr => ⟨.core, 0x4010, 0x100, 8, .core⟩
  | .dmaChBytes => ⟨.core, 0x4018, 0x100, 8, .core⟩
  | .dmaChAddr => ⟨.core, 0x4020, 0x100, 8, .core⟩
  | .dmaPtStat => ⟨.core, 0x4800, 8, 3, .core⟩
  | .poolCfg => ⟨.fdie, 0x0, 8, 1, .warm⟩
  | .poolStat => ⟨.fdie, 0x8, 8, 1, .warm⟩
  | .poolWait => ⟨.fdie, 0x10, 8, 1, .warm⟩
  | .fabPortCfg => ⟨.port, 0x0, 8, 1, .warm⟩
  | .fabPortStat => ⟨.port, 0x8, 8, 1, .warm⟩
  | .fabPortErr => ⟨.port, 0x10, 8, 1, .warm⟩
  | .fabPortFec => ⟨.port, 0x18, 8, 1, .warm⟩
  | .fabPortFlits => ⟨.port, 0x20, 8, 1, .warm⟩
  | .fabGrpCfg => ⟨.fabGrp, 0x0, 8, 1, .context⟩
  | .fabGrpCtl => ⟨.fabGrp, 0x8, 8, 1, .context⟩
  | .fabGrpStat => ⟨.fabGrp, 0x10, 8, 1, .context⟩
  | .fabGrpErr => ⟨.fabGrp, 0x18, 8, 1, .context⟩
  | .fabTopo => ⟨.topo, 0x321000, 8, 1, .warm⟩
  | .ckptJobId => ⟨.ctx, 0xe00, 8, 1, .context⟩
  | .ckptJob => ⟨.ctx, 0xe08, 8, 1, .context⟩
  | .ckptStat => ⟨.ctx, 0xe10, 8, 1, .context⟩
  | .ckptStep => ⟨.ctx, 0xe18, 8, 1, .context⟩
  | .ckptRej => ⟨.ctx, 0xe20, 8, 1, .context⟩
  | .tenCfg => ⟨.ten, 0x0, 8, 1, .warm⟩
  | .tenStat => ⟨.ten, 0x8, 8, 1, .tenant⟩
  | .tenJobCount => ⟨.ten, 0x10, 8, 1, .warm⟩
  | .tenCreate => ⟨.ten, 0x18, 8, 1, .tenant⟩
  | .tenCreateRes => ⟨.ten, 0x20, 8, 1, .tenant⟩
  | .tenCtl => ⟨.ten, 0x28, 8, 1, .tenant⟩
  | .ctxCfg => ⟨.ctx, 0x0, 8, 1, .tenant⟩
  | .ctxState => ⟨.ctx, 0x8, 8, 1, .tenant⟩
  | .ctxCtl => ⟨.ctx, 0x10, 8, 1, .tenant⟩
  | .ctxFault => ⟨.ctx, 0x18, 8, 1, .tenant⟩
  | .ctxFaultVa => ⟨.ctx, 0x20, 8, 1, .tenant⟩
  | .ctxCores => ⟨.ctx, 0x40, 8, 4, .tenant⟩
  | .queDb => ⟨.que, 0x0, 8, 1, .context⟩
  | .queCqDb => ⟨.que, 0x8, 8, 1, .context⟩
  | .queCfg => ⟨.que, 0x10, 8, 1, .tenant⟩
  | .queSqBase => ⟨.que, 0x18, 8, 1, .tenant⟩
  | .queCqBase => ⟨.que, 0x20, 8, 1, .tenant⟩
  | .queStat => ⟨.que, 0x28, 8, 1, .tenant⟩
  | .queCnt => ⟨.que, 0x30, 8, 1, .context⟩
  | .hostStat => ⟨.glb, 0x100, 8, 1, .cold⟩
  | .hostCtl => ⟨.glb, 0x108, 8, 1, .cold⟩
  | .hostEnv => ⟨.glb, 0x110, 8, 1, .warm⟩
  | .hostBase => ⟨.glb, 0x118, 8, 1, .warm⟩
  | .hostBaseDpa => ⟨.glb, 0x120, 8, 1, .warm⟩
  | .hostWinCfg => ⟨.glb, 0x400, 16, 64, .warm⟩
  | .hostWinVa => ⟨.glb, 0x408, 16, 64, .warm⟩
  | .secStat => ⟨.sec, 0x40000, 8, 1, .cold⟩
  | .secDevid => ⟨.sec, 0x40010, 8, 4, .cold⟩
  | .secSvn => ⟨.sec, 0x40030, 8, 1, .cold⟩
  | .secCtl => ⟨.sec, 0x40038, 8, 1, .warm⟩
  | .secEvtHead => ⟨.sec, 0x40040, 8, 1, .cold⟩
  | .secEvtInfo => ⟨.sec, 0x40100, 16, 64, .cold⟩
  | .secEvtTime => ⟨.sec, 0x40108, 16, 64, .cold⟩
  | .tenKeyNonce => ⟨.ten, 0x100, 8, 4, .warm⟩
  | .tenKeyLoad => ⟨.ten, 0x120, 8, 1, .warm⟩
  | .tenRpt => ⟨.ten, 0x128, 8, 1, .warm⟩
  | .tenSecStat => ⟨.ten, 0x130, 8, 1, .warm⟩
  | .ctxMeas => ⟨.ctx, 0xf00, 8, 4, .context⟩
  | .ctxMeasCnt => ⟨.ctx, 0xf20, 8, 1, .context⟩
  | .ctxMeasLog => ⟨.ctx, 0xf28, 8, 1, .context⟩
  | .bootStat => ⟨.mbx, 0x10000, 8, 1, .cold⟩
  | .mbxCmd => ⟨.mbx, 0x10100, 8, 1, .warm⟩
  | .mbxStat => ⟨.mbx, 0x10108, 8, 1, .warm⟩
  | .mbxArg => ⟨.mbx, 0x10110, 8, 4, .warm⟩
  | .mbxRes => ⟨.mbx, 0x10130, 8, 2, .warm⟩
  | .pwrWakeRate => ⟨.pwr, 0x20000, 8, 1, .warm⟩
  | .pwrWakeStat => ⟨.pwr, 0x20008, 8, 1, .warm⟩
  | .pwrLimit => ⟨.pwr, 0x20010, 8, 1, .warm⟩
  | .pwrStat => ⟨.pwr, 0x20018, 8, 1, .warm⟩
  | .pwrCfg => ⟨.pwr, 0x20020, 8, 1, .warm⟩
  | .pwrShut => ⟨.pwr, 0x20028, 8, 1, .powerUp⟩
  | .pwrDomOn => ⟨.pwr, 0x20100, 8, 6, .warm⟩
  | .pwrCoreThr => ⟨.pwr, 0x20200, 8, 16, .warm⟩
  | .pwrUnitThr => ⟨.pwr, 0x20280, 8, 2, .warm⟩
  | .pwrTemp => ⟨.pwr, 0x20300, 8, 12, .warm⟩
  | .timeNow => ⟨.time, 0x30000, 8, 1, .cold⟩
  | .timeFrac => ⟨.time, 0x30008, 8, 1, .cold⟩
  | .timeCfg => ⟨.time, 0x30010, 8, 1, .warm⟩
  | .timeStat => ⟨.time, 0x30018, 8, 1, .warm⟩
  | .timeOfs => ⟨.time, 0x30020, 8, 1, .warm⟩
  | .timeAdj => ⟨.time, 0x30028, 8, 1, .warm⟩
  | .timeHostIn => ⟨.time, 0x30040, 8, 1, .warm⟩
  | .timeHostOut => ⟨.time, 0x30048, 8, 1, .warm⟩
  | .glbInfo => ⟨.glb, 0x0, 8, 1, .cold⟩

/-- Base, stride and instance count of a block in BAR0, or in BAR2 for the queue pages (Tables 21.1 and 21.6).
A device-wide register's offset is its BAR0 offset. -/
def blockPlace : Block → Nat × Nat × Nat
  | .core => (0x2000000, 0x20000, 256)
  | .ctx => (0x1000000, 0x10000, 256)
  | .unit => (0x2E0000, 0x40, 32)
  | .set => (0x300000, 0x80, 256)
  | .accGrp => (0x310000, 0x10, 64)
  | .fdie => (0x2F0000, 0x100, 2)
  | .port => (0x100000, 0x8000, 32)
  | .fabGrp => (0x320000, 0x40, 64)
  | .ten => (0x50000, 0x400, 64)
  | .que => (0, 0x1000, 16384)
  | .ring => (0x380000, 0x40, 1024)
  | .tier | .topo | .glb | .sec | .mbx | .pwr | .time => (0, 0, 1)

end Sys2Proof.Machine
end

