-- ==== Sys2Proof/Machine/State.lean ====
section
/-! DEFINITION. The state of the M840: the register file, the memories, and every piece of state that the manual's
rules give the device beside its registers, as plain data; the reasons a step can stop; the state at reset release. -/

namespace Sys2Proof.Machine

/-- Why a command stops with a fault. -/
inductive Fault where
  /-- Raised by every meaning when the command names a unit or a value that the device does not have (a core above
  255, a port above 31): `Instr.wf` of the command is false. Safe: the manual gives no such command an effect. -/
  | noSuchInstance
  deriving DecidableEq, Repr

/-- Why a command is refused. -/
inductive Refusal where
  /-- Raised by an arm of the dispatch whose command has no meaning yet. Safe: nothing is claimed about it. -/
  | notModelled (mnemonic : String)
  deriving DecidableEq, Repr

/-- Who made a mapping: host software by MAP, or the device (KV ranges, ring ranges, Accord banks, checkpoint areas;
R231, R236, R305). -/
inductive LeafKind where
  | map
  | kv
  | ring
  | accord
  | area
  deriving DecidableEq, Repr

/-- A leaf of the translation tables (Table 11.3). `level` is 1, 2 or 3; `frame` is the tier-physical address divided
by 16 KiB (bits [47:14]). -/
structure Leaf where
  level : Nat
  tier : Nat
  w : Bool
  comp : Bool
  poison : Bool
  moving : Bool
  alloc : Bool
  fallback : Bool
  pref : Nat
  frame : Nat
  kind : LeafKind
  deriving DecidableEq, Repr

/-- A descriptor that the device has taken and not completed (R334): its ring index, the enable period of its queue
(R333), its 64 bytes, whether the class's own checks have accepted it, its place in the order in which the device took the
context's descriptors (R38, R238), the job seed at that moment (R224), and TIME_NOW then (R105). -/
structure Desc where
  idx : Nat
  period : Nat
  bytes : List Byte
  accepted : Bool
  ord : Nat
  seed : Word
  time : Nat
  deriving DecidableEq, Repr

/-- A completion that is due on a queue and not yet written (R334, R336). -/
structure Due where
  idx : Nat
  period : Nat
  status : Nat
  result : Nat
  deriving DecidableEq, Repr

/-- A queue beside its registers: the submission tail of QUE_DB, the device's completion tail, the head that host
software has consumed, the expected phase and the number of the enable period (R333, R334, R336). -/
structure Queue where
  sqTail : Nat
  cqTail : Nat
  cqHead : Nat
  phase : Bool
  period : Nat
  descs : List Desc
  due : List Due
  deriving DecidableEq, Repr

/-- A queue that has never been enabled. -/
def Queue.init : Queue := ⟨0, 0, 0, true, 0, [], []⟩

/-- A descriptor that the device has taken and holds for its completion: queue, ring index, enable period. -/
structure Waiter where
  q : Nat
  idx : Nat
  period : Nat
  deriving DecidableEq, Repr

/-- A clause that LAUNCH has accepted, waiting or placed (R35 to R41, R448): its descriptor fields, its image's
identity, the cores it was placed on and those on which it has not completed. A pool's step clause has `ref` of the
step form. `ord` is the place of its LAUNCH in the order in which the device took the context's descriptors (R38). -/
structure Clause where
  id : Nat
  ord : Nat
  ref : ClauseRef
  /-- The LAUNCH descriptor that waits for it. -/
  who : Option Waiter
  k : Nat
  tense : Nat
  gen : Bool
  stepEnd : Bool
  expectCyc : Nat
  wcetCyc : Nat
  inChains : List Nat
  outChains : List Nat
  arg : Nat
  tableId : Nat
  topF : Nat
  topB : Nat
  topU : Nat
  dmaOwn : Nat
  slotLen : Nat
  slotCyc : Nat
  lsRanges : List (Nat × Nat)
  slotTbl : List Nat
  digest : List Byte
  placed : Bool
  cores : List Nat
  left : List Nat
  restrict : List Nat
  /-- The seed of its draws, for a generation clause (R224). -/
  seed : Word
  deriving DecidableEq, Repr

/-- A chain of a context (R41): the clause that consumes it, its cores with the handle queue bound on each, and the
position of the next core in the round-robin order. -/
structure Chain where
  clause : Nat
  bound : List (Nat × Nat)
  turn : Nat
  deriving DecidableEq, Repr

/-- A transfer of a core's DMA engine that has been issued and has not completed (R258): its sequencer, its path (0 to 7
a channel, 8 + s sequencer s's particle path), its number on the core, its record, when it was issued, the bytes it has written, its
status when it has ended, the request that a bus error met last with its retries (R262), whether its remote writes have left, the lines
of them that the peer has not acknowledged with the first status other than OK it has returned (R257, R260), whether it is a prefetch for
the next step (R48, R49), and whether the device holds it until the full stop completes (R48). -/
structure Xfer where
  seq : Nat
  path : Nat
  num : Nat
  record : List Byte
  since : Nat
  moved : Nat
  ended : Option Nat
  retryAt : Nat
  retries : Nat
  sent : Bool
  lines : List Nat
  answer : Nat
  next : Bool
  held : Bool
  deriving DecidableEq, Repr

/-- One port of a core's generator (R217 to R223): the draw tile it is seeded for, the index of its next draw, and
the last 607 words of its sequence, oldest first. -/
structure GenPort where
  seed : Word
  tensor : Word
  row : Nat
  col : Nat
  index : Nat
  words : List Word
  deriving DecidableEq, Repr

/-- A core beside its registers. -/
structure Core where
  /-- Local store, 4 MiB (Table 2.1). -/
  store : Memory
  /-- The handles of the 32 queues, oldest first (R43). -/
  handles : SMap (List Word)
  /-- The running clause of each sequencer. -/
  clauses : SMap Nat
  /-- Sequencers that have completed a clause since the previous full stop (R33). -/
  doneSeqs : List Nat
  /-- Whether the core has run a clause since its last core reset (Table 2.6). -/
  used : Bool
  /-- DMA and particle transfers, in issue order. -/
  xfers : List Xfer
  /-- First status other than OK of each path since its DMA_STAT or PT_STAT (R253). -/
  firstBad : SMap Nat
  /-- First status other than OK of each group's core operations since COLL_STAT (R295), by sequencer × 64 + group. -/
  collBad : SMap Nat
  /-- The OVF flag that the core's instructions raise (R83). -/
  ovf : Bool
  /-- The two ports of the generator, by port number (R222). -/
  ports : SMap GenPort
  /-- The engine cycle at which the slot table was loaded: its entry 0 began (R28, R29). -/
  tableAt : Nat
  /-- Transfers issued since the core reset. -/
  xferNo : Nat
  deriving DecidableEq, Repr

/-- A core after a core reset. -/
def Core.init : Core := ⟨[], [], [], [], false, [], [], [], false, [], 0, 0⟩

/-- The states of a rollout (Table 4.1). `ending` is DONE with records that have not committed yet: its reservation and its START
follow them (R91). -/
inductive RollState where
  | prefill
  | running
  | pausing
  | paused
  | resuming
  | ending
  deriving DecidableEq, Repr

/-- An EVICT that waits (R132): its descriptor and its operands of Table 5.7. -/
structure EvictReq where
  who : Waiter
  action : Nat
  protect : Nat
  k : Nat
  deriving DecidableEq, Repr

/-- A generated token of an open record (R90): the token, its log-probability, the reward of its step boundary and
the latched world-model epoch. -/
structure GenTok where
  token : Nat
  logp : W32
  reward : W32
  envEpoch : Nat
  deriving DecidableEq, Repr

/-- A live rollout (R88 to R109): the fields of its START, and its progress. A prefill that this device runs for a rollout of another
(R95) stands among them too: `peer` names the rank and the context of the rollout's own device. -/
structure Rollout where
  seq : Nat
  peer : Option (Nat × Nat)
  who : Waiter
  st : RollState
  slot : Nat
  decPool : Nat
  prePool : Nat
  hardDl : Bool
  promptLen : Nat
  maxNew : Nat
  /-- The prompt's tokens as bytes, read when the START was taken. -/
  prompt : List Byte
  deadline : Nat
  temp : W32
  topK : Nat
  topP : Nat
  maskId : Nat
  ring : Nat
  source : Nat
  pages : Nat
  /-- Prompt positions encoded. -/
  filled : Nat
  /-- Tokens generated. -/
  tokens : Nat
  /-- The latest token. -/
  last : Nat
  /-- Whether a step is in progress, and the range of positions that the latest step appends. -/
  inStep : Bool
  stepLo : Nat
  stepHi : Nat
  /-- Epochs latched by the latest decode step: policy and world model. -/
  epoch : Nat
  envEpoch : Nat
  /-- The open record: its tokens, the ordinal of its first decode step, its policy epoch, whether it carries the prompt. -/
  toks : List GenTok
  recStep : Nat
  recEpoch : Nat
  recPrompt : Bool
  /-- The rollout's own end found in the step in progress, or the end it has reached: status and REASON. -/
  ending : Option (Nat × Nat)
  /-- CANCEL, PAUSE, RESUME and EVICT taken and waiting. -/
  cancels : List Waiter
  pauses : List (Waiter × Nat)
  resumes : List Waiter
  evicts : List EvictReq
  /-- The PAUSE that applies now and the time to live it set. -/
  pausing : Option (Waiter × Nat)
  expiry : Option Nat
  /-- Groups that eviction has freed (R131). -/
  freed : List Nat
  deriving DecidableEq, Repr

/-- A rollout step in progress on a pool (R89): its start time, the rollouts that have not passed their step boundary, all
its rollouts in batch order, the least non-zero deadline of its batch table (0: none), its kind, the address of its
batch table (R124), whether its last clause's completion has been acted on, and the cores it runs on (R23). -/
structure StepRun where
  start : Nat
  seqs : List Nat
  batch : List Nat
  least : Nat
  decode : Bool
  table : Word
  closed : Bool
  cores : List Nat
  deriving DecidableEq, Repr

/-- A pool (Table 4.4): its fields and the cores it took. `peerRank` is 0xFFFF for a local prefill pool. -/
structure Pool where
  role : Nat
  pinned : Bool
  hpc : Nat
  nheads : Nat
  maxBatch : Nat
  prog : List Nat
  w0 : Nat
  w1 : Nat
  wsPolicy : Nat
  wsEnv : Nat
  endToken : Nat
  segTokens : Nat
  tpg : Nat
  ppg : Nat
  chunk : Nat
  peerRank : Nat
  peerPool : Nat
  peerCtx : Nat
  vocab : Nat
  cores : List Nat
  /-- Cores that a ratio change or a removal took from the pool (R96): admission of HARD_DL waits for a new POOL. -/
  lost : Bool
  /-- A weight set that the pool names has been destroyed (R199). -/
  gone : Bool
  step : Option StepRun
  stepNo : Nat
  /-- The seed latched at the latest step start (R224). -/
  seed : Word
  /-- What a prefetch has latched for the next step (R49): weight set, bank, epoch. -/
  next : List (Nat × Nat × Nat)
  deriving DecidableEq, Repr

/-- A pending CORES request (R330). -/
structure CoresReq where
  who : Waiter
  donor : Option Nat
  deriving DecidableEq, Repr

/-- For whom a MOVE runs: a MIGRATE descriptor, a rollout's pause or resume, or an EVICT with ACTION 1 (R234). -/
inductive MoveOwner where
  | desc (w : Waiter)
  | pause (seq : Nat)
  | resume (seq : Nat)
  | evict (w : Waiter) (seq pages groups top : Nat)
  deriving DecidableEq, Repr

/-- A MOVE in progress (R237): when it began, its range of granules, the granules not yet moved with their reserved tier and frame,
its destination tier, and the counts. -/
structure Move where
  id : Nat
  owner : MoveOwner
  since : Nat
  start : Nat
  grans : Nat
  dest : Nat
  left : List (Nat × Nat × Nat)
  moved : Nat
  below : Nat
  deriving DecidableEq, Repr

/-- An update descriptor, accepted and not completed (R172 to R187): its core and sequencer, its 192 bytes, whether its
operation has begun, by unit the next chunk that it runs, the number of chunks, its status so far, whether PEND made it
skip, whether FACT runs pass B, the exact partials of pass A by row and by column in units of 2^-298 (`none`: not
finite), the sum of the row statistics, the listed rows of EMB, the counts read (the region's, or one for each listed
row), the sources of a REDUCE, and whether all its writes have completed, so that only its handle is left (R175). -/
structure Upd where
  id : Nat
  core : Nat
  seq : Nat
  bytes : List Byte
  begun : Bool
  next : List (Nat × Nat)
  total : Nat
  status : Nat
  skipped : Bool
  passB : Bool
  rowSq : SMap (Option Nat)
  colSq : SMap (Option Nat)
  rs : W32
  list : List Nat
  counts : List Nat
  srcs : List Nat
  written : Bool
  deriving DecidableEq, Repr

/-- A watched range (R179): its address, its number of elements, their plain code, the TSCALE and the unit. -/
structure Watch where
  addr : Nat
  elems : Nat
  fmt : Nat
  ts : W32
  unit : Nat
  deriving DecidableEq, Repr

/-- A live record of a ring (R136): its INDEX, where its header starts in the ring's range, and its bytes there. -/
structure RingRec where
  index : Nat
  off : Nat
  len : Nat
  epoch : Nat
  deriving DecidableEq, Repr

/-- A generated record that has been closed and not committed (R90, R136): its rollout, its header as the rollout filled
it and its logical payload. -/
structure RingWait where
  seq : Nat
  header : List Byte
  payload : List Byte
  deriving DecidableEq, Repr

/-- A ring beside its registers: the next byte offset for a record, the live records, the records waiting to commit. -/
structure Ring where
  next : Nat
  live : List RingRec
  waiting : List RingWait
  deriving DecidableEq, Repr

/-- A ring that does not exist. -/
def Ring.init : Ring := ⟨0, [], []⟩

/-- A shard of an assembly (R205): data flits that landed, whether one did not match the shard table, whether the shard
has been verified, and its digest. -/
structure ShardAsm where
  flits : Nat
  bad : Bool
  verified : Bool
  digest : List Byte
  deriving DecidableEq, Repr

/-- A weight set beside its registers (R194 to R206): the physical addresses of its banks in the top note, its shard
table, the digests of the active bank, the assembly (its shards, last flit time), the steps that latched each bank,
the held flits, ASM_TMO in ms, and the AWAITs pending. -/
structure WSet where
  bank0 : Nat
  bank1 : Nat
  table : List (Nat × Nat)
  asm : SMap ShardAsm
  asmTime : Nat
  staleSeen : List (Nat × Nat)
  readers0 : List (Nat × Nat)
  readers1 : List (Nat × Nat)
  /-- Flits that wait for the inactive bank, with the F-die that holds each. -/
  held : List (Nat × AccFlit)
  tmoMs : Nat
  awaits : List Waiter
  deriving DecidableEq, Repr

/-- A weight set that does not exist. -/
def WSet.init : WSet := ⟨0, 0, [], [], 0, [], [], [], [], 0, []⟩

/-- The content of a signed configuration (Table 18.4). -/
structure SignedCfg where
  part : Nat
  coreMap : Nat
  portEn : Nat
  pkgs : Nat
  rate : Nat
  dens : Nat
  aperture : Nat
  numVf : Nat
  master : Bool
  pkgMaxW : Nat
  wakeRate : Nat
  wakeDepth : Nat
  defCtx : Nat
  defCores : Nat
  defQueues : Nat
  defQuota0 : Nat
  defQuota1 : Nat
  defQuota2 : Nat
  slowPm : Nat
  deriving DecidableEq, Repr

/-- The least legal configuration of an MLN-M840-F: every core, nothing else (log entry 15). -/
def SignedCfg.least : SignedCfg :=
  ⟨0, 2 ^ 256 - 1, 0, 0, 0, 0, 0, 0, false, 0, 0, 0, 0, 0, 0, 0, 0, 0, 0⟩

/-- The attached flash (R389): its array (header slots, certificate and image copies stand in it), the counter key
once programmed, and counter 0. It keeps its content through every reset of the device. -/
structure Flash where
  array : Memory
  ctrKey : Option (List Byte)
  counter : Nat
  deriving DecidableEq, Repr

/-- A blank flash. -/
def Flash.blank : Flash := ⟨[], none, 0⟩

/-- The keys and measurements of the security root (R364, R369, Table 17.1), and its volatile state. -/
structure Sec where
  ctrKey : List Byte
  aliasPriv : List Byte
  aliasPub : List Byte
  kemPriv : List Byte
  kemPub : List Byte
  deviceId : List Byte
  idCert : List Byte
  aliasCert : List Byte
  /-- M1 to M6 (Table 17.3). -/
  meas : SMap (List Byte)
  svnLoader : Nat
  svnFirmware : Nat
  svnConfig : Nat
  /-- The key latch of R365. -/
  latchClosed : Bool
  /-- The stage at which the boot stopped (R370), with the stages that have no passing copy. -/
  stuck : Bool
  missing : List Nat
  calUsed : Nat
  /-- Requests to the deterministic generator of R367. -/
  randReqs : Nat
  /-- Tenant memory keys (R381), by tenant: key and label. -/
  keys : SMap (List Byte × List Byte)
  deriving DecidableEq, Repr

/-- The security root at reset release. -/
def Sec.init : Sec := ⟨[], [], [], [], [], [], [], [], [], 0, 0, 0, false, true, [], 0, 0, []⟩

/-- The SPDM responder (R375): connection progress; the sessions, by number, each with its state (handshake `false`,
established `true`) and its key updates; the next session number; the chunks of a large request; the next chunk of a large
response; the IDE streams with keys. -/
structure Spdm where
  versionOk : Bool
  capsOk : Bool
  algsOk : Bool
  sessions : SMap (Bool × Nat)
  nextSession : Nat
  chunkIn : List (Nat × Nat × List Byte)
  chunkOut : Nat
  ideIo : Bool
  ideMem : Bool
  deriving DecidableEq, Repr

/-- The responder before GET_VERSION. -/
def Spdm.init : Spdm := ⟨false, false, false, [], 1, [], 0, false, false⟩

/-- Power beside its registers (R402 to R410): self levels and junction levels by throttling domain, the wake queue
with the time each request joined, the time to which the bucket's gains are counted, and what the floor has seen; the
rails whose clamp holds, the latest junction temperature by domain (a 16-bit pattern of 1/8 °C), and the units and crypto
engines out of service (Table 20.2). -/
structure Power where
  selfLvl : SMap Nat
  junction : SMap Nat
  wakeQ : List (Nat × Nat)
  tokenTime : Nat
  belowSince : Option Nat
  clamped : List Nat
  shut : Bool
  unitOut : List Nat
  cryptoOut : List Nat
  temps : SMap Nat
  deriving DecidableEq, Repr

/-- Power with nothing requested. -/
def Power.init : Power := ⟨[], [], [], 0, none, [], false, [], [], []⟩

/-- A self-test request (R423): block, index, level, its descriptor (`none`: firmware's), when it joined, its limit,
and whether it runs. -/
structure TestReq where
  block : Nat
  index : Nat
  level : Nat
  who : Option Waiter
  since : Nat
  waitMs : Nat
  running : Bool
  deriving DecidableEq, Repr

/-- The time base (R413 to R421): the 80-bit value in units of 2^-16 ns, the rate added each tick in the same unit
(trimmed within 200 ppm), the time still to absorb at half rate, the beacons seen by port (hop, master's rank, time of
arrival), consecutive beacons inside and outside 1 ns, link delays by port in ps, and the per-function latches. -/
structure TimeBase where
  now : Nat
  rate : Nat
  absorb : Nat
  beacons : SMap (Nat × Nat × Nat)
  inRun : Nat
  outRun : Nat
  delays : SMap Nat
  fracLatch : SMap Nat
  highLatch : SMap Nat
  inLatch : SMap Nat
  outLatch : SMap Nat
  lastTsync : Nat
  deriving DecidableEq, Repr

/-- The time base at reset release: 0 ns, 1 ns a cycle. -/
def TimeBase.init : TimeBase := ⟨0, 65536, 0, [], 0, 0, [], [], [], [], [], 0⟩

/-- What an operation of a group's series is for: an operation of Table 13.3 from a descriptor or a clause; the full-stop barrier (R303);
the plan, the summaries and the outcome of a checkpoint (R313); the vote of a restore (R318). -/
inductive OpUse where
  | user
  | stop
  | plan
  | summary
  | outcome
  | vote
  deriving DecidableEq, Repr

/-- A collective operation of a group on this device (R285): its number in the series, its signature and source format,
its addresses and destination record, who issued it (a descriptor, or a core's sequencer), when this member issued it
(`none`: only other members' flits have arrived), whether it is in flight, this member's own values by chunk or own
bytes, the contributions and results that arrived (chunk or offset, fabric rank, values), the members whose BARRIER
arrived, the ports its trees and routes use as they stood at its issue, and the status of its own source read; what it is for; the
signature that each member's flits brought; the receivers' shares that stand at their cap (a port, or `none`: this device) with the time
since when, and the ports whose receivers are detached (R299). -/
structure CollOp where
  num : Nat
  sig : CollSig
  sfmt : Nat
  src : Nat
  dst : Nat
  drecLo : Nat
  drecHi : Nat
  who : Option Waiter
  core : Option (Nat × Nat)
  issued : Option Nat
  running : Bool
  chunks : List (List W32)
  own : List Byte
  ups : List (Nat × Nat × List W32)
  downs : List (Nat × Nat × List Byte)
  arrived : List Nat
  ports : List Nat
  status : Nat
  use : OpUse
  heard : List (Nat × CollSig)
  caps : List (Option Nat × Nat)
  cut : List Nat
  deriving DecidableEq, Repr

/-- A GROUP that waits for its JOINs (R284): its descriptor and context, its table, MODE and NARROW, timeout, digest, and
when it was taken. -/
structure Forming where
  who : Waiter
  ctx : Nat
  members : List (Nat × Nat)
  cfg : Nat
  tmo : Nat
  digest : List Byte
  since : Nat
  deriving DecidableEq, Repr

/-- A collective group (R283 to R299) beside its registers: its member table (fabric rank, context), the GROUP that waits,
the JOINs that arrived (fabric rank, digest), the next number of its series, its operations in series order, and the
aborted operations that this member has not yet issued (R296). -/
structure Group where
  members : List (Nat × Nat)
  forming : Option Forming
  joins : List (Nat × List Byte)
  series : Nat
  ops : List CollOp
  aborts : List Nat
  deriving DecidableEq, Repr

/-- A group number with no group. -/
def Group.init : Group := ⟨[], none, [], 0, [], []⟩

/-- To whom the buffers of an F-die's pool are reserved (Table 12.4): a port's link control, a port's inbound DMA flits of a HOP value, a
C-die's outbound DMA, a group's collectives, a group's Accord traffic. -/
inductive BufOwner where
  | ctrl (port : Nat)
  | dmaIn (port hop : Nat)
  | dmaOut (die : Nat)
  | coll (group : Nat)
  | acc (group : Nat)
  deriving DecidableEq, Repr

/-- Flits of one message that wait to leave by a port (R266, R277): class, group and framing fields (Table 13.1), how many of them are
still to leave and how many there are, what they say, whose buffers stage them and on which F-die, how many are staged, and the
remote transfer (core, path) whose bytes they carry. -/
structure Egress where
  cls : Nat
  group : Nat
  dst : Nat
  dir : Nat
  hop : Nat
  left : Nat
  total : Nat
  msg : FlitMsg
  owner : BufOwner
  die : Nat
  staged : Nat
  job : Option (Nat × Nat)
  deriving DecidableEq, Repr

/-- A flit in the replay buffer (R275): its SEQ, its bytes and what it says. -/
structure Sent where
  seq : Nat
  bytes : List Byte
  msg : FlitMsg
  deriving DecidableEq, Repr

/-- A fabric port (R272 to R282) beside its registers: the peer and level that ENV TOPO named, the key index and the
flits sent or received under the key by direction (0 out, 1 in), the next sequence numbers, the flits not acknowledged,
the SEQ last replayed with its count, a recalibration that runs, when a retrain began, when a failed rekey is
retried, the flits that wait to leave, and the flow whose turn it is with the flits it has sent in it (R277). -/
structure Port where
  topoRank : Nat
  level : Nat
  keyIndex : SMap Nat
  keyCount : SMap Nat
  txSeq : Nat
  rxSeq : Nat
  replay : List Sent
  replayRun : Nat × Nat
  recal : Bool
  retrainAt : Option Nat
  rekeyAt : Option Nat
  egress : List Egress
  turn : Nat × Nat
  deriving DecidableEq, Repr

/-- A port before ENV TOPO. -/
def Port.init : Port := ⟨0xFFFF, 0, [], [], 0, 0, [], (0, 0), false, none, none, [], (0, 0)⟩

/-- An update unit beside its registers: the sum-of-squares registers by context, exact in units of 2^-298 (R165),
with the contexts whose sum is not finite, and the context whose chunk it ran last (R174). -/
structure UnitSt where
  sq : SMap Nat
  sqBad : List Nat
  last : Option Nat
  deriving DecidableEq, Repr

/-- An update unit with nothing summed. -/
def UnitSt.init : UnitSt := ⟨[], [], none⟩

/-- A checkpoint area of a context (R305): its virtual address, length and pool offset. -/
structure Area where
  va : Nat
  len : Nat
  pool : Nat
  deriving DecidableEq, Repr

/-- A SAVE in progress (R312 to R316): its descriptor, the bytes of that and of its LIST, its area's virtual address and
length, the slot of the plan (0 A, 1 B), the status of its own writes, the shards written, its directory's digest, the
step, bytes 0 to 39 of the commit record as they stand at the full stop, and the first of its three numbers in the job group's series. -/
structure Ckpt where
  who : Waiter
  bytes : List Byte
  va : Nat
  len : Nat
  slot : Nat
  status : Nat
  shards : Nat
  dirDigest : List Byte
  step : Nat
  commit : List Byte
  base : Nat
  deriving DecidableEq, Repr

/-- A RESTORE whose job votes (R318): its descriptor, the bytes of its LIST, its area's virtual address and length, the candidates not yet
tried (slot, commit record), the candidate of the vote, the number of the vote in the series, the entries that this member filled, its
first rejection of that candidate, and the tier status that it met. -/
structure Restore where
  who : Waiter
  list : List Byte
  va : Nat
  len : Nat
  left : List (Nat × List Byte)
  now : Nat × List Byte
  num : Nat
  filled : Nat
  rejected : Option Nat
  tier : Option Nat
  deriving DecidableEq, Repr

/-- A SEND that has not completed (R201, R207): its descriptor, its set and epoch, the shards that it sends, its status so far, and the
flits that a pause has kept it from injecting (R210). -/
structure Sending where
  who : Waiter
  set : Nat
  epoch : Nat
  shards : List Nat
  status : Nat
  rest : List AccFlit
  deriving DecidableEq, Repr

/-- A context beside its registers. -/
structure Ctx where
  /-- The leaves of its translation tables, by the number of the 16 KiB granule at which each starts (R230, R231). -/
  leaves : SMap Leaf
  /-- Top-note frames that hold its tables (R231). -/
  tblFrames : List Nat
  /-- KV frames in use (R122, R242). -/
  kvUsed : Nat
  clauses : List Clause
  nextId : Nat
  chains : SMap Chain
  /-- The queue last served (R335), and how many descriptors the device has taken from the context's queues (R38). -/
  lastQueue : Nat
  takes : Nat
  /-- Digests of the last 16 images extended into CTX_MEAS (R374), newest first. -/
  digests : List (List Byte)
  rollouts : List Rollout
  pools : SMap Pool
  /-- Mask slots: number of bits and bytes (R102). -/
  masks : SMap (Nat × List Byte)
  coresReq : Option CoresReq
  /-- Cores named by a pending request that start no new rollout step (R23). -/
  stopping : List Nat
  fabricOnly : Bool
  areas : List Area
  moves : List Move
  upds : List Upd
  watches : List Watch
  ckpt : Option Ckpt
  /-- Loss scale and clip settings latched at the full stop that began the step (R87, R167, R177), and the seed. -/
  latLsExp : Nat
  latFactor : W32
  latPend : Nat
  /-- The full-stop barrier of the step has been entered and not ended (R303). -/
  inBarrier : Bool
  /-- The step waits for its SAVE's writes (R314). -/
  hold : Bool
  /-- Whether a step has begun since the last full stop, that is a learning clause was placed. -/
  stepOpen : Bool
  seedLatched : Bool
  /-- CORE_LAG_CYC and EXPECT_CYC of each core over the latest 64 full stops (R400): core, lag at each stop, expected. -/
  lagHist : SMap (List (Nat × Nat))
  expectNow : SMap Nat
  restore : Option Restore
  deriving DecidableEq, Repr

/-- A context number that is FREE. -/
def Ctx.init : Ctx :=
  ⟨[], [], 0, [], 0, [], 0, 0, [], [], [], [], none, [], false, [], [], [], [], none, 16, 0, 0, false, false,
   false, false, [], [], none⟩

/-- A message that left the device. -/
inductive Out where
  /-- An MSI-X message: function and vector (R336, R347). -/
  | msix (fn vec : Nat)
  /-- The answer to a host read: function, data; `ok = false`: poisoned data or completer abort (Table 16.3). -/
  | readData (fn : Nat) (data : List Byte) (ok : Bool)
  /-- What an instruction returned to its clause: core, sequencer, value. -/
  | toClause (core seq : Nat) (value : Nat)
  /-- A flit that left by a port: its 256 bytes, and what it says. -/
  | flit (port : Nat) (bytes : List Byte) (msg : FlitMsg)
  /-- A flit that was sent again. -/
  | replayed (port : Nat) (flit : Sent)
  /-- An SPDM or sideband response. -/
  | spdm (code : Nat) (data : List Byte)
  /-- A configuration request was answered; `retry`: with Request Retry Status (R360). -/
  | config (fn : Nat) (retry : Bool)
  /-- A pin changed or sent a code. -/
  | pin (name : String) (value : Nat)
  deriving DecidableEq, Repr

/-- The memories: every byte that the tiers, the host and the blotter hold, and the frames in use. -/
structure Mem where
  top : Memory
  heart : Memory
  base : Memory
  /-- Host memory as the functions' DMA addresses reach it: key `fn * 2^65 + address` (R347). -/
  host : Memory
  /-- Frames taken, by tier: first frame of each run and its length. -/
  usedTop : SMap Nat
  usedHeart : SMap Nat
  usedBase : SMap Nat
  /-- Frames retired (R247), as tier and frame. -/
  retired : List (Nat × Nat)
  /-- The key under which each 64-byte unit of the base window was written (R248). -/
  unitKey : SMap Nat
  /-- Metadata entries of the heart note's and the base note's frames (R246): four 16-bit block codes, MODE and UNITS. A frame that is
  not listed has the entry of a fresh one: every block ZERO under a compressed leaf, RAW under another. -/
  metaHeart : SMap Nat
  metaBase : SMap Nat
  deriving DecidableEq, Repr

/-- The memories with nothing written. -/
def Mem.init : Mem := ⟨[], [], [], [], [], [], [], [], [], [], []⟩

/-- The register file, by register, instance of its block and array index. -/
abbrev RegFile := SMap (SMap (SMap Word))

/-- Keep some instances of some registers. -/
def RegFile.keep (m : RegFile) (p : Nat → Nat → Bool) : RegFile := m.map fun e => (e.1, e.2.filter fun x => p e.1 x.1)

/-- The device: everything but the queue of commands and the flash. -/
structure Dev where
  cfg : SignedCfg
  /-- The register file: a register that is not listed holds its reset value. -/
  regs : RegFile
  /-- The model's own counter of free values drawn (log entry 3). -/
  freeIdx : Nat
  /-- Time-base cycles since the cold reset, from which the engine cycle follows (log entry 68). -/
  cycles : Nat
  /-- The local-store banks that units have addressed in the engine cycle in progress (R30): the unit (core × 8 + unit) and the
  bank (core × 16 + bank). -/
  banks : List (Nat × Nat)
  out : List Out
  mem : Mem
  ctxs : SMap Ctx
  cores : SMap Core
  queues : SMap Queue
  rings : SMap Ring
  sets : SMap WSet
  groups : SMap Group
  ports : SMap Port
  units : SMap UnitSt
  time : TimeBase
  power : Power
  sec : Sec
  spdm : Spdm
  tests : List TestReq
  /-- Accord shares that stand at their caps (R209): group, set tag, epoch, edge (`none`: landing), since when. -/
  shares : List (Nat × Nat × Nat × Option Nat × Nat)
  /-- Epochs whose edge the device has detached (R211): group, set tag, epoch, edge. -/
  cutEdges : List (Nat × Nat × Nat × Nat)
  sends : List Sending
  /-- The edges by which a publish has left this device (R212): group, set tag, epoch, port. -/
  treeEdges : List (Nat × Nat × Nat × Nat)
  mailboxCmd : Nat
  /-- Whether host-link training has started since the cold reset (R396). -/
  linkStarted : Bool
  /-- The MSI-X tables of the functions (Table 21.6): key `fn * 2^15 + offset`. -/
  msix : Memory
  deriving DecidableEq, Repr

/-- The whole state: the commands that wait, first in first out; the attached flash; the device. -/
structure State where
  pending : List Instr
  flash : Flash
  dev : Dev
  deriving DecidableEq, Repr

/-- The device at cold-reset release, before the ROM has read the flash (R395). -/
def Dev.init (cfg : SignedCfg) : Dev :=
  { cfg := cfg, regs := [], freeIdx := 0, cycles := 0, banks := [], out := [], mem := Mem.init, ctxs := [], cores := [], queues := [],
    rings := [], sets := [], groups := [], ports := [], units := [], time := TimeBase.init, power := Power.init,
    sec := Sec.init, spdm := Spdm.init, tests := [], shares := [], cutEdges := [], sends := [], treeEdges := [], mailboxCmd := 0,
    linkStarted := false, msix := [] }

/-- The state at cold-reset release with a blank flash (log entry 15). -/
def State.reset : State := { pending := [], flash := Flash.blank, dev := Dev.init SignedCfg.least }

end Sys2Proof.Machine
end

