-- ==== Sys2Proof/WellFormed.lean ====
section
/-! DEFINITION. Which commands name something that the device has: numbers of units, values that fit their fields. -/

namespace Sys2Proof

/-- A clause reference names a queue entry or a context's pool. -/
def wfRef : ClauseRef → Bool
  | .desc q i => q < 16384 && i < 65536
  | .step ctx pool _ => ctx < 256 && pool < 16

/-- A block and index of Table 20.1. -/
def wfBlock (block index : Nat) : Bool :=
  match block with
  | 0 => index < 256
  | 1 => index < 32
  | 2 => index < 32
  | 3 => index < 8
  | 4 => index < 4
  | _ => false

/-- A function reset names a function; VF Enable leaves 0 to 63 virtual functions. -/
def wfFlr : FlrKind → Bool
  | .function n => n < 64
  | .hot => true
  | .vfDisable n => n < 64

/-- The requester of a lower-tier request. -/
def wfReq : Requester → Bool
  | .channel core ch => core < 256 && ch < 8
  | .particle core seq => core < 256 && seq < 3
  | .move ctx _ => ctx < 256
  | .dmaCopy q i => q < 16384 && i < 65536
  | .operand core seq => core < 256 && seq < 3
  | .store core seq => core < 256 && seq < 3

/-- The coordinates of an operand's elements fit their 32-bit parts (R218). -/
def coordsOk (row0 rows col0 cols : Nat) : Bool := row0 + rows ≤ 2 ^ 32 && col0 + cols ≤ 2 ^ 32

/-- A command names units that exist and values that fit. -/
def Instr.wf : Instr → Bool
  | .launch q i => q < 16384 && i < 65536
  | .clausePlace ref => wfRef ref
  | .clauseComplete ctx _ _ => ctx < 256
  | .handlePush core seq chain _ => core < 256 && seq < 3 && chain < 1024
  | .handlePop core seq chain => core < 256 && seq < 3 && chain < 1024
  | .learningFullStop ctx _ => ctx < 256
  | .barrierMet ctx _ => ctx < 256
  | .barrierAbort ctx => ctx < 256
  | .generationFullStop ctx => ctx < 256
  | .coreReset core => core < 256
  | .coreRemove core => core < 256
  | .cntClrStall fn core => fn < 64 && core < 256
  | .cntClrLag fn core => fn < 64 && core < 256
  | .cntClrWcet fn core => fn < 64 && core < 256
  | .matrixInstruction core seq _ _ => core < 256 && seq < 3
  | .engineOutputWrite core seq op _ => core < 256 && seq < 3 && coordsOk op.row0 op.rows op.col0 op.cols
  | .conversionInstruction core seq op _ => core < 256 && seq < 3 && coordsOk op.row0 op.rows op.col0 op.cols
  | .scaleFormingInstruction core seq _ _ => core < 256 && seq < 3
  | .attentionInstruction core seq op _ => core < 256 && seq < 3 && coordsOk op.row0 0 op.col0 0
  | .attentionBackward core seq _ _ => core < 256 && seq < 3
  | .activationInstruction core seq _ _ => core < 256 && seq < 3
  | .activationBackward core seq _ _ => core < 256 && seq < 3
  | .dropoutInstruction core seq op _ => core < 256 && seq < 3 && coordsOk op.row0 op.rows op.col0 op.cols
  | .normBackward core seq _ _ => core < 256 && seq < 3
  | .vocabHeadInstruction core seq _ _ => core < 256 && seq < 3
  | .vocabHeadBackward core seq _ _ => core < 256 && seq < 3
  | .vectorDraw core seq op => core < 256 && seq < 3 && coordsOk op.row0 op.rows op.col0 op.cols
  | .kvAppendWrite core seq _ _ => core < 256 && seq < 3
  | .start q i => q < 16384 && i < 65536
  | .cancel q i => q < 16384 && i < 65536
  | .pause q i => q < 16384 && i < 65536
  | .resume q i => q < 16384 && i < 65536
  | .pool q i => q < 16384 && i < 65536
  | .mask q i => q < 16384 && i < 65536
  | .prefillStep ctx seq _ => ctx < 256 && seq < 2 ^ 24
  | .decodeStep ctx p0 _ _ => ctx < 256 && p0 < 16
  | .stepBoundary ctx seq => ctx < 256 && seq < 2 ^ 24
  | .promptShipped ctx seq => ctx < 256 && seq < 2 ^ 24
  | .remotePrefillRefused ctx seq => ctx < 256 && seq < 2 ^ 24
  | .pauseMoveDone ctx seq => ctx < 256 && seq < 2 ^ 24
  | .resumeMoveDone ctx seq => ctx < 256 && seq < 2 ^ 24
  | .ttlExpire ctx seq => ctx < 256 && seq < 2 ^ 24
  | .evict q i => q < 16384 && i < 65536
  | .kvBaseWrite fn ctx which _ => fn < 64 && ctx < 256 && which < 3
  | .kvPoolWrite fn ctx pages => fn < 64 && ctx < 256 && pages < 2 ^ 32
  | .silCreate q i => q < 16384 && i < 65536
  | .silDestroy q i => q < 16384 && i < 65536
  | .silAppend q i _ => q < 16384 && i < 65536
  | .silDraw q i _ => q < 16384 && i < 65536
  | .recordCommit ring _ => ring < 1024
  | .lrnStepWrite fn ctx _ => fn < 64 && ctx < 256
  | .upd core seq _ _ => core < 256 && seq < 3
  | .apply ctx _ _ => ctx < 256
  | .watch ctx _ => ctx < 256
  | .unwatch ctx _ => ctx < 256
  | .reduce ctx _ => ctx < 256
  | .updChunk ctx _ unit _ => ctx < 256 && unit < 32
  | .factPassB ctx _ => ctx < 256
  | .updComplete ctx _ => ctx < 256
  | .wsCreate q i _ => q < 16384 && i < 65536
  | .send q i _ => q < 16384 && i < 65536
  | .sendComplete q i => q < 16384 && i < 65536
  | .wsDestroy q i => q < 16384 && i < 65536
  | .await q i => q < 16384 && i < 65536
  | .accordFlitArrive port _ => port < 32
  | .bankRelease set => set < 256
  | .shareDetach g0 gset epoch edge => g0 < 64 && gset < 65536 && epoch < 4294967296 && edge.all (· < 32)
  | .detachFlitArrive _ => true
  | .asmTmo set => set < 256
  | .map q i => q < 16384 && i < 65536
  | .unmap q i => q < 16384 && i < 65536
  | .move q i => q < 16384 && i < 65536
  | .hint q i => q < 16384 && i < 65536
  | .moveGranule ctx _ _ => ctx < 256
  | .tierRequestComplete req _ _ => wfReq req
  | .tierTimeoutExpiry req _ => wfReq req
  | .patrolScrub tier _ _ _ _ => tier < 3
  | .tierQuotaWrite fn ctx tier limit => fn < 64 && ctx < 256 && tier < 3 && limit < 2 ^ 32
  | .tierProbe fn ctx va => fn < 64 && ctx < 256 && va < 2 ^ 50
  | .dma core seq ch _ _ => core < 256 && seq < 3 && ch < 8
  | .dmaWait core seq ch _ => core < 256 && seq < 3 && ch < 8
  | .dmaStat core seq ch => core < 256 && seq < 3 && ch < 8
  | .dmaClr core seq ch => core < 256 && seq < 3 && ch < 8
  | .ptWait core seq _ => core < 256 && seq < 3
  | .ptStat core seq => core < 256 && seq < 3
  | .ptClr core seq => core < 256 && seq < 3
  | .dmaTransfer core ch _ => core < 256 && ch < 11
  | .dmaTransferComplete core ch => core < 256 && ch < 11
  | .dmaRetry core ch _ => core < 256 && ch < 11
  | .remoteWriteArrive g0 rank _ _ _ _ => g0 < 64 && rank < 4096
  | .dmaCopy q i _ _ _ => q < 16384 && i < 65536
  | .flitReceive port _ _ => port < 32
  | .replayRequest port seq => port < 32 && seq < 2 ^ 32
  | .portTraining port _ _ => port < 32
  | .laneFail port => port < 32
  | .retrainTimeout port => port < 32
  | .portDown port => port < 32
  | .rekey port dir _ => port < 32 && dir < 2
  | .rekeyRetry port _ => port < 32
  | .keyLimitReached port => port < 32
  | .group q i => q < 16384 && i < 65536
  | .joinReceive g0 rank _ => g0 < 64 && rank < 4096
  | .groupJoinTimeout g0 => g0 < 64
  | .collDestroy q i => q < 16384 && i < 65536
  | .allReduce q i _ => q < 16384 && i < 65536
  | .reduceScatter q i _ => q < 16384 && i < 65536
  | .allGather q i _ => q < 16384 && i < 65536
  | .broadcast q i _ => q < 16384 && i < 65536
  | .barrier q i => q < 16384 && i < 65536
  | .coll core seq _ _ => core < 256 && seq < 3
  | .collWait core seq g0 _ => core < 256 && seq < 3 && g0 < 64
  | .collStat core seq g0 => core < 256 && seq < 3 && g0 < 64
  | .collOperationComplete g0 _ _ => g0 < 64
  | .collAbortTimeout g0 _ => g0 < 64
  | .abortReceive g0 _ rank cause => g0 < 64 && rank < 4096 && cause < 5
  | .collShareDetach g0 _ edge => g0 < 64 && edge.all (· < 32)
  | .recal fn port => fn < 64 && port < 32
  | .recalStart port => port < 32
  | .recalComplete port _ => port < 32
  | .area q i => q < 16384 && i < 65536
  | .save q i => q < 16384 && i < 65536
  | .saveWritesDone ctx _ => ctx < 256
  | .saveOutcome ctx _ => ctx < 256
  | .restore q i _ => q < 16384 && i < 65536
  | .query q i _ => q < 16384 && i < 65536
  | .ckptJobWrite fn ctx which _ => fn < 64 && ctx < 256 && which < 2
  | .tenCreate fn tenant _ => fn < 64 && tenant < 64
  | .ctxReset fn ctx => fn < 64 && ctx < 256
  | .ctxDestroy fn ctx => fn < 64 && ctx < 256
  | .ctxTeardown ctx => ctx < 256
  | .tenantReset fn tenant => fn < 64 && tenant < 64
  | .tenCfgWrite fn tenant _ => fn < 64 && tenant < 64
  | .cores q i => q < 16384 && i < 65536
  | .coresApply ctx => ctx < 256
  | .queDb fn q tail => fn < 64 && q < 16384 && tail < 65536
  | .queCqDb fn q head => fn < 64 && q < 16384 && head < 65536
  | .queEnable fn q _ => fn < 64 && q < 16384
  | .queDisable fn q _ => fn < 64 && q < 16384
  | .descriptorTake ctx _ => ctx < 256
  | .completionWrite q => q < 16384
  | .topo q i _ => q < 16384 && i < 65536
  | .base q i => q < 16384 && i < 65536
  | .win q i => q < 16384 && i < 65536
  | .power q i => q < 16384 && i < 65536
  | .thermal q i => q < 16384 && i < 65536
  | .detach q i => q < 16384 && i < 65536
  | .hostWindowRead fn offset _ _ _ => fn < 64 && offset < 2 ^ 41
  | .hostWindowWrite fn offset _ _ _ => fn < 64 && offset < 2 ^ 41
  | .linkL0Timeout => true
  | .ideFailure => true
  | .viral => true
  | .reattach fn => fn < 64
  | .hostAttach => true
  | .hostLinkTrainingStart => true
  | .flr kind => wfFlr kind
  | .tenKeyLoad fn tenant _ => fn < 64 && tenant < 64
  | .tenRpt fn tenant _ => fn < 64 && tenant < 64
  | .erase fn tenant => fn < 64 && tenant < 64
  | .commitSvn fn _ => fn < 64
  | .getVersion _ => true
  | .getCapabilities _ => true
  | .negotiateAlgorithms _ _ _ _ => true
  | .getDigests _ => true
  | .getCertificate _ _ _ _ => true
  | .challenge _ _ => true
  | .getMeasurements _ _ => true
  | .keyExchange _ _ => true
  | .finish _ _ _ => true
  | .endSession _ _ => true
  | .heartbeat _ _ => true
  | .keyUpdate _ _ => true
  | .chunkSend _ _ _ _ => true
  | .chunkGet _ _ _ => true
  | .ideKm _ _ _ => true
  | .noiseHealthFailure => true
  | .coldReset _ => true
  | .recover _ => true
  | .warmReset => true
  | .version => true
  | .flashWrite => true
  | .removeCore => true
  | .timeRole => true
  | .logRead => true
  | .mbxWarmReset => true
  | .wakeRequest domain => domain < 333
  | .wakeGrant => true
  | .tokenRefill => true
  | .domainIdleOff domain => domain < 333
  | .selfThrottleSample domain _ => domain < 333
  | .junctionClampStep domain _ => domain < 333
  | .packageFloorSample _ => true
  | .currentClamp rail _ => rail < 16
  | .thermalShutdown die => die < 12
  | .railMonitorTrip rail => rail < 16
  | .powerLoss => true
  | .beaconSend => true
  | .beaconReceive port rank hop time => port < 32 && rank < 4096 && hop < 256 && time < 2 ^ 80
  | .linkDelayMeasure port _ => port < 32
  | .holdover => true
  | .timeAdj fn _ => fn < 64
  | .tsyncInEdge time => time < 2 ^ 64
  | .wholeSecond => true
  | .timeNowRead fn _ => fn < 64
  | .timeHostInRead fn _ _ => fn < 64
  | .selftest q i => q < 16384 && i < 65536
  | .selftestStart block index => wfBlock block index
  | .selftestDone block index part _ => wfBlock block index && part < 10
  | .selftestWaitExpiry block index => wfBlock block index
  | .regWrite fn bar offset wide _ => fn < 64 && (bar = 0 || bar = 2) && offset < 2 ^ 27 && offset % 4 = 0 && (!wide || offset % 8 = 0)
  | .hostLinkTrained width rate => (width = 1 || width = 4 || width = 8 || width = 16) && rate < 3
  | .configRequest fn => fn < 64
  | .currentClampRelease rail => rail < 16
  | .resetPinAssert => true
  | .firmwareSelftest block index level => wfBlock block index && level < 2

end Sys2Proof
end

