-- ==== Sys2Proof/Machine/Ops.lean ====
section
/-! DEFINITION. The named operations over the register file and the records of contexts, cores, queues, rings, sets,
groups, ports and units; completions, context faults, security events, messages out. -/

namespace Sys2Proof.Machine

/-- Run a command's effect on the device: a command that names something the device does not have faults. -/
def run (ok : Bool) (f : Dev → Dev) (s : State) : Host.Outcome State Fault Refusal :=
  if ok then .next { s with dev := f s.dev } else .fault .noSuchInstance

/-- Run a command's effect on the flash and the device (the four commands that use the flash; R390). -/
def runFlash (ok : Bool) (f : Flash → Dev → Flash × Dev) (s : State) : Host.Outcome State Fault Refusal :=
  if ok then .next { s with flash := (f s.flash s.dev).1, dev := (f s.flash s.dev).2 } else .fault .noSuchInstance

/-! The phases of LRN_STEP_STAT. -/

namespace LrnSt
def idle : Nat := 0
def run : Nat := 1
def stopping : Nat := 2
def hold : Nat := 3
end LrnSt

/-! ### Registers -/

/-- Replace bits `[lo + w - 1 : lo]` of a number. -/
def setBits (n lo w v : Nat) : Nat := n / 2 ^ (lo + w) * 2 ^ (lo + w) + v % 2 ^ w * 2 ^ lo + n % 2 ^ lo

/-- Number of set bits among the low `n` bits. -/
def popCount : Nat → Nat → Nat
  | 0, _ => 0
  | n + 1, v => v % 2 + popCount n (v / 2)

/-- Frames of a lower tier of `total` frames that serve contexts: metadata takes 16 bytes a frame (R227, R246). -/
def usableFrames (total : Nat) : Nat := total - ceilDiv total 1024

/-- Frames of the heart note (R227, R251): packages of 16, 32, 64 or 128 GB. -/
def heartFrames (c : SignedCfg) : Nat := c.pkgs * (16 * 2 ^ c.dens) * 10 ^ 9 / 16384

/-- The top note's frames for contexts (Table 11.1). -/
def topFrames : Nat := 19514866

/-- RATE and DEPTH that a configuration selects (Table 18.4). -/
def cfgWakeRate (c : SignedCfg) : Nat := if c.wakeRate = 0 then 4 else c.wakeRate
def cfgWakeDepth (c : SignedCfg) : Nat := if c.wakeDepth = 0 then 16 else c.wakeDepth

/-- The part of a reset value that its source is not a number of the map (R438, Table 21.8). -/
def resetExtra (c : SignedCfg) (r : Reg) (i j : Nat) : Nat :=
  match r with
  | .glbInfo => c.part % 2 * 2 ^ 40 + popCount 256 c.coreMap * 2 ^ 41
  | .coreId => i + if bitOf c.coreMap i then 2 ^ 8 else 0
  | .coreState => if bitOf c.coreMap i then 1 else 0
  | .tierQuota => if j = 0 then c.defQuota0 else if j = 1 then c.defQuota1 else c.defQuota2
  | .tenCfg => (if i = 0 then 1 else 0) + c.defCtx * 2 ^ 8 + c.defCores * 2 ^ 24 + c.defQueues * 2 ^ 48
  | .tenSecStat => if i = 0 then 1 else 0
  | .tierCap => if j = 0 then topFrames else if j = 1 then usableFrames (heartFrames c) else 0
  | .tierLpd => c.pkgs + c.rate * 2 ^ 4 + c.dens * 2 ^ 6
  | .fabPortCfg => if bitOf c.portEn i then 1 else 0
  | .pwrWakeRate => cfgWakeRate c + cfgWakeDepth c * 2 ^ 8
  | .pwrWakeStat => cfgWakeDepth c
  | .pwrLimit => c.pkgMaxW + c.pkgMaxW * 2 ^ 16
  | .pwrDomOn => if j = 5 then 2 ^ 12 + (2 ^ c.pkgs - 1) else 0
  | .timeCfg => if c.master then 1 else 0
  | _ => 0

/-- The fields of a register that `resetExtra` gives have reset number 0 in `regFields`. -/
def resetNum (r : Reg) : Nat := ((regFields r).map fun f => f.rst * 2 ^ f.fld.lo).sum

/-- The reset value of a register. -/
def resetWord (c : SignedCfg) (r : Reg) (i j : Nat) : Word := BitVec.ofNat 64 (resetNum r + resetExtra c r i j)

/-- A register's value. -/
def Dev.reg (d : Dev) (r : Reg) (i : Nat) (j : Nat := 0) : Nat :=
  (SMap.get (SMap.get (SMap.get d.regs [] r.ctorIdx) [] i) (resetWord d.cfg r i j) j).toNat

/-- Set a register. -/
def Dev.setReg (d : Dev) (r : Reg) (i : Nat) (v : Nat) (j : Nat := 0) : Dev :=
  let insts := SMap.get d.regs [] r.ctorIdx
  { d with regs := SMap.set d.regs r.ctorIdx (SMap.set insts i (SMap.set (SMap.get insts [] i) j (BitVec.ofNat 64 v))) }

/-- A field's value. -/
def Dev.get (d : Dev) (f : Fld) (i : Nat) (j : Nat := 0) : Nat := bitsOf (d.reg f.reg i j) f.lo f.w

/-- Set a field. -/
def Dev.put (d : Dev) (f : Fld) (i : Nat) (v : Nat) (j : Nat := 0) : Dev :=
  d.setReg f.reg i (setBits (d.reg f.reg i j) f.lo f.w v) j

/-- A one-bit field as a truth value. -/
def Dev.flag (d : Dev) (f : Fld) (i : Nat) (j : Nat := 0) : Bool := d.get f i j ≠ 0

/-- Add to a counter that saturates. -/
def Dev.incSat (d : Dev) (f : Fld) (i : Nat) (n : Nat := 1) (j : Nat := 0) : Dev :=
  d.put f i (satAdd f.w (d.get f i j) n) j

/-- Add to a counter that wraps. -/
def Dev.incMod (d : Dev) (f : Fld) (i : Nat) (n : Nat := 1) (j : Nat := 0) : Dev :=
  d.put f i (d.get f i j + n) j

/-- Lower a counter, not below 0. -/
def Dev.dec (d : Dev) (f : Fld) (i : Nat) (n : Nat := 1) (j : Nat := 0) : Dev :=
  d.put f i (d.get f i j - n) j

/-- Return every entry of the named registers in one instance to its reset value (R8). -/
def Dev.resetRegs (d : Dev) (rs : List Reg) (i : Nat) : Dev :=
  { d with regs := d.regs.keep fun n k => !(rs.any fun r => r.ctorIdx = n && k = i) }

/-- Whether a register's domain is no wider than a scope (R8). -/
def Dom.within : Dom → Dom → Bool
  | .core, _ => true
  | .context, .core => false
  | .context, _ => true
  | .tenant, .core => false
  | .tenant, .context => false
  | .tenant, _ => true
  | .warm, .warm => true
  | .warm, .cold => true
  | .warm, .powerUp => true
  | .warm, _ => false
  | .cold, .cold => true
  | .cold, .powerUp => true
  | .cold, _ => false
  | .powerUp, .powerUp => true
  | .powerUp, _ => false

/-- The registers of a block whose domain lies within a scope. -/
def regsOf (b : Block) (scope : Dom) : List Reg :=
  Reg.all.filter fun r => (regSpec r).block = b && Dom.within (regSpec r).dom scope

/-- Return every register of every block to its reset value at a reset of a scope (R8). -/
def Dev.resetAll (d : Dev) (scope : Dom) : Dev :=
  let gone := Reg.all.filter fun r => Dom.within (regSpec r).dom scope
  { d with regs := d.regs.keep fun n _ => !(gone.any fun r => r.ctorIdx = n) }

/-! ### Records -/

/-- The record of a context, core, queue, ring, set, group, port or unit. -/
def Dev.ctx (d : Dev) (c : Nat) : Ctx := SMap.get d.ctxs Ctx.init c
def Dev.core (d : Dev) (c : Nat) : Core := SMap.get d.cores Core.init c
def Dev.queue (d : Dev) (q : Nat) : Queue := SMap.get d.queues Queue.init q
def Dev.ring (d : Dev) (r : Nat) : Ring := SMap.get d.rings Ring.init r
def Dev.wset (d : Dev) (w : Nat) : WSet := SMap.get d.sets WSet.init w
def Dev.group (d : Dev) (g : Nat) : Group := SMap.get d.groups Group.init g
def Dev.port (d : Dev) (p : Nat) : Port := SMap.get d.ports Port.init p
def Dev.unit (d : Dev) (u : Nat) : UnitSt := SMap.get d.units UnitSt.init u

/-- Replace a record. -/
def Dev.setCtx (d : Dev) (c : Nat) (x : Ctx) : Dev := { d with ctxs := SMap.set d.ctxs c x }
def Dev.setCore (d : Dev) (c : Nat) (x : Core) : Dev := { d with cores := SMap.set d.cores c x }
def Dev.setQueue (d : Dev) (q : Nat) (x : Queue) : Dev := { d with queues := SMap.set d.queues q x }
def Dev.setRing (d : Dev) (r : Nat) (x : Ring) : Dev := { d with rings := SMap.set d.rings r x }
def Dev.setWset (d : Dev) (w : Nat) (x : WSet) : Dev := { d with sets := SMap.set d.sets w x }
def Dev.setGroup (d : Dev) (g : Nat) (x : Group) : Dev := { d with groups := SMap.set d.groups g x }
def Dev.setPort (d : Dev) (p : Nat) (x : Port) : Dev := { d with ports := SMap.set d.ports p x }
def Dev.setUnit (d : Dev) (u : Nat) (x : UnitSt) : Dev := { d with units := SMap.set d.units u x }

/-- Change a record. -/
def Dev.modCtx (d : Dev) (c : Nat) (f : Ctx → Ctx) : Dev := d.setCtx c (f (d.ctx c))
def Dev.modCore (d : Dev) (c : Nat) (f : Core → Core) : Dev := d.setCore c (f (d.core c))
def Dev.modQueue (d : Dev) (q : Nat) (f : Queue → Queue) : Dev := d.setQueue q (f (d.queue q))
def Dev.modRing (d : Dev) (r : Nat) (f : Ring → Ring) : Dev := d.setRing r (f (d.ring r))
def Dev.modWset (d : Dev) (w : Nat) (f : WSet → WSet) : Dev := d.setWset w (f (d.wset w))
def Dev.modGroup (d : Dev) (g : Nat) (f : Group → Group) : Dev := d.setGroup g (f (d.group g))
def Dev.modPort (d : Dev) (p : Nat) (f : Port → Port) : Dev := d.setPort p (f (d.port p))
def Dev.modUnit (d : Dev) (u : Nat) (f : UnitSt → UnitSt) : Dev := d.setUnit u (f (d.unit u))

/-- Apply a change for each element of a list, in order. -/
def Dev.each {α : Type} (d : Dev) (xs : List α) (f : α → Dev → Dev) : Dev := xs.foldl (fun d x => f x d) d

/-! ### Status codes (Table 21.7) -/

namespace Status
def ok : Nat := 0x00
def deferred : Nat := 0x01
def cancelled : Nat := 0x02
def expired : Nat := 0x03
def tierError : Nat := 0x10
def tierTimeout : Nat := 0x11
def dmaHalt : Nat := 0x20
def collAbort : Nat := 0x30
def collTimeout : Nat := 0x31
def pageFault : Nat := 0x40
def formatUnknown : Nat := 0x41
def quota : Nat := 0x50
def ctxTornDown : Nat := 0x60
def hostDetached : Nat := 0x61
def integrity : Nat := 0x70
def stepMismatch : Nat := 0x71
def lagging : Nat := 0x72
def internal : Nat := 0x7F
end Status

/-! The states of CTX_STATE. -/

namespace CtxSt
def free : Nat := 0
def active : Nat := 1
def tearing : Nat := 2
def torn : Nat := 3
def resetting : Nat := 4
def detached : Nat := 5
def destroying : Nat := 6
end CtxSt

/-! The states of CORE_SEQ_STAT. -/

namespace SeqSt
def idle : Nat := 0
def issue : Nat := 1
def stall : Nat := 2
def stepWait : Nat := 3
def halt : Nat := 4
end SeqSt

/-! The states of CORE_STATE. -/

namespace CoreSt
def absent : Nat := 0
def free : Nat := 1
def held : Nat := 2
def removed : Nat := 3
end CoreSt

/-! The stall causes of Table 2.5. -/

namespace Cause
def throttle : Nat := 0
def slot : Nat := 1
def collective : Nat := 2
def handleEmpty : Nat := 3
def fabric : Nat := 4
def heartBw : Nat := 5
def topBw : Nat := 6
def dmaLate : Nat := 7
end Cause

/-! ### Messages, time, free values -/

/-- Send a message out of the device. -/
def Dev.emit (d : Dev) (o : Out) : Dev := { d with out := o :: d.out }

/-- TIME_NOW in whole nanoseconds (R413). -/
def Dev.ns (d : Dev) : Nat := d.time.now / 65536 % 2 ^ 64

/-- A value that the spec leaves open, and the device after its use (log entry 3). -/
def Dev.freeVal (d : Dev) : BitVec 64 × Dev := (Sys2Proof.Config.freeValue d.freeIdx, { d with freeIdx := d.freeIdx + 1 })

/-- The tenant of a context. -/
def Dev.tenantOf (d : Dev) (c : Nat) : Nat := d.get F.ctxCfg_tenant c

/-- The kind of a context: 0 generation, 1 learning, 2 mixed (Table 1.6). -/
def Dev.kindOf (d : Dev) (c : Nat) : Nat := d.get F.ctxCfg_kind c

/-- The state of a context. -/
def Dev.ctxState (d : Dev) (c : Nat) : Nat := d.get F.ctxState_state c

/-- The context that holds a queue: the VALID context whose run covers it. -/
def Dev.ctxOfQueue (d : Dev) (q : Nat) : Option Nat :=
  (List.range 256).find? fun c =>
    d.flag F.ctxCfg_valid c && d.get F.ctxCfg_qbase c ≤ q && q < d.get F.ctxCfg_qbase c + d.get F.ctxCfg_nq c

/-- The queues of a context, in ascending order. -/
def Dev.queuesOf (d : Dev) (c : Nat) : List Nat :=
  (List.range (d.get F.ctxCfg_nq c)).map (d.get F.ctxCfg_qbase c + ·)

/-- The cores of a context, in ascending order (Table 2.6: HELD by it). -/
def Dev.coresOf (d : Dev) (c : Nat) : List Nat :=
  (List.range 256).filter fun k => d.get F.coreState_state k = CoreSt.held && d.get F.coreState_ctx k = c

/-- Whether a core has the generation role: the context is a generation context, or it is mixed and ROLE is 0. -/
def Dev.genRole (d : Dev) (core : Nat) : Bool :=
  let k := d.kindOf (d.get F.coreState_ctx core)
  k = 0 || (k = 2 && d.get F.coreState_role core = 0)

/-- The cores of a context that hold the generation role, and those that hold the learning role. -/
def Dev.genCores (d : Dev) (c : Nat) : List Nat := (d.coresOf c).filter d.genRole
def Dev.lrnCores (d : Dev) (c : Nat) : List Nat := (d.coresOf c).filter fun k => !d.genRole k

/-! ### Security events (R387) -/

/-- Log a security event. -/
def Dev.logEvent (d : Dev) (code arg : Nat) : Dev :=
  let n := d.get F.secEvtHead_total 0
  let j := n % 64
  (((d.setReg .secEvtInfo 0 (code + arg % 256 * 256) j).setReg .secEvtTime 0 d.ns j).put F.secEvtHead_total 0 (n + 1))

/-! ### Completions (R333 to R336) -/

/-- The descriptor that a command names: the oldest on queue `q` with ring index `i` that is not yet accepted. -/
def Dev.desc (d : Dev) (q i : Nat) : Option Desc :=
  (d.queue q).descs.find? fun x => x.idx = i && !x.accepted

/-- Mark a descriptor as accepted by its class's checks. -/
def Dev.accept (d : Dev) (w : Waiter) : Dev :=
  d.modQueue w.q fun x => { x with descs := x.descs.map fun y => if y.idx = w.idx && y.period = w.period then { y with accepted := true } else y }

/-- A command completes with a status and a result word. Its completion becomes due on its queue; it is dropped when
its enable period has ended (R333). -/
def Dev.complete (d : Dev) (w : Waiter) (status result : Nat) : Dev :=
  d.modQueue w.q fun x =>
    let x := { x with descs := x.descs.filter fun y => !(y.idx = w.idx && y.period = w.period) }
    if d.flag F.queCfg_enable w.q && w.period = x.period then
      { x with due := x.due ++ [⟨w.idx, w.period, status, result⟩] } else x

/-- Run a class's meaning on the descriptor that a command names, when it stands taken, is of the class, and carries
the operation. The meaning gets the context, the descriptor's name and its bytes. -/
def Dev.withDesc (d : Dev) (q i cls op : Nat) (f : Nat → Waiter → List Byte → Dev → Dev) : Dev :=
  match d.desc q i, d.ctxOfQueue q with
  | some x, some c =>
    if fieldAt x.bytes 0 1 = cls && (op = 256 || fieldAt x.bytes 16 1 = op) then f c ⟨q, i, x.period⟩ x.bytes d else d
  | _, _ => d

/-! ### Context faults (R338, R339) -/

/-- Halt every sequencer of a core (R34). -/
def Dev.haltCore (d : Dev) (k : Nat) : Dev :=
  d.each [0, 1, 2] fun s d => (d.put F.coreSeqStat_state k SeqSt.halt s).put F.coreSeqStat_cause k 0 s

/-- A context meets a fault: the first one is recorded and tears the context down; a later one only counts (R339).
`seq` is 3 where no sequencer is concerned. -/
def Dev.faultCtx (d : Dev) (c status core seq va : Nat) : Dev :=
  let st := d.ctxState c
  if st = CtxSt.active || st = CtxSt.detached then
    let d := d.put F.ctxState_state c CtxSt.tearing
    let d := d.setReg .ctxFault c (status + core * 2 ^ 8 + seq * 2 ^ 16 + 2 ^ 18)
    let d := d.put F.ctxFaultVa_va c va
    d.each (d.coresOf c) fun k d => d.haltCore k
  else d.incSat F.ctxFault_later c

/-! ### Clauses and their instructions -/

/-- Replace a clause of a context by number. -/
def Dev.modClause (d : Dev) (c id : Nat) (f : Clause → Clause) : Dev :=
  d.modCtx c fun x => { x with clauses := x.clauses.map fun y => if y.id = id then f y else y }

/-- Change a live rollout of a context. -/
def Dev.modRollout (d : Dev) (c seq : Nat) (f : Rollout → Rollout) : Dev :=
  d.modCtx c fun x => { x with rollouts := x.rollouts.map fun r => if r.seq = seq then f r else r }

/-- The pools that a rollout names. -/
def Rollout.poolIds (r : Rollout) : List Nat := if r.prePool = r.decPool then [r.decPool] else [r.decPool, r.prePool]

/-- Whether a rollout's prompt is written into its slot's prefill range: its prefill pool is another than its decode pool, or this device
prefills for another (R125). -/
def Rollout.preRange (r : Rollout) : Bool := r.prePool ≠ r.decPool || r.peer.isSome

/-- Whether a rollout holds its KV slot: it releases it when it reaches DONE (R113). -/
def Rollout.holdsSlot (r : Rollout) : Bool := r.st ≠ .ending

/-- The live rollout of a sequence ID. -/
def Dev.rollout (d : Dev) (c seq : Nat) : Option Rollout := (d.ctx c).rollouts.find? fun r => r.seq = seq

/-- The clause that runs on a core's sequencer, with its context. -/
def Dev.clauseOn (d : Dev) (core seq : Nat) : Option (Nat × Clause) :=
  let c := d.get F.coreState_ctx core
  let st := d.get F.coreSeqStat_state core seq
  if d.get F.coreState_state core = CoreSt.held && (st = SeqSt.issue || st = SeqSt.stall) then
    match SMap.find (d.core core).clauses seq with
    | some id => ((d.ctx c).clauses.find? fun y => y.id = id).map fun y => (c, y)
    | none => none
  else none

/-- The head instruction of a sequencer issues. -/
def Dev.issues (d : Dev) (core seq : Nat) : Dev :=
  (d.put F.coreSeqStat_state core SeqSt.issue seq).put F.coreSeqStat_cause core 0 seq

/-- The head instruction cannot issue for one cycle, counted under one cause (R50). -/
def Dev.stalls (d : Dev) (core seq cause : Nat) : Dev :=
  let d := (d.put F.coreSeqStat_state core SeqSt.stall seq).put F.coreSeqStat_cause core cause seq
  d.incMod F.coreStallCtr_count core 1 (8 * seq + cause)

/-- The engine cycle: 13 of them pass in 10 time-base cycles (R16, R413; log entry 68). -/
def Dev.engineCycle (d : Dev) : Nat := d.cycles * 13 / 10

/-- The effective throttle level of a core or update-unit domain: the greatest of its three levels (R408). -/
def Dev.effLevel (d : Dev) (n : Nat) : Nat :=
  max (d.get F.pwrLimit_floor 0) (max (SMap.get d.power.selfLvl 0 n) (SMap.get d.power.junction 0 n))

/-- Whether throttling at a level withholds the clock in a cycle: in `level` cycles of every 16 (R408). Which of the 16 they
are is not stated: their phase is free (log entry 68). -/
def throttled (level cycle : Nat) : Bool := decide ((cycle + Sys2Proof.Config.throttlePhase) % 16 < level)

/-- Whether a core's clock is withheld now: by a current clamp (R409: rails 0 to 3 are VDD_CORE and 4 to 7 VDD_DRAM of a die), or by
throttling (R408). -/
def Dev.withheld (d : Dev) (core : Nat) : Bool :=
  d.power.clamped.contains (core / 64) || d.power.clamped.contains (4 + core / 64) ||
    (d.effLevel core ≠ 0 && throttled (d.effLevel core) d.engineCycle)

/-- Run an instruction's meaning on a sequencer that is running a clause; on any other nothing happens. While the core's
clock is withheld the instruction cannot issue, and the cycle counts as THROTTLE (R50, R409). -/
def Dev.withClause (d : Dev) (core seq : Nat) (f : Nat → Clause → Dev → Dev) : Dev :=
  match d.clauseOn core seq with
  | some (c, y) => if d.withheld core then d.stalls core seq Cause.throttle else f c y d
  | none => d

/-! ### The slot table (R28 to R30) -/

/-- The entry of a core's slot table that the engine cycle stands in: after its last entry the table repeats. -/
def Dev.slotEntry (d : Dev) (core : Nat) : Nat :=
  (d.engineCycle - (d.core core).tableAt) / ((d.get F.coreSlotCfg_slot_cyc core + 1) * 64) % (d.get F.coreSlotCfg_len core + 1)

/-- Whether the current entry gives a unit (0–3 an engine, 4 the vector unit) to a sequencer (R28). -/
def Dev.slotGives (d : Dev) (core seq unit : Nat) : Bool :=
  bitsOf (d.reg .coreSlotTbl core (d.slotEntry core)) (2 * unit) 2 = seq

/-- The local-store banks that a run of bytes at an address touches, as core × 16 + bank (16 banks of 256 KiB; R30). -/
def banksOf (w : Word) (n : Nat) : List Nat :=
  if bitOf w.toNat 63 && n ≠ 0 then
    let off := bitsOf w.toNat 0 22
    (List.range ((off % 2 ^ 18 + n - 1) / 2 ^ 18 + 1)).map fun i => bitsOf w.toNat 22 8 * 16 + off / 2 ^ 18 + i
  else []

/-- A unit of a core addresses local-store banks in this cycle. One that another unit has addressed serialises the two: one added
cycle, which counts as a SLOT stall on the sequencer that waits (R30). -/
def Dev.touchBank (d : Dev) (core seq unit bank : Nat) : Dev :=
  let me := core * 8 + unit
  if d.banks.contains (me, bank) then d else
    let d := if d.banks.any fun e => e.2 = bank then d.incMod F.coreStallCtr_count core 1 (8 * seq + Cause.slot) else d
    { d with banks := (me, bank) :: d.banks }

/-- The head instruction of a sequencer issues to the first of its units that the current entry gives, and its local-store
operands, each an address and a number of bytes, are addressed (R28, R30). -/
def Dev.issuesOn (d : Dev) (core seq : Nat) (units : List Nat) (spans : List (Word × Nat)) : Dev :=
  let d := d.issues core seq
  match units.find? (d.slotGives core seq) with
  | some u => d.each (spans.flatMap fun s => banksOf s.1 s.2) fun b d => d.touchBank core seq u b
  | none => d

end Sys2Proof.Machine
end

