-- ==== Sys2Proof/Machine/Compress.lean ====
section
/-! DEFINITION. The block compressor of the lower tiers: line codes, stored forms, the codes of the frame metadata (R245, R246). -/

namespace Sys2Proof.Machine

/-- Round up to a multiple. -/
def alignUp (n a : Nat) : Nat := ceilDiv n a * a

/-- The code of a line of a block, given the line before it. -/
def lineCode (prev : Option (List Byte)) (line : List Byte) : Nat :=
  let ns := line.map (·.toNat)
  let m := ns.foldl min 255
  if allZero line then 0 else if prev = some line then 1 else if ns.all (fun b => b ≤ m + 15) then 2 else 3

/-- The codes of the lines of a block, in order. -/
def lineCodes : Option (List Byte) → List (List Byte) → List Nat
  | _, [] => []
  | p, l :: ls => lineCode p l :: lineCodes (some l) ls

/-- Stored bytes of a line of a code. -/
def codeBytes (c : Nat) : Nat := if c = 2 then 33 else if c = 3 then 64 else 0

/-- Stored bytes of each line of a 4 KiB block: none in a ZERO block, by code in a LINES block, 64 in a RAW one. -/
def blockLines (block : List Byte) : List Nat :=
  let codes := lineCodes none (chunksOf 64 block)
  if allZero block then codes.map fun _ => 0
  else if alignUp (16 + (codes.map codeBytes).sum) 64 < 4096 then codes.map codeBytes
  else codes.map fun _ => 64

/-- The payload of a line of a code. -/
def linePayload (code : Nat) (line : List Byte) : List Byte :=
  let ns := line.map (·.toNat)
  let m := ns.foldl min 255
  if code = 2 then BitVec.ofNat 8 m :: leBytes 32 (packNat 4 (ns.map (· - m))) else if code = 3 then line else []

/-- The bytes that the slot of a 4 KiB block holds: nothing for ZERO; a line map, the payloads and padding for LINES; the block for RAW. -/
def storedForm (block : List Byte) : List Byte :=
  let ls := chunksOf 64 block
  let codes := lineCodes none ls
  let n := 16 + (codes.map codeBytes).sum
  if allZero block then []
  else if alignUp n 64 < 4096 then
    leBytes 16 (packNat 2 codes) ++ (codes.zip ls).flatMap (fun e => linePayload e.1 e.2) ++ List.replicate (alignUp n 64 - n) 0
  else block

/-- The metadata code of a block of a compressed leaf: MODE and, for LINES, UNITS (R246). -/
def blockCode (block : List Byte) : Nat :=
  let n := (storedForm block).length
  if n = 0 then 0 else if n < 4096 then 2 + (n / 64 - 1) * 4 else 1

/-- The metadata of a frame without compression: every MODE at RAW. -/
def rawCodes : Nat := 0x0001_0001_0001_0001

/-- Whether a metadata entry gives a block MODE 3. -/
def modeBad (entry k : Nat) : Bool := bitsOf entry (16 * k) 2 = 3

end Sys2Proof.Machine
end

