-- ==== Sys2Proof/Machine/Shake.lean ====
section
/-! DEFINITION. SHAKE256 (FIPS 202), which the manual uses for every digest and measurement, and CRC-32C. -/

namespace Sys2Proof.Machine

namespace Keccak

/-- A lane rotated left. -/
def rotl (v k : Nat) : Nat := if k = 0 then v else (v * 2 ^ k) % 2 ^ 64 + v / 2 ^ (64 - k)

/-- Lane `(x, y)` of a state of 25 lanes. -/
def lane (s : List Nat) (x y : Nat) : Nat := s.getD (x % 5 + 5 * (y % 5)) 0

/-- The rotation of each lane, in lane order. -/
def rots : List Nat :=
  [0, 1, 62, 28, 27, 36, 44, 6, 55, 20, 3, 10, 43, 25, 39, 41, 45, 15, 21, 8, 18, 2, 61, 56, 14]

/-- The round constants. -/
def consts1 : List Nat :=
  [0x0000000000000001, 0x0000000000008082, 0x800000000000808A, 0x8000000080008000, 0x000000000000808B,
   0x0000000080000001, 0x8000000080008081, 0x8000000000008009, 0x000000000000008A, 0x0000000000000088,
   0x0000000080008009, 0x000000008000000A]
def consts2 : List Nat :=
  [0x000000008000808B, 0x800000000000008B, 0x8000000000008089, 0x8000000000008003, 0x8000000000008002,
   0x8000000000000080, 0x000000000000800A, 0x800000008000000A, 0x8000000080008081, 0x8000000000008080,
   0x0000000080000001, 0x8000000080008008]

/-- One round with constant `rc`. -/
def round (s : List Nat) (rc : Nat) : List Nat :=
  let c := (List.range 5).map fun x =>
    Nat.xor (lane s x 0) (Nat.xor (lane s x 1) (Nat.xor (lane s x 2) (Nat.xor (lane s x 3) (lane s x 4))))
  let dd := (List.range 5).map fun x => Nat.xor (c.getD ((x + 4) % 5) 0) (rotl (c.getD ((x + 1) % 5) 0) 1)
  let t := (List.range 25).map fun i => rotl (Nat.xor (s.getD i 0) (dd.getD (i % 5) 0)) (rots.getD i 0)
  -- lane (x, y) of `b` is lane (x + 3 y, x) of the rotated state
  let b := (List.range 25).map fun i => let x := i % 5; let y := i / 5; lane t (x + 3 * y) x
  let r := (List.range 25).map fun i =>
    let x := i % 5; let y := i / 5
    Nat.xor (lane b x y) (Nat.land (Nat.xor (lane b (x + 1) y) (2 ^ 64 - 1)) (lane b (x + 2) y))
  Nat.xor (r.headD 0) rc :: r.tail

/-- The permutation. -/
def perm (s : List Nat) : List Nat := consts2.foldl round (consts1.foldl round s)

/-- The bytes of a state. -/
def bytesOf (s : List Nat) : List Byte := s.flatMap (leBytes 8)

/-- Absorb blocks of 136 bytes. -/
def absorb : Nat → List Byte → List Nat → List Nat
  | 0, _, s => s
  | k + 1, bs, s =>
    let s' := (List.range 25).map fun i => Nat.xor (s.getD i 0) (if i < 17 then fieldAt bs (8 * i) 8 else 0)
    absorb k (bs.drop 136) (perm s')

/-- Squeeze blocks of 136 bytes. -/
def squeeze : Nat → List Nat → List Byte
  | 0, _ => []
  | k + 1, s => (bytesOf s).take 136 ++ squeeze k (perm s)

end Keccak

/-- SHAKE256 with `n` output bytes. -/
def shake256 (msg : List Byte) (n : Nat) : List Byte :=
  let blocks := msg.length / 136 + 1
  let pad := blocks * 136 - msg.length
  let tail : List Byte := if pad = 1 then [0x9F#8] else 0x1F#8 :: (List.replicate (pad - 2) 0#8 ++ [0x80#8])
  (Keccak.squeeze (n / 136 + 1) (Keccak.absorb blocks (msg ++ tail) (List.replicate 25 0))).take n

/-- SHAKE256 with 256-bit output. -/
def digest256 (msg : List Byte) : List Byte := shake256 msg 32

/-- The ASCII bytes of a label. -/
def ascii (s : String) : List Byte := s.toList.map fun c => BitVec.ofNat 8 c.toNat

/-- One bit of CRC-32C, reflected polynomial 0x82F63B78. -/
def crcBits : Nat → Nat → Nat
  | 0, v => v
  | k + 1, v => crcBits k (if v % 2 = 1 then Nat.xor (v / 2) 0x82F63B78 else v / 2)

/-- CRC-32C of a byte list. -/
def crc32c (bs : List Byte) : Nat :=
  Nat.xor (bs.foldl (fun c b => crcBits 8 (Nat.xor c b.toNat)) 0xFFFFFFFF) 0xFFFFFFFF

end Sys2Proof.Machine
end

