-- ==== Sys2Proof/Machine/Mem.lean ====
section
/-! DEFINITION. The tiers: translation, quotas, frames, first touch, failed requests, reads and writes of context
memory, local store, watch sums (R114, R122, R123, R179, R196, R227 to R250, R384). -/

namespace Sys2Proof.Machine

/-- Bytes of a frame. -/
def pageBytes : Nat := 16384

/-- Frames under a leaf of a level (Table 11.2). -/
def leafFrames (level : Nat) : Nat := if level = 1 then 65536 else if level = 2 then 128 else 1

/-- The granules that `n` bytes from `va` touch, ascending. -/
def granules (va n : Nat) : List Nat :=
  if n = 0 then [] else (List.range ((va + n - 1) / pageBytes - va / pageBytes + 1)).map (va / pageBytes + ·)

/-- Cut a run of bytes at granule boundaries: the address and bytes of each piece. -/
def piecesGo : Nat → Nat → List Byte → List (Nat × List Byte)
  | 0, _, _ => []
  | _, _, [] => []
  | k + 1, va, bs =>
    let n := pageBytes - va % pageBytes
    (va, bs.take n) :: piecesGo k (va + n) (bs.drop n)

/-- Cut a run of bytes at granule boundaries. -/
def pieces (va : Nat) (bs : List Byte) : List (Nat × List Byte) := piecesGo (bs.length / pageBytes + 2) va bs

/-! ### Translation (R230, R231) -/

/-- The leaf that maps a granule, with the granule at which it starts. -/
def Ctx.leafAt (x : Ctx) (g : Nat) : Option (Nat × Leaf) :=
  [g, g / 128 * 128, g / 65536 * 65536].findSome? fun k =>
    match SMap.find x.leaves k with
    | some l => if g < k + leafFrames l.level then some (k, l) else none
    | none => none

/-- Whether a leaf, or part of one, lies in a range of granules. -/
def Ctx.anyLeaf (x : Ctx) (g n : Nat) : Bool :=
  x.leaves.any fun e => e.1 < g + n && g < e.1 + leafFrames e.2.level

/-- The leaves that a range of granules holds in part or whole, with their starts. -/
def Ctx.leavesIn (x : Ctx) (g n : Nat) : List (Nat × Leaf) :=
  x.leaves.filter fun e => e.1 < g + n && g < e.1 + leafFrames e.2.level

/-- Number of runs of equal neighbours. -/
def runsOf : List Nat → Nat
  | [] => 0
  | [_] => 1
  | a :: b :: t => (if a = b then 0 else 1) + runsOf (b :: t)

/-- Top-note frames that hold the tables of a set of leaves (R231): one for L0, the others packed (log entry 20). -/
def tableFrames (ls : SMap Leaf) : Nat :=
  let l1 := runsOf (ls.map fun e => e.1 / 2 ^ 25)
  let l2 := runsOf ((ls.filter fun e => 2 ≤ e.2.level).map fun e => e.1 / 2 ^ 16)
  let l3 := runsOf ((ls.filter fun e => 3 ≤ e.2.level).map fun e => e.1 / 2 ^ 7)
  if ls.isEmpty then 0 else 1 + ceilDiv (l1 * 4096 + l2 * 4096 + l3 * 1024) pageBytes

/-! ### Quotas (R241) -/

/-- Whether a context's quota of a tier covers `bytes` more. -/
def Dev.quotaOk (d : Dev) (c tier bytes : Nat) : Bool :=
  d.get F.tierUse_bytes c tier + bytes ≤ d.get F.tierQuota_limit c tier * pageBytes

/-- Charge a context. -/
def Dev.charge (d : Dev) (c tier bytes : Nat) : Dev := d.incMod F.tierUse_bytes c bytes tier

/-- End a charge. -/
def Dev.uncharge (d : Dev) (c tier bytes : Nat) : Dev := d.dec F.tierUse_bytes c bytes tier

/-! ### Frames (R227, R242, R244, R247) -/

/-- The frames taken in a tier. -/
def Dev.used (d : Dev) (tier : Nat) : SMap Nat :=
  if tier = 0 then d.mem.usedTop else if tier = 1 then d.mem.usedHeart else d.mem.usedBase

/-- Replace the frames taken in a tier. -/
def Dev.setUsed (d : Dev) (tier : Nat) (u : SMap Nat) : Dev :=
  if tier = 0 then { d with mem := { d.mem with usedTop := u } }
  else if tier = 1 then { d with mem := { d.mem with usedHeart := u } }
  else { d with mem := { d.mem with usedBase := u } }

/-- The retired frames of a tier. -/
def Dev.retiredOf (d : Dev) (tier : Nat) : List Nat := (d.mem.retired.filter fun r => r.1 = tier).map (·.2)

/-- Frames of the base window. -/
def Dev.baseFrames (d : Dev) : Nat := if d.flag F.hostBase_valid 0 then d.get F.hostBase_len 0 * 128 else 0

/-- First frame and end of the frames of a tier that serve contexts; the base note's metadata stands first (R227). -/
def Dev.tierSpan (d : Dev) (tier : Nat) : Nat × Nat :=
  if tier = 0 then (0, topFrames)
  else if tier = 1 then (0, usableFrames (heartFrames d.cfg))
  else (ceilDiv d.baseFrames 1024, d.baseFrames)

/-- KV frames that every context has set aside and does not use (R241, KV_POOL). -/
def Dev.kvAside (d : Dev) : Nat := (List.range 256).foldl (fun n c => n + d.get F.kvPool_free c) 0

/-- The free frames of a tier: its capacity less the frames taken and, in the top note, the KV frames set aside. -/
def Dev.freeFrames (d : Dev) (tier : Nat) : Nat :=
  let u := d.used tier
  let dead := d.retiredOf tier
  let taken := (u.map (·.2)).sum - (dead.filter fun f => u.any fun r => r.1 ≤ f && f < r.1 + r.2).length
  d.get F.tierCap_frames 0 tier - taken - (if tier = 0 then d.kvAside else 0)

/-- Walk the taken runs, in ascending order, to the lowest gap of `n` aligned frames. -/
def fitGo (n align : Nat) : Nat → List (Nat × Nat) → Nat
  | c, [] => c
  | c, (s, l) :: t => if c + n ≤ s then c else fitGo n align (alignUp (max c (s + l)) align) t

/-- The runs that no allocation may take: frames taken, retired frames, and the checkpoint areas of every context in
the base note (R305). -/
def Dev.blocked (d : Dev) (tier : Nat) : SMap Nat :=
  let u := (d.retiredOf tier).foldl (fun m f => SMap.set m f (max 1 (SMap.get m 0 f))) (d.used tier)
  if tier = 2 then
    (d.ctxs.flatMap fun e => e.2.areas).foldl
      (fun m a => SMap.set m (a.pool / pageBytes) (max (a.len / pageBytes) (SMap.get m 0 (a.pool / pageBytes)))) u
  else u

/-- The lowest aligned run of free frames in a tier (log entry 21). -/
def Dev.findRun (d : Dev) (tier n : Nat) : Option Nat :=
  let (lo, hi) := d.tierSpan tier
  let s := fitGo n n (alignUp lo n) (d.blocked tier)
  if s + n ≤ hi then some s else none

/-- A tier's contents. -/
def Dev.store (d : Dev) (tier : Nat) : Memory :=
  if tier = 0 then d.mem.top else if tier = 1 then d.mem.heart else d.mem.base

/-- Replace a tier's contents. -/
def Dev.setStore (d : Dev) (tier : Nat) (m : Memory) : Dev :=
  if tier = 0 then { d with mem := { d.mem with top := m } }
  else if tier = 1 then { d with mem := { d.mem with heart := m } }
  else { d with mem := { d.mem with base := m } }

/-- Where a tier-physical address stands in the tier's contents: the base note at base + pool offset of
the GFAM device that PID names (R353). -/
def Dev.cellOf (d : Dev) (tier a : Nat) : Nat :=
  if tier = 2 then d.get F.hostBase_pid 0 * 2 ^ 64 + d.get F.hostBaseDpa_dpa 0 * 2 ^ 21 + a else a

/-- The metadata entries of a lower tier that differ from those of a fresh frame, and their replacement (R246). -/
def Dev.metas (d : Dev) (tier : Nat) : SMap Nat := if tier = 1 then d.mem.metaHeart else d.mem.metaBase
def Dev.setMetas (d : Dev) (tier : Nat) (m : SMap Nat) : Dev :=
  if tier = 1 then { d with mem := { d.mem with metaHeart := m } } else { d with mem := { d.mem with metaBase := m } }

/-- The key of a frame's metadata entry: frames of the base note count in the pool, which devices share (R246). -/
def Dev.metaKey (d : Dev) (tier frame : Nat) : Nat := d.cellOf tier (frame * pageBytes) / pageBytes

/-- The metadata entry of a frame of a lower tier under a leaf with or without compression. -/
def Dev.frameMeta (d : Dev) (tier : Nat) (comp : Bool) (frame : Nat) : Nat :=
  SMap.get (d.metas tier) (if comp then 0 else rawCodes) (d.metaKey tier frame)

/-- The block codes of a frame follow its data: the blocks of `n` bytes from offset `off` of a frame of a compressed leaf take the codes
of what they now hold (R245, R246). -/
def Dev.recode (d : Dev) (tier frame off n : Nat) : Dev :=
  if n = 0 then d else
    let old := d.frameMeta tier true frame
    let new := ((List.range 4).filter fun k => off / 4096 ≤ k && k ≤ (off + n - 1) / 4096).foldl (fun e k =>
      setBits e (16 * k) 16 (blockCode ((d.store tier).readN (d.cellOf tier (frame * pageBytes + 4096 * k)) 4096))) old
    let key := d.metaKey tier frame
    d.setMetas tier (if new = 0 then SMap.erase (d.metas tier) key else SMap.set (d.metas tier) key new)

/-- Take a run of frames: they read 0 (R384), and their metadata entries are fresh. -/
def Dev.takeFrames (d : Dev) (tier s n : Nat) : Dev :=
  let d := if tier = 0 then d else
    let key := d.metaKey tier s
    d.setMetas tier ((d.metas tier).filter fun e => e.1 < key || key + n ≤ e.1)
  let d := d.setUsed tier (SMap.set (d.used tier) s n)
  let a := d.cellOf tier (s * pageBytes)
  let d := d.setStore tier ((d.store tier).clear a (n * pageBytes))
  if tier = 2 then
    { d with mem := { d.mem with unitKey := d.mem.unitKey.filter fun e => e.1 < a / 64 || (a + n * pageBytes) / 64 ≤ e.1 } }
  else d

/-- Return a run of frames. -/
def Dev.giveFrames (d : Dev) (tier s : Nat) : Dev := d.setUsed tier (SMap.erase (d.used tier) s)

/-- Allocate `n` frames of a tier for a use that is charged already or not charged. An allocation that finds no free
frame sets TIER_STAT.FULL (R244). -/
def Dev.allocFrames (d : Dev) (tier n : Nat) : Option Nat × Dev :=
  match (if n ≤ d.freeFrames tier then d.findRun tier n else none) with
  | some s => (some s, d.takeFrames tier s n)
  | none => (none, d.put F.tierStat_full 0 1)

/-- Retire a frame (R244, R247). -/
def Dev.retire (d : Dev) (tier f : Nat) : Dev :=
  if d.mem.retired.any fun r => r.1 = tier && r.2 = f then d else
    let d := { d with mem := { d.mem with retired := d.mem.retired ++ [(tier, f)] } }
    (d.dec F.tierCap_frames 0 1 tier).incSat F.tierStat_retired 0

/-! ### Changing leaves -/

/-- Top-note frames still to be taken for the tables of a set of leaves. -/
def Dev.tableNeed (d : Dev) (c : Nat) (ls : SMap Leaf) : Nat := tableFrames ls - (d.ctx c).tblFrames.length

/-- Whether the tables of a set of leaves fit the context's top-note quota and the free frames, beside `more` bytes of
top-note data in the same operation. -/
def Dev.tablesFit (d : Dev) (c : Nat) (ls : SMap Leaf) (more : Nat) : Bool :=
  let n := d.tableNeed c ls
  n = 0 || (d.quotaOk c 0 (n * pageBytes + more) && n + more / pageBytes ≤ d.freeFrames 0)

/-- An allocation within its context's limit that fails for want of free frames sets TIER_STAT.FULL (R244). -/
def Dev.noteFull (d : Dev) (starved : Bool) : Dev := if starved then d.put F.tierStat_full 0 1 else d

/-- Whether the tables of a set of leaves fit the context's quota but not the free frames. -/
def Dev.tablesStarved (d : Dev) (c : Nat) (ls : SMap Leaf) (more : Nat) : Bool :=
  let n := d.tableNeed c ls
  n ≠ 0 && d.quotaOk c 0 (n * pageBytes + more) && d.freeFrames 0 < n + more / pageBytes

/-- Take and charge the frames that hold the tables; `k` bounds their number. -/
def Dev.growTables (d : Dev) (c : Nat) : Nat → Dev
  | 0 => d
  | k + 1 =>
    match d.allocFrames 0 1 with
    | (some f, d) => (((d.modCtx c fun x => { x with tblFrames := x.tblFrames ++ [f] }).charge c 0 pageBytes).growTables c k)
    | (none, d) => d

/-- Bring a context's table frames to what its leaves need. -/
def Dev.retable (d : Dev) (c : Nat) : Dev :=
  let x := d.ctx c
  let need := tableFrames x.leaves
  let gone := x.tblFrames.drop need
  let d := if gone.isEmpty then d else
    ((d.setCtx c { x with tblFrames := x.tblFrames.take need }).each gone fun f d => d.giveFrames 0 f).uncharge c 0
      (gone.length * pageBytes)
  d.growTables c (need - x.tblFrames.length)

/-- Replace a context's leaves. -/
def Dev.setLeaves (d : Dev) (c : Nat) (ls : SMap Leaf) : Dev :=
  (d.modCtx c fun x => { x with leaves := ls }).retable c

/-- Put one leaf. -/
def Dev.putLeaf (d : Dev) (c k : Nat) (l : Leaf) : Dev := d.setLeaves c (SMap.set (d.ctx c).leaves k l)

/-- Change a leaf that stands; the tables keep their size. -/
def Dev.setLeaf (d : Dev) (c k : Nat) (l : Leaf) : Dev :=
  d.modCtx c fun x => { x with leaves := SMap.set x.leaves k l }

/-- The charge of a leaf's frames (Table 11.6): a mapping's or an area's frames in its tier; a KV page outside the top
note (R242); ring and Accord storage is charged by its own rule. -/
def leafCharge (l : Leaf) : Nat :=
  if !l.alloc then 0 else
    match l.kind with
    | .map => leafFrames l.level * pageBytes
    | .area => leafFrames l.level * pageBytes
    | .kv => if l.tier = 0 then 0 else pageBytes
    | .ring => 0
    | .accord => 0

/-- KV_POOL.FREE follows PAGES and the KV frames in use. -/
def Dev.kvCount (d : Dev) (c : Nat) : Dev := d.put F.kvPool_free c (d.get F.kvPool_pages c - (d.ctx c).kvUsed)

/-- Free the frames under a leaf and end their charge. A KV frame of the top note returns to the context's pool
(R242); an area's frames are on no free list (R305); Accord banks belong to the set. -/
def Dev.dropFrames (d : Dev) (c : Nat) (l : Leaf) : Dev :=
  if !l.alloc then d else
    let d := d.uncharge c l.tier (leafCharge l)
    match l.kind with
    | .map => d.giveFrames l.tier l.frame
    | .ring => d.giveFrames l.tier l.frame
    | .kv =>
      let d := d.giveFrames l.tier l.frame
      if l.tier = 0 then (d.modCtx c fun x => { x with kvUsed := x.kvUsed - 1 }).kvCount c else d
    | .area => d
    | .accord => d

/-- Remove leaves, with their frames. -/
def Dev.dropLeaves (d : Dev) (c : Nat) (ks : List Nat) : Dev :=
  let gone := (d.ctx c).leaves.filter fun e => ks.contains e.1
  let d := d.each gone fun e d => d.dropFrames c e.2
  d.setLeaves c ((d.ctx c).leaves.filter fun e => !ks.contains e.1)

/-! ### First touch (R233) -/

/-- Give the leaf that starts at granule `k` its frames in a tier, when quota and free frames allow. -/
def Dev.touchIn (d : Dev) (c k : Nat) (l : Leaf) (tier : Nat) : Option Dev × Dev :=
  let n := leafFrames l.level
  if !d.quotaOk c tier (n * pageBytes) then (none, d) else
    match d.allocFrames tier n with
    | (some s, d) => (some ((d.setLeaf c k { l with alloc := true, tier := tier, frame := s }).charge c tier (n * pageBytes)), d)
    | (none, d) => (none, d)

/-- The tiers that a first touch tries, in order. -/
def touchOrder (l : Leaf) : List Nat := if l.fallback then (List.range (3 - l.pref)).map (l.pref + ·) else [l.pref]

/-- Try the tiers in turn. -/
def Dev.touchGo (d : Dev) (c k : Nat) (l : Leaf) : List Nat → Bool × Dev
  | [] => (false, d)
  | t :: ts =>
    match d.touchIn c k l t with
    | (some d', _) => (true, d')
    | (none, d) => d.touchGo c k l ts

/-- The first write to a leaf without frames (R233): whether some tier allowed. -/
def Dev.firstTouch (d : Dev) (c k : Nat) (l : Leaf) : Bool × Dev := d.touchGo c k l (touchOrder l)

/-! ### Reading and writing bytes where they lie -/

/-- The number of a tenant's key, as base-note units record it (R248). -/
def Dev.keyNo (d : Dev) (tenant : Nat) : Nat :=
  match SMap.find d.sec.keys tenant with
  | some k => leNat k.1 + 1
  | none => 0

/-- Free bytes: the plaintext of units under another key (R383). -/
def Dev.freeBytes (d : Dev) : Nat → List Byte × Dev
  | 0 => ([], d)
  | n + 1 =>
    let (v, d) := d.freeVal
    let (bs, d) := d.freeBytes n
    (v.extractLsb' 0 8 :: bs, d)

/-- Whether the base-note unit that holds a cell was written under another key than this. -/
def Dev.alien (d : Dev) (key a : Nat) : Bool :=
  match SMap.find d.mem.unitKey (a / 64) with
  | some k => k ≠ key
  | none => false

/-- Give an alien unit of the base note the meaningless bytes that it decrypts to under this key. -/
def Dev.claimUnit (d : Dev) (key u : Nat) : Dev :=
  if d.alien key (u * 64) then
    let (bs, d) := d.freeBytes 64
    { d with mem := { d.mem with base := d.mem.base.writeN (u * 64) bs, unitKey := SMap.set d.mem.unitKey u key } }
  else d

/-- The units that `n` bytes from `a` touch. -/
def unitsOf (a n : Nat) : List Nat := if n = 0 then [] else (List.range ((a + n - 1) / 64 - a / 64 + 1)).map (a / 64 + ·)

/-- Read `n` bytes of a tier for a tenant. -/
def Dev.physRead (d : Dev) (tenant tier a n : Nat) : List Byte × Dev :=
  let a := d.cellOf tier a
  if tier = 2 then
    let key := d.keyNo tenant
    if (unitsOf a n).any fun u => d.alien key (u * 64) then
      (List.range n).foldl (fun (r : List Byte × Dev) i =>
        if r.2.alien key (a + i) then let (v, d) := r.2.freeVal; (r.1 ++ [v.extractLsb' 0 8], d)
        else (r.1 ++ [r.2.mem.base.read (a + i)], r.2)) ([], d)
    else (d.mem.base.readN a n, d)
  else ((d.store tier).readN a n, d)

/-- Write bytes of a tier for a tenant. -/
def Dev.physWrite (d : Dev) (tenant tier a : Nat) (bs : List Byte) : Dev :=
  let a := d.cellOf tier a
  if tier = 2 then
    let key := d.keyNo tenant
    let d := d.each (unitsOf a bs.length) fun u d => d.claimUnit key u
    { d with mem := { d.mem with base := d.mem.base.writeN a bs, unitKey := (unitsOf a bs.length).foldl (fun m u => SMap.set m u key) d.mem.unitKey } }
  else d.setStore tier ((d.store tier).writeN a bs)

/-- The active bank of a set. -/
def Dev.activeBank (d : Dev) (w : Nat) : Nat := d.get F.accSetStat_bank w

/-- For whom weight banks are latched, beside the number of a pool whose step reads (R49): a pool's next step, whose first read a
prefetch issues, and a generation clause that a LAUNCH placed. -/
def prefetchKey (pool : Nat) : Nat := 2 ^ 16 + pool
def launchKey (id : Nat) : Nat := 2 ^ 20 + id

/-- Latch a bank of a set for a reader. -/
def WSet.latch (s : WSet) (bank : Nat) (r : Nat × Nat) : WSet :=
  if bank = 0 then { s with readers0 := s.readers0 ++ [r] } else { s with readers1 := s.readers1 ++ [r] }

/-- End the latches of the readers that a test names. -/
def WSet.unlatch (s : WSet) (p : Nat × Nat → Bool) : WSet :=
  { s with readers0 := s.readers0.filter fun r => !p r, readers1 := s.readers1.filter fun r => !p r }

/-- End the latches of some readers in every set. -/
def Dev.unlatchAll (d : Dev) (p : Nat × Nat → Bool) : Dev :=
  { d with sets := d.sets.map fun e => if e.2.readers0.any p || e.2.readers1.any p then (e.1, e.2.unlatch p) else e }

/-- The first read of a set's window by a reader resolves the bank pointer and latches it for the reader's later reads; that of a
prefetch latches the epoch of the pool's next step too (R49). -/
def Dev.latchRead (d : Dev) (reader : Option (Nat × Nat)) (l : Leaf) : Dev :=
  match l.kind, reader with
  | .accord, some r =>
    let s := d.wset l.frame
    if s.readers0.contains r || s.readers1.contains r then d else
      let bank := d.activeBank l.frame
      let d := d.setWset l.frame (s.latch bank r)
      if prefetchKey 0 ≤ r.2 && r.2 < launchKey 0 then
        let got := (l.frame, bank, d.get F.accEpoch_active l.frame)
        let note (e : Nat × Pool) : Nat × Pool := if prefetchKey e.1 = r.2 then (e.1, { e.2 with next := e.2.next ++ [got] }) else e
        d.modCtx r.1 fun x => { x with pools := x.pools.map note }
      else d
  | _, _ => d

/-- The bank that a read of a set's window goes to (R196): the bank the reader's step latched, else the active one. -/
def Dev.bankFor (d : Dev) (w : Nat) (reader : Option (Nat × Nat)) : Nat :=
  let s := d.wset w
  match reader with
  | some r => if s.readers0.contains r then 0 else if s.readers1.contains r then 1 else d.activeBank w
  | none => d.activeBank w

/-- The top-note address of a bank. -/
def Dev.bankAddr (d : Dev) (w bank : Nat) : Nat := if bank = 0 then (d.wset w).bank0 else (d.wset w).bank1

/-- Tier and tier-physical address of a virtual address under its leaf. -/
def Dev.placeOf (d : Dev) (reader : Option (Nat × Nat)) (k : Nat) (l : Leaf) (va : Nat) : Nat × Nat :=
  match l.kind with
  | .accord => (0, d.bankAddr l.frame (d.bankFor l.frame reader) + (va - d.get F.accSetBase_vbase l.frame * 2 ^ 30))
  | _ => (l.tier, l.frame * pageBytes + (va - k * pageBytes))

/-! ### Failed requests (R247, R249, R250) -/

/-- Count a failed request of a context (R250). -/
def Dev.countFail (d : Dev) (c status : Nat) : Dev :=
  if status = Status.tierTimeout then d.incSat F.tierCtxErr_timeouts c else d.incSat F.tierCtxErr_errors c

/-- Whether the host port is not attached (R361): HOST_STAT.STATE is not ATTACHED. -/
def Dev.detached (d : Dev) : Bool := d.get F.hostStat_state 0 ≠ 2

/-- Whether every request to an allocated leaf ends with TIER_ERROR: it is poisoned (R247), or lies in the base note of a detached
port (R249). -/
def Dev.barred (d : Dev) (l : Leaf) : Bool := l.alloc && (l.poison || (l.kind ≠ .accord && l.tier = 2 && d.detached))

/-- Whether a block of a granule has the metadata MODE that reads as TIER_ERROR (R246). -/
def Dev.badMode (d : Dev) (g k : Nat) (l : Leaf) : Bool :=
  l.kind ≠ .accord && l.tier ≠ 0 && [0, 1, 2, 3].any (modeBad (d.frameMeta l.tier l.comp (l.frame + (g - k))))

/-- An uncorrectable error in a granule: its leaf is poisoned and its frame retired (R247). -/
def Dev.poisonGranule (d : Dev) (c g : Nat) : Dev :=
  match (d.ctx c).leafAt g with
  | some (k, l) =>
    let (tier, a) := d.placeOf none k l (g * pageBytes)
    (d.setLeaf c k { l with poison := true }).retire tier (a / pageBytes)
  | none => d

/-- The answer a command carries for a granule's request, where it is not data. -/
def rspAt (rsp : TierRsp) (g : Nat) : Option Bool := (rsp.find? fun r => r.1 / pageBytes = g).map (·.2)

/-- What a request to an allocated granule meets: `none` data, or its status; counts, poison and retirement follow. A
top-note request has no timeout. -/
def Dev.request (d : Dev) (c : Nat) (rsp : TierRsp) (g : Nat) : Option Nat × Dev :=
  match (d.ctx c).leafAt g with
  | none => (none, d)
  | some (k, l) =>
    let tier := if l.kind = .accord then 0 else l.tier
    if !l.alloc then (none, d)
    else if d.barred l || d.badMode g k l then (some Status.tierError, d.countFail c Status.tierError)
    else match rspAt rsp g with
      | some true => if tier = 0 then (none, d) else (some Status.tierTimeout, d.countFail c Status.tierTimeout)
      | some false => (some Status.tierError, (d.poisonGranule c g).countFail c Status.tierError)
      | none => (none, d)

/-! ### KV ranges (R114, R119, R122) -/

/-- Where an address lies in the KV ranges of a live rollout: a page of the decode or prefill range, or the header of
one. -/
inductive KvPlace where
  | data (seq : Nat) (pre : Bool) (page : Nat)
  | header (seq : Nat) (pre : Bool) (page off : Nat)
  deriving DecidableEq, Repr

/-- The bases of R114. -/
def Dev.kvBase (d : Dev) (c : Nat) (pre : Bool) (slot : Nat) : Nat :=
  (if pre then d.get F.kvPvbase_base c else d.get F.kvVbase_base c) * 2 ^ 30 + slot * 2 ^ 30
def Dev.kvHeader (d : Dev) (c : Nat) (pre : Bool) (slot page : Nat) : Nat :=
  d.get F.kvHvbase_base c * 2 ^ 23 + slot * 2 ^ 23 + (if pre then 2 ^ 22 else 0) + 64 * page

/-- The KV place of an address, if it lies in a live rollout's ranges. -/
def Dev.kvPlace (d : Dev) (c va : Nat) : Option KvPlace :=
  (d.ctx c).rollouts.findSome? fun r =>
    let b := d.kvBase c false r.slot
    let p := d.kvBase c true r.slot
    let h := d.kvHeader c false r.slot 0
    if !r.holdsSlot then none
    else if b ≤ va && va < b + 2 ^ 30 then some (.data r.seq false ((va - b) / pageBytes))
    else if p ≤ va && va < p + 2 ^ 30 then some (.data r.seq true ((va - p) / pageBytes))
    else if h ≤ va && va < h + 2 ^ 23 then
      some (.header r.seq (2 ^ 22 ≤ va - h) ((va - h) % 2 ^ 22 / 64) (va % 64))
    else none

/-- The range of a ring (R134): its base and its size, CAP rounded up to 1 GiB. -/
def Dev.ringSpan (d : Dev) (r : Nat) : Nat × Nat :=
  (d.get F.silRingBase_vbase r * 2 ^ 30, alignUp (d.get F.silRingCfg_cap r * pageBytes) (2 ^ 30))

/-- Whether a ring of a context exists. -/
def Dev.ringOf (d : Dev) (c r : Nat) : Bool := d.flag F.silRingCfg_valid r && d.get F.silRingCfg_ctx r = c

/-- The ring of a context whose range holds an address. -/
def Dev.ringPlace (d : Dev) (c va : Nat) : Option Nat :=
  (List.range 1024).find? fun r => d.ringOf c r && (d.ringSpan r).1 ≤ va && va < (d.ringSpan r).1 + (d.ringSpan r).2

/-- Whether an address lies in a range that the device maps for itself as data arrive: the KV ranges of live rollouts and
the ranges of rings. Its untouched granules stand as mapped with nothing allocated. -/
def Dev.deviceRange (d : Dev) (c va : Nat) : Bool := (d.kvPlace c va).isSome || (d.ringPlace c va).isSome

/-- Whether such a range meets `n` bytes from `va`. -/
def Dev.deviceMeets (d : Dev) (c va n : Nat) : Bool :=
  let meets (b s : Nat) : Bool := b < va + n && va < b + s
  (d.ctx c).rollouts.any (fun r => r.holdsSlot && (meets (d.kvBase c false r.slot) (2 ^ 30) ||
    meets (d.kvBase c true r.slot) (2 ^ 30) || meets (d.kvHeader c false r.slot 0) (2 ^ 23))) ||
  (List.range 1024).any fun r => d.ringOf c r && meets (d.ringSpan r).1 (d.ringSpan r).2

/-- The leaf of a KV page. -/
def kvLeaf (frame : Nat) : Leaf :=
  { level := 3, tier := 0, w := true, comp := true, poison := false, moving := false, alloc := true, fallback := false,
    pref := 0, frame := frame, kind := .kv }

/-- Map one KV page or header page: a frame of the context's KV pool, and a table frame where the mapping needs one
(R122, R123). The result says whether both were found. -/
def Dev.kvFrame (d : Dev) (c g : Nat) : Bool × Dev :=
  let ls := SMap.set (d.ctx c).leaves g (kvLeaf 0)
  if d.get F.kvPool_free c = 0 || !d.tablesFit c ls 0 then
    (false, (d.noteFull (d.get F.kvPool_free c ≠ 0 && d.tablesStarved c ls 0)).put F.kvStat_pool_out c 1)
  else
    match d.findRun 0 1 with
    | some f =>
      let d := d.takeFrames 0 f 1
      let d := (d.modCtx c fun x => { x with kvUsed := x.kvUsed + 1 }).kvCount c
      (true, d.putLeaf c g (kvLeaf f))
    | none => (false, (d.noteFull true).put F.kvStat_pool_out c 1)

/-- Map some KV pages and header pages, all or none. -/
def Dev.kvFrames (d : Dev) (c : Nat) : List Nat → Bool × Dev
  | [] => (true, d)
  | g :: gs =>
    match d.kvFrame c g with
    | (false, d) => (false, d)
    | (true, d) =>
      match d.kvFrames c gs with
      | (true, d) => (true, d)
      | (false, d) => (false, d.dropLeaves c [g])

/-- What an allocation writes into a page's header and cannot take from the state: FMT, SCALE_LOC, LAYOUT (Table 5.3). -/
structure HdrInfo where
  fmt : Nat
  scaleLoc : Nat
  layout : Nat
  deriving DecidableEq, Repr

/-- The 64 bytes of a fresh page header (Table 5.3). -/
def headerBytes (h : HdrInfo) (pre : Bool) (seq group index tokens : Nat) : List Byte :=
  leBytes 1 (h.fmt % 16 + (if pre then 64 else 0)) ++ leBytes 1 0 ++ leBytes 2 index ++ leBytes 4 (seq % 2 ^ 24) ++
  leBytes 4 group ++ leBytes 2 tokens ++ leBytes 2 0x8000 ++ leBytes 2 h.scaleLoc ++ leBytes 6 0 ++ leBytes 8 h.layout ++
  leBytes 32 0

/-- Write bytes over leaves that are allocated, with the metadata of compressed frames (R246). A write of the device's own to a granule
whose requests end with TIER_ERROR is lost and counted (R247, R250). -/
def Dev.pokeVa (d : Dev) (c va : Nat) (bs : List Byte) : Dev :=
  d.each (pieces va bs) fun p d =>
    match (d.ctx c).leafAt (p.1 / pageBytes) with
    | some (k, l) =>
      if d.barred l then d.countFail c Status.tierError
      else if l.alloc then
        let (t, a) := d.placeOf none k l p.1
        let d := d.physWrite (d.tenantOf c) t a p.2
        if t = 0 || !l.comp then d else d.recode t (a / pageBytes) (a % pageBytes) p.2.length
      else d
    | none => d

/-- Read bytes as they lie; an unmapped or unallocated byte reads 0. What the device's own read of a granule whose requests end with
TIER_ERROR takes for its bytes is not stated: they are free, and the request is counted (R247, R250; log entry 69). -/
def Dev.peekVa (d : Dev) (c : Nat) (reader : Option (Nat × Nat)) (va n : Nat) : List Byte × Dev :=
  (pieces va (List.replicate n 0)).foldl (fun (r : List Byte × Dev) p =>
    match (r.2.ctx c).leafAt (p.1 / pageBytes) with
    | some (k, l) =>
      if r.2.barred l then
        let (bs, d) := (r.2.countFail c Status.tierError).freeBytes p.2.length
        (r.1 ++ bs, d)
      else if l.alloc then
        let (t, a) := r.2.placeOf reader k l p.1
        let (bs, d) := r.2.physRead (r.2.tenantOf c) t a p.2.length
        (r.1 ++ bs, d)
      else (r.1 ++ p.2, r.2)
    | none => (r.1 ++ p.2, r.2)) ([], d)

/-! ### Watch sums (R165, R179) -/

/-- The exact square of a value in units of 2^-298, or `none` for a NaN or an infinity. -/
def sqUnits (w : W32) : Option Nat :=
  match f32 w with
  | .fin _ m e => some (m * m * 2 ^ (2 * e + 298).toNat)
  | _ => none

/-- Add the square of a value to a unit's register for a context. -/
def Dev.addSquare (d : Dev) (unit c : Nat) (w : W32) : Dev :=
  match sqUnits w with
  | some n => d.modUnit unit fun u => { u with sq := SMap.set u.sq c (SMap.get u.sq 0 c + n) }
  | none => d.modUnit unit fun u => { u with sqBad := if u.sqBad.contains c then u.sqBad else u.sqBad ++ [c] }

/-- The element range of a watch that a write touches. -/
def Watch.touched (w : Watch) (va n : Nat) : List Nat :=
  let b := elemBits w.fmt
  let lo := max va w.addr
  let hi := min (va + n) (w.addr + ceilDiv (w.elems * b) 8)
  if lo < hi then
    let i := (lo - w.addr) * 8 / b
    let j := min w.elems (ceilDiv ((hi - w.addr) * 8) b)
    (List.range (j - i)).map (i + ·)
  else []

/-- A write that has landed adds to the sums of the watch ranges it touches. -/
def Dev.watchLand (d : Dev) (c va n : Nat) : Dev :=
  d.each (d.ctx c).watches fun w d =>
    d.each (w.touched va n) fun i d =>
      let lo := i * elemBits w.fmt
      let (bs, d) := d.peekVa c none (w.addr + lo / 8) (ceilDiv (lo % 8 + elemBits w.fmt) 8)
      let e := decodeElem w.fmt (bitsOf (leNat bs) (lo % 8) (elemBits w.fmt))
      d.addSquare w.unit c (toF32 (Ext.mul e (tsVal w.ts)))

/-- Write bytes over allocated leaves, with the watch sums. -/
def Dev.land (d : Dev) (c va : Nat) (bs : List Byte) : Dev := (d.pokeVa c va bs).watchLand c va bs.length

/-! ### KV touch with header -/

/-- Map the page that holds an address of a live rollout's ranges, and its header page, on the page's first write, and
write the page's header (R122): both pages or neither. Where a frame is missing, the rollout is to end with QUOTA, REASON 4, at its step
boundary (R123). Fields that only the layout record gives are free where no append names it. -/
def Dev.kvTouch (d : Dev) (c va : Nat) (info : Option HdrInfo) : Bool × Dev :=
  match d.kvPlace c va with
  | none => (false, d)
  | some (.header ..) => d.kvFrame c (va / pageBytes)
  | some (.data seq pre page) =>
    match (d.ctx c).rollouts.find? fun r => r.seq = seq with
    | none => (false, d)
    | some r =>
      let pool := if pre then r.prePool else r.decPool
      let ppg := match SMap.find (d.ctx c).pools pool with | some p => max p.ppg 1 | none => 1
      let fail (d : Dev) : Dev :=
        d.modRollout c seq fun r => { r with ending := match r.ending with | none => some (Status.quota, 4) | some e => some e }
      let h := d.kvHeader c pre r.slot page
      let (ok, d) := d.kvFrames c (va / pageBytes :: if ((d.ctx c).leafAt (h / pageBytes)).isSome then [] else [h / pageBytes])
      if !ok then (false, fail d) else
        let (i, d) := match info with
          | some i => (i, d)
          | none =>
            let (v, d) := d.freeVal
            (⟨(v.extractLsb' 0 4).toNat, (v.extractLsb' 4 16).toNat, (v.extractLsb' 20 44).toNat⟩, d)
        (true, d.land c h (headerBytes i pre seq (page / ppg) (page % ppg) 0))

/-! ### Checked writes -/

/-- A write that the KV rules discard without a fault (R123); not a status code. -/
def kvDiscarded : Nat := 0x100

/-- Make a granule ready for a write by the context: translation, permission, first touch, and the request's outcome.
`none`: the bytes may be written. -/
def Dev.prepWrite (d : Dev) (c : Nat) (rsp : TierRsp) (va : Nat) (info : Option HdrInfo) : Option Nat × Dev :=
  let g := va / pageBytes
  if 2 ^ 50 ≤ va then (some Status.pageFault, d) else
    match (d.ctx c).leafAt g with
    | none =>
      if (d.kvPlace c va).isSome then
        let (ok, d) := d.kvTouch c va info
        if ok then d.request c rsp g else (some kvDiscarded, d)
      else (some Status.pageFault, d)
    | some (k, l) =>
      if !l.w then (some Status.pageFault, d)
      else if l.alloc then d.request c rsp g
      else
        let (ok, d) := d.firstTouch c k l
        if ok then d.request c rsp g else (some Status.quota, d)

/-- A write by pieces that stops at the first failure: the failing status and address, the bytes written, the device. -/
def Dev.writeGo (d : Dev) (c : Nat) (rsp : TierRsp) (n : Nat) : List (Nat × List Byte) → Option (Nat × Nat) × Nat × Dev
  | [] => (none, n, d)
  | (va, bs) :: t =>
    match d.prepWrite c rsp va none with
    | (some st, d) => (some (st, va), n, d)
    | (none, d) => (d.land c va bs).writeGo c rsp (n + bs.length) t

/-- Write bytes at a virtual address; earlier pieces stay written when a later one fails. -/
def Dev.writeVa (d : Dev) (c : Nat) (rsp : TierRsp) (va : Nat) (bs : List Byte) : Option (Nat × Nat) × Nat × Dev :=
  d.writeGo c rsp 0 (pieces va bs)

/-! ### Checked reads -/

/-- Bytes read (`none`: the request for the byte's granule failed), and the first failure's status and address. -/
structure Got where
  bytes : List (Option Byte)
  bad : Option (Nat × Nat)
  deriving DecidableEq, Repr

/-- The bytes, a failed one as 0. -/
def Got.raw (g : Got) : List Byte := g.bytes.map (·.getD 0)

/-- Read `n` bytes at a virtual address of a context: an unmapped piece is a PAGE_FAULT; an untouched page of a live
rollout's ranges and a leaf with ALLOC 0 read 0. -/
def Dev.readVa (d : Dev) (c : Nat) (reader : Option (Nat × Nat)) (rsp : TierRsp) (va n : Nat) : Got × Dev :=
  (pieces va (List.replicate n 0)).foldl (fun (r : Got × Dev) p =>
    let no (st : Nat) : Got :=
      ⟨r.1.bytes ++ List.replicate p.2.length none, match r.1.bad with | none => some (st, p.1) | some b => some b⟩
    if 2 ^ 50 ≤ p.1 then (no Status.pageFault, r.2) else
      match (r.2.ctx c).leafAt (p.1 / pageBytes) with
      | none =>
        if r.2.deviceRange c p.1 then (⟨r.1.bytes ++ p.2.map some, r.1.bad⟩, r.2) else (no Status.pageFault, r.2)
      | some (_, l) =>
        match (r.2.latchRead reader l).request c rsp (p.1 / pageBytes) with
        | (some st, d) => (no st, d)
        | (none, d) =>
          let (bs, d) := d.peekVa c reader p.1 p.2.length
          (⟨r.1.bytes ++ bs.map some, r.1.bad⟩, d)) (⟨[], none⟩, d)

/-- Whether every granule of a range is mapped. -/
def Dev.mapped (d : Dev) (c va n : Nat) : Bool :=
  va + n ≤ 2 ^ 50 && (granules va n).all fun g => ((d.ctx c).leafAt g).isSome || d.deviceRange c (g * pageBytes)

/-- Whether every granule of a range is mapped and writable by the context. -/
def Dev.writable (d : Dev) (c va n : Nat) : Bool :=
  va + n ≤ 2 ^ 50 && (granules va n).all fun g =>
    match (d.ctx c).leafAt g with
    | some (_, l) => l.w
    | none => (d.kvPlace c (g * pageBytes)).isSome

/-! ### Local store (Table 12.2) -/

/-- Bytes of a core's local store. -/
def storeBytes : Nat := 2 ^ 22

/-- An operand's address: virtual, or local store of a core. -/
inductive Addr where
  | va (a : Nat)
  | ls (core off : Nat)
  | bad
  deriving DecidableEq, Repr

/-- Read the form of an address (Table 12.2): a local-store form with a reserved bit set is malformed. -/
def Addr.of (w : Nat) : Addr :=
  if bitOf w 63 then (if bitsOf w 30 33 = 0 then .ls (bitsOf w 22 8) (bitsOf w 0 22) else .bad) else .va (bitsOf w 0 63)

/-- Read local store. -/
def Dev.lsRead (d : Dev) (core off n : Nat) : List Byte := (d.core core).store.readN off n

/-- Write local store. -/
def Dev.lsWrite (d : Dev) (core off : Nat) (bs : List Byte) : Dev :=
  d.modCore core fun x => { x with store := x.store.writeN off bs }

/-- Whether a core is one of a context's. -/
def Dev.ownsCore (d : Dev) (c core : Nat) : Bool :=
  d.get F.coreState_state core = CoreSt.held && d.get F.coreState_ctx core = c

/-! ### Host memory (R347) -/

/-- The key of a byte of host memory as a function reaches it. The functions' spaces stand 2^65 apart, so that a run past the top of
one never reaches the next. -/
def hostKey (fn a : Nat) : Nat := fn * 2 ^ 65 + a % 2 ^ 64

/-- Read host memory through a function. -/
def Dev.hostRead (d : Dev) (fn a n : Nat) : List Byte := d.mem.host.readN (hostKey fn a) n

/-- Write host memory through a function; a detached port drops the write (R361). -/
def Dev.hostWrite (d : Dev) (fn a : Nat) (bs : List Byte) : Dev :=
  if d.detached then d else { d with mem := { d.mem with host := d.mem.host.writeN (hostKey fn a) bs } }

end Sys2Proof.Machine
end

