-- ==== Sys2Proof/Machine/Queues.lean ====
section
/-! DEFINITION. Queues and rings: doorbells, QUE_CFG, taking descriptors with the common header's checks, completion
entries (R333 to R337, R343, R347, R354, R355). -/

namespace Sys2Proof.Machine

/-! ### Who may write -/

/-- Whether BAR accesses beyond the GLB block are served: IDE streams stand, the link is not lost (R343). -/
def Dev.barOpen (d : Dev) : Bool :=
  d.flag F.hostStat_ide 0 && (d.get F.hostStat_state 0 = 1 || d.get F.hostStat_state 0 = 2)

/-- Whether blocks beyond GLB, TIME and SEC answer a host access (R343, R433). -/
def Dev.served (d : Dev) : Bool := d.barOpen && d.flag F.glbInfo_ready 0

/-- Whether a function's write to a queue page takes effect: its tenant owns the queue (R337). -/
def Dev.queWritable (d : Dev) (fn q : Nat) : Bool :=
  d.served && match d.ctxOfQueue q with
    | some c => d.tenantOf c = fn
    | none => false

/-! ### Ring shapes (R333) -/

/-- Number of entries: a LOG outside 4 to 16 acts as 4. -/
def ringSize (log : Nat) : Nat := if 4 ≤ log && log ≤ 16 then 2 ^ log else 16

/-- Entries of the two rings of a queue. -/
def Dev.sqSize (d : Dev) (q : Nat) : Nat := ringSize (d.get F.queCfg_sq_log q)
def Dev.cqSize (d : Dev) (q : Nat) : Nat := ringSize (d.get F.queCfg_cq_log q)

/-- Steps from one ring index forward to another. -/
def ringDist (size lo hi : Nat) : Nat := (hi + size - lo % size) % size

/-- States of QUE_STAT. -/
def queOff : Nat := 0
def queRun : Nat := 1
def queErr : Nat := 2
def queTorn : Nat := 3

/-! ### Doorbells (R334) -/

/-- A queue goes to ERROR with a cause. -/
def Dev.queError (d : Dev) (q cause : Nat) : Dev :=
  (d.put F.queStat_state q queErr).put F.queStat_cause q cause

/-- QUE_DB: a new submission tail. -/
def Dev.queDb (fn q tail : Nat) (d : Dev) : Dev :=
  if d.queWritable fn q && d.get F.queStat_state q = queRun then
    if d.sqSize q ≤ tail then d.queError q 1 else d.modQueue q fun x => { x with sqTail := tail }
  else d

/-- QUE_CQ_DB: completion entries consumed up to an index. -/
def Dev.queCqDb (fn q head : Nat) (d : Dev) : Dev :=
  if d.queWritable fn q && d.get F.queStat_state q = queRun then
    let x := d.queue q
    let n := d.cqSize q
    if head < n && ringDist n x.cqHead head ≤ ringDist n x.cqHead x.cqTail then
      d.modQueue q fun x => { x with cqHead := head }
    else d.queError q 2
  else d

/-! ### QUE_CFG (R333) -/

/-- Set the fields of QUE_CFG that a write carries. -/
def Dev.putQueCfg (d : Dev) (q : Nat) (v : Word) : Dev := d.setReg .queCfg q (bitsOf v.toNat 0 23)

/-- Start a queue: positions and INFLIGHT return to 0, the expected phase to 1. A queue of a TORN context stands TORN
(R338). -/
def Dev.startQueue (d : Dev) (q : Nat) : Dev :=
  let d := d.modQueue q fun x => { x with sqTail := 0, cqTail := 0, cqHead := 0, phase := true, due := [] }
  let torn : Bool := match d.ctxOfQueue q with | some c => d.ctxState c == CtxSt.torn | none => false
  let d := ((d.put F.queStat_sq_head q 0).put F.queStat_inflight q 0).put F.queStat_cause q 0
  d.put F.queStat_state q (if torn then queTorn else queRun)

/-- End a queue's enable period: what is due is dropped, and what runs on completes into nothing (R333). -/
def Dev.stopQueue (d : Dev) (q : Nat) : Dev :=
  if d.flag F.queCfg_enable q then
    let d := d.modQueue q fun x => { x with due := [], period := x.period + 1 }
    ((d.put F.queCfg_enable q 0).put F.queStat_state q queOff).put F.queStat_cause q 0
  else d

/-- A QUE_CFG write that sets ENABLE: ignored while ENABLE is 1. -/
def Dev.queEnable (fn q : Nat) (value : Word) (d : Dev) : Dev :=
  if d.queWritable fn q && !d.flag F.queCfg_enable q && bitOf value.toNat 0 then (d.putQueCfg q value).startQueue q
  else d

/-- A QUE_CFG write that leaves ENABLE 0: it ends an enable period, and takes effect whole. -/
def Dev.queDisable (fn q : Nat) (value : Word) (d : Dev) : Dev :=
  if d.queWritable fn q && !bitOf value.toNat 0 then (d.stopQueue q).putQueCfg q value else d

/-! ### Taking descriptors (R334, R335, R343, R354, R355) -/

/-- Whether a class exists (Table 16.5) and has an operation of this number. -/
def opKnown (cls op : Nat) : Bool :=
  match cls with
  | 1 => true
  | 2 => true
  | 3 => op < 7
  | 4 => op < 6
  | 5 => op < 4
  | 6 => op < 4
  | 7 => op < 4
  | 8 => op < 4
  | 9 => true
  | 10 => [1, 2, 3, 0x10, 0x11, 0x12, 0x20].contains op
  | 11 => true
  | _ => false

/-- The header check of R355, and the check that the class has the operation: the refusing status, if any. -/
def Dev.headerCheck (d : Dev) (c : Nat) (bs : List Byte) : Option Nat :=
  let cls := fieldAt bs 0 1
  if cls = 0 || 11 < cls || fieldAt bs 1 1 > 1 || !allZero (slice bs 2 14) then some Status.internal
  else if (cls = 4 && d.kindOf c = 1) || (cls = 5 && d.kindOf c = 0) || (cls = 11 && d.tenantOf c ≠ 0) then
    some Status.integrity
  else if !opKnown cls (fieldAt bs 16 1) then some Status.internal
  else none

/-- Whether a descriptor of a queue waits, and blocks its queue (R335): one that its class has not yet refused or begun, or a
LAUNCH that is not placed yet (R38; log entry 67). -/
def Dev.queueWaits (d : Dev) (c q : Nat) : Bool :=
  (d.queue q).descs.any fun x =>
    x.period = (d.queue q).period &&
      (!x.accepted || (d.ctx c).clauses.any fun y => y.ref = .desc q x.idx && !y.placed)

/-- The 64 bytes at an index of a submission ring, read as the function of the queue's tenant (R347). -/
def Dev.ringEntry (d : Dev) (c q idx : Nat) : List Byte :=
  d.hostRead (d.tenantOf c) (d.get F.queSqBase_base q * 4096 + 64 * idx) 64

/-- Whether the completion ring has room for one more descriptor's completion (R334). -/
def Dev.roomFor (d : Dev) (q : Nat) : Bool :=
  let x := d.queue q
  ringDist (d.cqSize q) x.cqHead x.cqTail + d.get F.queStat_inflight q + 1 ≤ d.cqSize q - 1

/-- Whether the device can take the next descriptor of a queue now. -/
def Dev.canTake (d : Dev) (c q : Nat) : Bool :=
  let x := d.queue q
  let head := d.get F.queStat_sq_head q
  let st := d.get F.queStat_state q
  let fence := bitOf (fieldAt (d.ringEntry c q head) 1 1) 0
  d.flag F.queCfg_enable q && head ≠ x.sqTail && d.roomFor q &&
    (if d.ctxState c = CtxSt.torn then st = queTorn
     else st = queRun && !d.queueWaits c q && !(fence && d.get F.queStat_inflight q ≠ 0))

/-- Whether the device reads the next entry of a running queue's ring. -/
def Dev.canRead (d : Dev) (c q : Nat) : Bool :=
  d.flag F.queCfg_enable q && d.get F.queStat_sq_head q ≠ (d.queue q).sqTail && d.roomFor q &&
    d.get F.queStat_state q = queRun && !d.queueWaits c q

/-- The queues of a context in round-robin order from the one after the queue last served (R335). -/
def Dev.turnOrder (d : Dev) (c : Nat) : List Nat :=
  let qs := d.queuesOf c
  let last := (d.ctx c).lastQueue
  (qs.filter fun q => last < q) ++ qs.filter fun q => q ≤ last

/-- Take one descriptor of a queue. It keeps its place in the context's order (R38, R238) and the job seed and TIME_NOW at that moment (R105,
R224). -/
def Dev.takeFrom (d : Dev) (c q : Nat) : Dev :=
  let x := d.queue q
  let head := d.get F.queStat_sq_head q
  let bs := d.ringEntry c q head
  let w : Waiter := ⟨q, head, x.period⟩
  let seed : Word := BitVec.ofNat 64 (d.reg .rngSeed c)
  let taken : Desc := ⟨head, x.period, bs, false, (d.ctx c).takes, seed, d.ns⟩
  let d := d.modCtx c fun y => { y with lastQueue := q, takes := y.takes + 1 }
  let d := d.modQueue q fun x => { x with descs := x.descs ++ [taken] }
  let d := ((d.put F.queStat_sq_head q ((head + 1) % d.sqSize q)).incMod F.queStat_inflight q).incMod F.queCnt_taken q
  if d.ctxState c = CtxSt.torn then d.complete w Status.ctxTornDown 0
  else match d.headerCheck c bs with
    | some st => d.complete w st 0
    | none => d

/-- DESCRIPTOR_TAKE: the next descriptor of a context, when some queue has one that the device can take. An ACTIVE
context's descriptors go on to their classes; a TORN context's complete with CTX_TORN_DOWN (R338). A ring read that the
host port loses takes nothing and stops the queue under CAUSE 3 (QUE_STAT; log entry 67). -/
def Dev.descriptorTake (c : Nat) (lost : Bool) (d : Dev) : Dev :=
  let st := d.ctxState c
  if d.flag F.glbInfo_ready 0 && d.flag F.hostStat_ide 0 && !d.detached && (st = CtxSt.active || st = CtxSt.torn) then
    if lost then
      match (d.turnOrder c).find? (d.canRead c) with
      | some q => d.queError q 3
      | none => d
    else match (d.turnOrder c).find? (d.canTake c) with
      | some q => d.takeFrom c q
      | none => d
  else d

/-! ### Completion entries (R336) -/

/-- The 16 bytes of a completion entry (Table 15.2). -/
def entryBytes (q : Nat) (x : Due) (phase : Bool) : List Byte :=
  leBytes 8 x.result ++ leBytes 2 x.idx ++ leBytes 1 x.status ++ leBytes 1 (if phase then 1 else 0) ++ leBytes 2 q ++
  leBytes 2 0

/-- COMPLETION_WRITE: the first completion that is due on a queue is written at the completion tail, when the host
port is attached and an entry stays empty; IRQ 1 signals the vector. -/
def Dev.completionWrite (q : Nat) (d : Dev) : Dev :=
  let x := d.queue q
  match x.due, d.ctxOfQueue q with
  | e :: rest, some c =>
    let n := d.cqSize q
    if !d.detached && d.flag F.queCfg_enable q && ringDist n x.cqHead x.cqTail + 1 ≤ n - 1 then
      let fn := d.tenantOf c
      let d := d.hostWrite fn (d.get F.queCqBase_base q * 4096 + 16 * x.cqTail) (entryBytes q e x.phase)
      let tail := (x.cqTail + 1) % n
      let d := d.modQueue q fun x => { x with due := rest, cqTail := tail, phase := if tail = 0 then !x.phase else x.phase }
      let d := (d.dec F.queStat_inflight q).incMod F.queCnt_done q
      if d.flag F.queCfg_irq q then d.emit (.msix fn (d.get F.queCfg_vec q)) else d
    else d
  | _, _ => d

/-! ### The commands -/

/-- QUE_DB (R334). -/
def execQueDb (fn q tail : Nat) (s : State) : Host.Outcome State Fault Refusal :=
  run (Instr.wf (.queDb fn q tail)) (Dev.queDb fn q tail) s

/-- QUE_CQ_DB (R334). -/
def execQueCqDb (fn q head : Nat) (s : State) : Host.Outcome State Fault Refusal :=
  run (Instr.wf (.queCqDb fn q head)) (Dev.queCqDb fn q head) s

/-- QUE_ENABLE (R333). -/
def execQueEnable (fn q : Nat) (value : Word) (s : State) : Host.Outcome State Fault Refusal :=
  run (Instr.wf (.queEnable fn q value)) (Dev.queEnable fn q value) s

/-- QUE_DISABLE (R333). -/
def execQueDisable (fn q : Nat) (value : Word) (s : State) : Host.Outcome State Fault Refusal :=
  run (Instr.wf (.queDisable fn q value)) (Dev.queDisable fn q value) s

/-- DESCRIPTOR_TAKE (R335). -/
def execDescriptorTake (ctx : Nat) (lost : Bool) (s : State) : Host.Outcome State Fault Refusal :=
  run (Instr.wf (.descriptorTake ctx lost)) (Dev.descriptorTake ctx lost) s

/-- COMPLETION_WRITE (R336). -/
def execCompletionWrite (q : Nat) (s : State) : Host.Outcome State Fault Refusal :=
  run (Instr.wf (.completionWrite q)) (Dev.completionWrite q) s

end Sys2Proof.Machine
end

