-- ==== Sys2Proof/Machine/CoreSets.lean ====
section
/-! DEFINITION. Core resets, the counts that follow from the core sets, granting, releasing and removing cores (R15, R22,
R58, R96, R332, Tables 2.6 and 15.3). -/

namespace Sys2Proof.Machine

/-! ### Core reset (Table 15.3) -/

/-- A core reset: local store, handle queues, sequencers, DMA channels, generator state and the registers of core domain
return to their reset values. -/
def Dev.resetCore (d : Dev) (k : Nat) : Dev := (d.setCore k Core.init).resetRegs (regsOf .core .core) k

/-- Whether a core needs a reset before it leaves a context: it has run a clause since its last one (Table 2.6). -/
def Dev.resetIfUsed (d : Dev) (k : Nat) : Dev := if (d.core k).used then d.resetCore k else d

/-- Whether a context's work goes on: ACTIVE, or DETACHED with what was taken before (R361). -/
def Dev.working (d : Dev) (c : Nat) : Bool := d.ctxState c = CtxSt.active || d.ctxState c = CtxSt.detached

/-! ### Counts -/

/-- The set of cores of a context as the four words of CTX_CORES. -/
def heldWord (cores : List Nat) (i : Nat) : Nat := ((cores.filter fun k => k / 64 = i).map fun k => 2 ^ (k % 64)).sum

/-- The contexts of a tenant. -/
def Dev.ctxsOf (d : Dev) (t : Nat) : List Nat :=
  (List.range 256).filter fun c => d.flag F.ctxCfg_valid c && d.tenantOf c = t

/-- Bring TEN_STAT of a tenant to its contexts' cores and queues. -/
def Dev.countTenant (d : Dev) (t : Nat) : Dev :=
  let cs := d.ctxsOf t
  let d := d.put F.tenStat_contexts t cs.length
  let d := d.put F.tenStat_cores t (cs.map fun c => (d.coresOf c).length).sum
  d.put F.tenStat_queues t (cs.map fun c => d.get F.ctxCfg_nq c).sum

/-- Bring the counts of a context and its tenant to the core sets: CTX_STATE.GEN_HELD and LRN_HELD, CTX_CORES, TEN_STAT. -/
def Dev.countCores (d : Dev) (c : Nat) : Dev :=
  let d := d.put F.ctxState_gen_held c (d.genCores c).length
  let d := d.put F.ctxState_lrn_held c (d.lrnCores c).length
  let held := d.coresOf c
  let d := d.each [0, 1, 2, 3] fun i d => d.put F.ctxCores_held c (heldWord held i) i
  d.countTenant (d.tenantOf c)

/-! ### Pools lose cores (R96) -/

/-- A core leaves the pools of a context: their guarantee clears (R96). -/
def Dev.leavePools (d : Dev) (c k : Nat) : Dev :=
  d.each ((d.ctx c).pools.filter fun e => e.2.cores.contains k) fun e d =>
    let cores := e.2.cores.filter fun x => x ≠ k
    let d := d.modCtx c fun x => { x with pools := SMap.set x.pools e.1 { e.2 with cores := cores, lost := true } }
    (d.put F.genPoolStat_guar c 0 e.1).put F.genPoolStat_cores c cores.length e.1

/-! ### Granting and releasing (Table 2.6) -/

/-- A context holds a core. `lrn` is the role it takes in a mixed context; other kinds read 0. -/
def Dev.holdCore (d : Dev) (c k : Nat) (lrn : Bool) : Dev :=
  d.setReg .coreState k (CoreSt.held + c * 2 ^ 8 + if d.kindOf c = 2 && lrn then 2 ^ 16 else 0)

/-- A core becomes FREE. -/
def Dev.freeCore (d : Dev) (k : Nat) : Dev := d.setReg .coreState k CoreSt.free

/-- The FREE cores, in ascending order. -/
def Dev.freeCores (d : Dev) : List Nat := (List.range 256).filter fun k => d.get F.coreState_state k = CoreSt.free

/-- Whether a core is under test: it is granted only when its test ends (R424). -/
def Dev.underTest (d : Dev) (k : Nat) : Bool := d.tests.any fun t => t.block = 0 && t.index = k && t.running

/-- Whether a rollout step runs on a core: it is one of the cores that the step took when it began (R23). -/
def Dev.inPoolStep (d : Dev) (c k : Nat) : Bool :=
  (d.ctx c).pools.any fun e => match e.2.step with | some s => s.cores.contains k | none => false

/-- Whether a clause runs on a core. -/
def Dev.coreBusy (d : Dev) (k : Nat) : Bool := !(d.core k).clauses.isEmpty

/-- Whether a core holds the pinned heads of a sequence that has not completed, been cancelled or been paused (R24). -/
def Dev.pinHeld (d : Dev) (c k : Nat) : Bool :=
  (d.ctx c).pools.any fun e => e.2.pinned && e.2.cores.contains k &&
    (d.ctx c).rollouts.any fun r => r.poolIds.contains e.1 && r.st ≠ .paused

/-- Whether the learning role of a context stands at a full stop (R22, R25, R33, R47, R314): no step is open, and no barrier or SAVE is in
progress. -/
def Dev.lrnStopped (d : Dev) (c : Nat) : Bool :=
  let x := d.ctx c
  !x.stepOpen && !x.hold && !x.inBarrier && d.get F.lrnStepStat_phase c ≠ LrnSt.stopping && !(d.lrnCores c).any d.coreBusy

/-- Whether a core may leave its role now: a generation core outside every rollout step, without pinned heads; a learning core at
its context's full stop. -/
def Dev.mayLeave (d : Dev) (c k : Nat) : Bool :=
  if d.genRole k then !d.coreBusy k && !d.inPoolStep c k && !d.pinHeld c k else d.lrnStopped c

/-- Whether a HELD core stands at a full stop of its role (R15, R22, R23, R314, Table 18.6): no clause and no rollout step runs on it,
and a learning core's context stands at a learning full stop. -/
def Dev.coreStopped (d : Dev) (k : Nat) : Bool :=
  let c := d.get F.coreState_ctx k
  !d.coreBusy k && !d.inPoolStep c k && (d.genRole k || d.lrnStopped c)

/-! ### What a pending CORES request names (R23, R331) -/

/-- The moves that a pending request still has to make: cores that change from generation to learning, from learning to
generation, cores of each role to release, and cores of each role still to join. -/
structure CorePlan where
  toLrn : List Nat
  toGen : List Nat
  relGen : List Nat
  relLrn : List Nat
  needGen : Nat
  needLrn : Nat
  deriving DecidableEq, Repr

/-- The last `n` of a list, and the rest. -/
def lastOf (n : Nat) (xs : List Nat) : List Nat := xs.drop (xs.length - n)
def butLast (n : Nat) (xs : List Nat) : List Nat := xs.take (xs.length - n)

/-- The plan of a context from its held cores and its targets (R331). -/
def Dev.corePlan (d : Dev) (c : Nat) : CorePlan :=
  let gens := d.genCores c
  let lrns := d.lrnCores c
  let tg := d.get F.ctxState_gen_tgt c
  let tl := d.get F.ctxState_lrn_tgt c
  let m := min (gens.length - tg) (tl - lrns.length)
  let m' := min (lrns.length - tl) (tg - gens.length)
  let gens' := butLast m gens
  let lrns' := lrns.drop m'
  ⟨lastOf m gens, lrns.take m', lastOf (gens'.length - (tg - m')) gens', lastOf (lrns'.length - (tl - m)) lrns',
    tg - gens.length - m', tl - lrns.length - m⟩

/-- The cores of the donor that a pending request takes when FREE cores fall short: the highest-numbered of the role that
grows (generation, where both grow), then those of the other role. -/
def Dev.donorCores (d : Dev) (c : Nat) (p : CorePlan) : List Nat :=
  match (d.ctx c).coresReq.bind (·.donor) with
  | some o =>
    if d.working o then
      let short := p.needGen + p.needLrn - d.freeCores.length
      let g := (d.genCores o).reverse
      let l := (d.lrnCores o).reverse
      (if 0 < p.needGen then g ++ l else l ++ g).take short
    else []
  | none => []

/-- The cores on which no new rollout step starts, from the pending requests (R23). -/
def Dev.nameStopping (d : Dev) : Dev :=
  let live := (List.range 256).filter fun c => d.flag F.ctxCfg_valid c
  let named := (live.filter fun c => (d.ctx c).coresReq.isSome && d.working c).flatMap fun c =>
    let p := d.corePlan c
    p.toLrn ++ p.relGen ++ d.donorCores c p
  d.each live fun c d =>
    let mine := named.filter fun k => d.ownsCore c k && d.genRole k
    if (d.ctx c).stopping = mine then d else d.modCtx c fun x => { x with stopping := mine }

/-- The cores that a donor can give now: those of each role that are named, once all of them stand at a full stop of that role. -/
def Dev.donorReady (d : Dev) (c o : Nat) (p : CorePlan) : List Nat :=
  let named := d.donorCores c p
  let g := named.filter d.genRole
  let l := named.filter fun k => !d.genRole k
  (if g.all (d.mayLeave o) then g else []) ++ if l.all (d.mayLeave o) then l else []

/-- The FREE cores that a plan takes, less those under test, which join when their tests end (R424). -/
def Dev.joinable (d : Dev) (p : CorePlan) : List Nat := ((d.freeCores).take (p.needGen + p.needLrn)).filter fun k => !d.underTest k

/-- The cores that the pending request of a context can move now, at the full stops that stand (R22 to R25, R331). -/
def Dev.movesNow (d : Dev) (c : Nat) : List Nat :=
  match (d.ctx c).coresReq with
  | none => []
  | some req =>
    if d.working c then
      let p := d.corePlan c
      (if d.lrnStopped c && p.toLrn.all (d.mayLeave c) then p.toLrn ++ p.toGen else []) ++
      (if p.relGen.all (d.mayLeave c) then p.relGen else []) ++ (if p.relLrn.all (d.mayLeave c) then p.relLrn else []) ++
      match req.donor with
      | some o => d.donorReady c o p
      | none => []
    else []

/-- The core that the mailbox's REMOVE_CORE waits to remove (Table 18.7). -/
def Dev.removalOf (d : Dev) : Option Nat := if d.flag F.mbxStat_busy 0 && d.mailboxCmd = 3 then some (d.reg .mbxArg 0 0) else none

/-- The cores that leave their role or their context now: no new work starts on them, so that they miss no full stop (R15, R22). -/
def Dev.leaving (d : Dev) : List Nat :=
  ((List.range 256).flatMap d.movesNow) ++
  match d.removalOf with
  | some k => if d.get F.coreState_state k = CoreSt.held && d.coreStopped k then [k] else []
  | none => []

/-- Whether a change of a context's learning cores is due at the learning full stop that stands: the first step after it runs on the new
ratio (R25). -/
def Dev.ratioDue (d : Dev) (c : Nat) : Bool :=
  let p := d.corePlan c
  d.lrnStopped c &&
    (d.leaving.any (fun k => d.ownsCore c k && (!d.genRole k || p.toLrn.contains k)) ||
      ((d.ctx c).coresReq.isSome && p.needGen < (d.joinable p).length))

/-- Whether a context's next-step DMA issue waits for the full stop: a ratio change, a checkpoint or a firmware removal is pending for it
(R48). -/
def Dev.holdsNext (d : Dev) (c : Nat) : Bool :=
  let x := d.ctx c
  x.coresReq.isSome || !x.stopping.isEmpty || x.hold ||
  (match x.ckpt with | some k => d.get F.ckptStat_phase c = 1 && fieldAt k.bytes 40 8 = d.reg .lrnStep c | none => false) ||
  (match d.removalOf with | some k => d.ownsCore c k | none => false) ||
  (List.range 256).any fun y =>
    match (d.ctx y).coresReq with
    | some r => r.donor = some c && (d.donorCores y (d.corePlan y)).any fun k => !d.genRole k
    | none => false

/-- The transfers that waited for a full stop of some cores are issued when it completes (R48). -/
def Dev.issueHeld (d : Dev) (ks : List Nat) : Dev :=
  d.each ks fun k d =>
    if (d.core k).xfers.any (·.held) then d.modCore k fun x => { x with xfers := x.xfers.map fun t => { t with held := false } } else d

/-! ### Removal (R15, R96, R332) -/

/-- A core leaves service: it is REMOVED until the next cold reset. A context that held it loses it from its held count
and its target; its pools lose it. -/
def Dev.removeCore (d : Dev) (k : Nat) : Dev :=
  if d.get F.coreState_state k = CoreSt.held then
    let c := d.get F.coreState_ctx k
    let gen := d.genRole k
    let d := (d.leavePools c k).setReg .coreState k CoreSt.removed
    let d := if gen then d.dec F.ctxState_gen_tgt c else d.dec F.ctxState_lrn_tgt c
    (d.countCores c).nameStopping
  else (d.setReg .coreState k CoreSt.removed).nameStopping

/-- Whether firmware can remove a core now: FREE, or HELD and at a full stop. -/
def Dev.removable (d : Dev) (k : Nat) : Bool :=
  let st := d.get F.coreState_state k
  st = CoreSt.free || (st = CoreSt.held && d.coreStopped k && !(d.ctx (d.get F.coreState_ctx k)).hold)

/-- At a full stop of some cores of a context, firmware removes the first whose CORE_LAG_CYC has grown, over the latest 64
full stops, by more than SLOW_PM per mille of the EXPECT_CYC of its clauses in them (R400). -/
def Dev.removeSlow (d : Dev) (c : Nat) (ks : List Nat) : Dev :=
  let x := d.ctx c
  let hist := ks.foldl (fun m k =>
    SMap.set m k (((d.get F.coreLagCyc_lag k, SMap.get x.expectNow 0 k) :: SMap.get m [] k).take 65)) x.lagHist
  let now := x.expectNow.filter fun e => !ks.contains e.1
  let slow (k : Nat) : Bool :=
    let h := SMap.get hist [] k
    let lag := d.get F.coreLagCyc_lag k
    let before := (h.getD 64 (0, 0)).1
    let grown := if before ≤ lag then lag - before else lag
    decide (d.cfg.slowPm * ((h.take 64).map (·.2)).sum < 1000 * grown)
  let d := d.setCtx c { x with lagHist := hist, expectNow := now }
  if d.cfg.slowPm = 0 then d else
    match ks.find? slow with
    | some k => d.removeCore k
    | none => d

/-! ### Core windows (R58) -/

/-- Whether a function's write to the window of a core takes effect. -/
def Dev.coreWritable (d : Dev) (fn k : Nat) : Bool :=
  d.served &&
    (let st := d.get F.coreState_state k
     if st = CoreSt.held then d.tenantOf (d.get F.coreState_ctx k) = fn else st ≠ CoreSt.absent && fn = 0)

end Sys2Proof.Machine
end

