-- ==== Sys2Proof/Machine/Clauses.lean ====
section
/-! DEFINITION. Clauses: LAUNCH and its image, placement, completion, handles and chains, core reset and removal, counter
clears (R28 to R58, R374, R448). -/

namespace Sys2Proof.Machine

/-! ### Lowered images (R57, Table 2.10) -/

/-- The magic of an image and the target word of this part. -/
def imageMagic : Nat := 0x4D4C4E43_4C415553
def imageTarget : Nat := 0xB0 + 64 * 2 ^ 8 + 64 * 2 ^ 16 + 4 * 2 ^ 24

/-- The header's checks but for DIGEST. -/
def headerOk (h : List Byte) : Bool :=
  let top := fieldAt h 14 2
  let f := bitsOf top 0 5
  let b := bitsOf top 5 5
  let u := bitsOf top 10 5
  let n := fieldAt h 20 4
  let range (i : Nat) : Bool :=
    let r := fieldAt h (24 + 8 * i) 8
    if i < n then bitsOf r 22 2 = 0 && bitsOf r 46 18 = 0 && bitsOf r 0 22 + bitsOf r 24 22 ≤ storeBytes else r = 0
  fieldAt h 0 8 = imageMagic && fieldAt h 8 4 = imageTarget && f ≤ 16 && b ≤ 16 && u ≤ 16 && f + b + u ≤ 16 &&
    bitsOf top 15 1 = 0 && bitsOf (fieldAt h 18 2) 12 4 = 0 && 1 ≤ n && n ≤ 16 && (List.range 16).all range &&
    (List.range 64).all (fun i => bitsOf (fieldAt h (152 + 8 * i) 8) 10 54 = 0) && allZero (slice h 728 3368)

/-- Read an image's header and check it: the header, or the refusing status (R39, R57). -/
def Dev.loadImage (d : Dev) (c va : Nat) : Except Nat (List Byte) × Dev :=
  let (g, d) := d.readVa c none [] va 4096
  match g.bad with
  | some (st, _) => (.error st, d)
  | none =>
    let h := g.raw
    let n := max 4096 (Sys2Proof.Config.imageLength h)
    let (g, d) := d.readVa c none [] va n
    match g.bad with
    | some (st, _) => (.error st, d)
    | none =>
      let img := g.raw
      let blank := img.take 664 ++ List.replicate 64 0 ++ img.drop 728
      if headerOk h && shake256 blank 64 = slice h 664 64 then (.ok h, d) else (.error Status.integrity, d)

/-- The clause that an image and the fields of its launch make. -/
def clauseOf (id ord : Nat) (ref : ClauseRef) (who : Option Waiter) (h : List Byte) (k tense : Nat) (gen stepEnd : Bool)
    (expect wcet : Nat) (ins outs : List Nat) (arg : Nat) (restrict : List Nat) (seed : Word) : Clause :=
  { id := id, ord := ord, ref := ref, who := who, k := k, tense := tense, gen := gen, stepEnd := stepEnd, expectCyc := expect,
    wcetCyc := wcet, inChains := ins, outChains := outs, arg := arg, tableId := fieldAt h 12 2,
    topF := bitsOf (fieldAt h 14 2) 0 5, topB := bitsOf (fieldAt h 14 2) 5 5, topU := bitsOf (fieldAt h 14 2) 10 5,
    dmaOwn := fieldAt h 16 2, slotLen := bitsOf (fieldAt h 18 2) 0 6, slotCyc := bitsOf (fieldAt h 18 2) 6 6,
    lsRanges := (List.range (fieldAt h 20 4)).map fun i =>
      (bitsOf (fieldAt h (24 + 8 * i) 8) 0 22, bitsOf (fieldAt h (24 + 8 * i) 8) 24 22),
    slotTbl := (List.range 64).map fun i => fieldAt h (152 + 8 * i) 8, digest := slice h 664 64, placed := false,
    cores := [], left := [], restrict := restrict, seed := seed }

/-- Put a clause behind those whose descriptors the device took before its own (R38). -/
def insertClause (y : Clause) : List Clause → List Clause
  | [] => [y]
  | z :: zs => if z.ord ≤ y.ord then z :: insertClause y zs else y :: z :: zs

/-- Add a clause to a context. -/
def Dev.addClause (d : Dev) (c : Nat) (f : Nat → Clause) : Dev :=
  d.modCtx c fun x => { x with clauses := insertClause (f x.nextId) x.clauses, nextId := x.nextId + 1 }

/-! ### LAUNCH (R35, R39) -/

/-- The four chain entries of a field of a LAUNCH, without the unused ones. -/
def chainsAt (bs : List Byte) (o : Nat) : List Nat :=
  ((List.range 4).map fun i => fieldAt bs (o + 2 * i) 2).filter fun c => c ≠ 0xFFFF

/-- The form of a LAUNCH (Table 2.4, INTERNAL). -/
def launchForm (bs : List Byte) : Bool :=
  let ins := chainsAt bs 40
  let outs := chainsAt bs 48
  fieldAt bs 26 1 < 3 && fieldAt bs 27 1 < 4 && allZero (slice bs 28 4) && fieldAt bs 16 8 % 4096 = 0 &&
    ins.all (· < 1024) && outs.all (· < 1024) && decide ins.Nodup

/-- Whether a context of a kind may run a clause with a GEN flag and tense (R20, R32). -/
def genAllowed (kind : Nat) (gen : Bool) (tense : Nat) : Bool :=
  (kind = 2 || (kind = 0 && gen) || (kind = 1 && !gen)) && (!gen || tense = 0)

/-- LAUNCH: refused under Table 2.4, or queued for placement. -/
def Dev.launch (q i : Nat) (d : Dev) : Dev :=
  d.withDesc q i 1 256 fun c w bs d =>
    let k := fieldAt bs 24 2
    let gen := bitOf (fieldAt bs 27 1) 0
    let ord := match d.desc q i with | some x => x.ord | none => 0
    if !launchForm bs then d.complete w Status.internal 0
    else if k = 0 || (d.coresOf c).length < k then d.complete w Status.quota 0
    else
      match d.loadImage c (fieldAt bs 16 8) with
      | (.error st, d) => d.complete w st 0
      | (.ok h, d) =>
        if !genAllowed (d.kindOf c) gen (fieldAt bs 26 1) then d.complete w Status.integrity 0
        else
          (d.accept w).addClause c fun id =>
            clauseOf id ord (.desc q i) (some w) h k (fieldAt bs 26 1) gen (bitOf (fieldAt bs 27 1) 1) (fieldAt bs 32 4)
              (fieldAt bs 36 4) (chainsAt bs 40) (chainsAt bs 48).dedup (fieldAt bs 56 8) [] 0

/-! ### Eligible cores (R36, R405) -/

/-- Whether a core's domain is on. -/
def Dev.domainOn (d : Dev) (n : Nat) : Bool := bitOf (d.get F.pwrDomOn_on 0 (n / 64)) (n % 64)

/-- Whether a sequencer is IDLE. -/
def Dev.seqIdle (d : Dev) (k s : Nat) : Bool := d.get F.coreSeqStat_state k s = SeqSt.idle

/-- The free handle queues of a core: bound to no chain and empty. -/
def Dev.freeHqs (d : Dev) (k : Nat) : List Nat :=
  (List.range 32).filter fun q => d.get F.coreHqStat_chain k q = 0xFFFF && d.get F.coreHqStat_fill k q = 0

/-- Whether two lists of local-store ranges overlap. DESIGN CHOICE (log entry 71): a range of length 0 strictly inside another counts as
overlapping it; R36 does not say. -/
def rangesMeet (xs ys : List (Nat × Nat)) : Bool :=
  xs.any fun x => ys.any fun y => x.1 < y.1 + y.2 && y.1 < x.1 + x.2

/-- Whether a core is eligible for a clause. -/
def Dev.eligible (d : Dev) (c : Nat) (y : Clause) (k : Nat) : Bool :=
  let mine := (match y.ref with | .step .. => y.restrict.contains k | .desc .. => true)
  let others := (d.core k).clauses.filterMap fun e => (d.ctx c).clauses.find? fun z => z.id = e.2
  mine && d.domainOn k && d.genRole k == y.gen && d.seqIdle k y.tense &&
    ((d.seqIdle k 0 && d.seqIdle k 1 && d.seqIdle k 2) || d.get F.coreSlotCfg_table_id k = y.tableId) &&
    !others.any (fun z => rangesMeet z.lsRanges y.lsRanges) && y.inChains.length ≤ (d.freeHqs k).length

/-- The eligible cores of a clause in ascending order. A core that is to leave its role or its context at the full stop that stands takes
no new clause (R15, R22). -/
def Dev.eligibles (d : Dev) (c : Nat) (y : Clause) : List Nat :=
  let gone := d.leaving
  (d.coresOf c).filter fun k => !gone.contains k && d.eligible c y k

/-- Whether the learning step of a context lets a learning clause start: no full stop, no hold (R314, Table 7.4), and no change of its cores
that is due before the next step (R25). -/
def Dev.learningOpen (d : Dev) (c : Nat) : Bool :=
  !(d.ctx c).hold && (d.get F.lrnStepStat_phase c = 0 || d.get F.lrnStepStat_phase c = 1) && !d.ratioDue c

/-- Whether a LAUNCH that the device took before a clause's own has not been looked at yet (R38). -/
def Dev.launchBefore (d : Dev) (c : Nat) (y : Clause) : Bool :=
  match y.ref with
  | .step .. => false
  | .desc .. => (d.queuesOf c).any fun q => (d.queue q).descs.any fun x => !x.accepted && fieldAt x.bytes 0 1 = 1 && x.ord < y.ord

/-- Whether the clauses of the same step that stand before a step clause in the program have been placed (R94). -/
def Dev.inTurn (d : Dev) (c : Nat) (y : Clause) : Bool :=
  match y.ref with
  | .step _ pool n => !(d.ctx c).clauses.any fun z =>
      match z.ref with | .step _ pool' n' => pool' = pool && n' < n && !z.placed | .desc .. => false
  | .desc .. => true

/-- Whether a waiting clause can be placed now (R36, R37, R41). -/
def Dev.placeable (d : Dev) (c : Nat) (y : Clause) : Bool :=
  !y.placed && !d.launchBefore c y && d.inTurn c y && (y.gen || d.learningOpen c) && y.inChains.all (fun h => (SMap.find (d.ctx c).chains h).isNone) &&
    1 ≤ y.k && y.k ≤ (d.eligibles c y).length

/-! ### Placement (R29, R37, R41, R374) -/

/-- Load the slot table, the top-note split and the DMA channel owners of an image; its entry 0 begins now (R28, R29). -/
def Dev.loadTable (d : Dev) (k : Nat) (y : Clause) : Dev :=
  let d := d.modCore k fun x => { x with tableAt := d.engineCycle }
  let d := d.setReg .coreSlotCfg k
    (y.slotLen + y.slotCyc * 2 ^ 6 + y.topF * 2 ^ 12 + y.topB * 2 ^ 17 + y.topU * 2 ^ 22 + y.dmaOwn * 2 ^ 27 + y.tableId * 2 ^ 43)
  d.each (List.range 64) fun i d => d.setReg .coreSlotTbl k (bitsOf (y.slotTbl.getD i 0) 0 10) i

/-- Bind the chains of a clause to free handle queues of a core (R41): the queue of each chain. -/
def Dev.bindOn (d : Dev) (k : Nat) (ins : List Nat) : List (Nat × Nat) × Dev :=
  let pairs := ins.zip (d.freeHqs k)
  (pairs, d.each pairs fun p d => d.put F.coreHqStat_chain k p.1 p.2)

/-- Place a clause on one core. -/
def Dev.placeOn (d : Dev) (c : Nat) (y : Clause) (k : Nat) : Dev :=
  let d := if d.seqIdle k 0 && d.seqIdle k 1 && d.seqIdle k 2 then d.loadTable k y else d
  let d := (d.modCore k fun x => { x with clauses := SMap.set x.clauses y.tense y.id, used := true }).issues k y.tense
  let (pairs, d) := d.bindOn k y.inChains
  d.each pairs fun p d => d.modCtx c fun x =>
    let h := SMap.get x.chains ⟨y.id, [], 0⟩ p.1
    { x with chains := SMap.set x.chains p.1 { h with bound := h.bound ++ [(k, p.2)] } }

/-- Extend the clause measurement of a context with an image digest, unless it is among the last 16 (R374). -/
def Dev.measure (d : Dev) (c : Nat) (digest : List Byte) : Dev :=
  if (d.ctx c).digests.contains digest then d else
    let n := d.get F.ctxMeasCnt_count c
    let log := min (d.get F.ctxMeasLog_size_log c) 16
    let d :=
      if log = 0 then d else
        match d.writeVa c [] (d.get F.ctxMeasLog_base c * 4096 + 128 * (n % 2 ^ log)) (leBytes 8 (n + 1) ++ digest ++ leBytes 56 0) with
        | (none, _, d) => d
        | (some _, _, d) => d.put F.ctxMeasCnt_log_err c 1
    let old := ([0, 1, 2, 3].map fun i => leBytes 8 (d.reg .ctxMeas c i)).flatten
    let new := digest256 (old ++ digest)
    let d := d.each [0, 1, 2, 3] fun i d => d.setReg .ctxMeas c (fieldAt new (8 * i) 8) i
    let d := d.modCtx c fun x => { x with digests := (digest :: x.digests).take 16 }
    d.put F.ctxMeasCnt_count c (n + 1)

/-- The first learning clause of a step: the step opens, with its loss scale and, before the first full stop, its seed
latched (R86, R224, Table 7.4). -/
def Dev.openStep (d : Dev) (c : Nat) : Dev :=
  let d := if d.get F.lrnStepStat_phase c = 0 then
      (d.put F.lrnStepStat_phase c 1).modCtx c fun x => { x with latLsExp := d.get F.ctxLsStat_ls_exp c }
    else d
  let d := d.modCtx c fun x => { x with stepOpen := true }
  if (d.ctx c).seedLatched then d else
    (d.setReg .rngSeedLive c (d.reg .rngSeed c)).modCtx c fun x => { x with seedLatched := true }

/-- Place a clause on its cores, all at once. -/
def Dev.placeClause (d : Dev) (c : Nat) (y : Clause) : Dev :=
  let ks := (d.eligibles c y).take y.k
  let seed := match y.ref with
    | .desc .. => BitVec.ofNat 64 (d.reg .rngSeed c)
    | .step .. => y.seed
  let d := d.each ks fun k d => d.placeOn c y k
  let d := d.modClause c y.id fun z => { z with placed := true, cores := ks, left := ks, seed := seed }
  let d := d.measure c y.digest
  if y.gen then d else d.openStep c

/-- CLAUSE_PLACE: the waiting clause is placed when it can be and no clause taken before it can (R38). -/
def Dev.clausePlace (ref : ClauseRef) (d : Dev) : Dev :=
  let c? := match ref with
    | .desc q _ => d.ctxOfQueue q
    | .step c _ _ => some c
  match c? with
  | none => d
  | some c =>
    if d.working c then
      match (d.ctx c).clauses.find? (d.placeable c) with
      | some y => if y.ref = ref then d.placeClause c y else d
      | none => d
    else d

/-! ### Completion (R33, R41, R51, R448) -/

/-- Release the bindings of a clause's chains; handles stay queued until R46 discards them. -/
def Dev.unbind (d : Dev) (c : Nat) (y : Clause) : Dev :=
  let mine := (d.ctx c).chains.filter fun e => e.2.clause = y.id
  let d := d.each mine fun e d => d.each e.2.bound fun p d => d.put F.coreHqStat_chain p.1 0xFFFF p.2
  d.modCtx c fun x => { x with chains := x.chains.filter fun e => e.2.clause ≠ y.id }

/-- Whether every transfer that a sequencer issued has completed; those held for the full stop are not issued yet (R48). -/
def Dev.xfersDone (d : Dev) (k s : Nat) : Bool := !(d.core k).xfers.any fun x => x.seq = s && !x.held

/-- A clause of a length completes on one core. -/
def Dev.completeOn (d : Dev) (c : Nat) (y : Clause) (k len : Nat) : Dev :=
  let d := d.modCore k fun x =>
    { x with clauses := SMap.erase x.clauses y.tense,
             doneSeqs := if y.gen || x.doneSeqs.contains y.tense then x.doneSeqs else x.doneSeqs ++ [y.tense] }
  let d := (d.incMod F.coreSeqStat_clause_cnt k 1 y.tense).put F.coreSeqStat_state k
    (if y.stepEnd then SeqSt.stepWait else SeqSt.idle) y.tense
  let d := d.incMod F.coreLagCyc_lag k (len - y.expectCyc)
  let d := d.modCtx c fun x => { x with expectNow := SMap.set x.expectNow k (SMap.get x.expectNow 0 k + y.expectCyc) }
  if y.wcetCyc ≠ 0 && y.wcetCyc < len then
    (d.incMod F.coreWcetOvr_count k).put F.coreWcetOvr_last_over k (satAdd 32 0 (len - y.wcetCyc))
  else d

/-- CLAUSE_COMPLETE: every core's part has issued its last instruction and its transfers have completed; `lengths` are
the clause's lengths in engine cycles on its cores, in order. -/
def Dev.clauseComplete (c id : Nat) (lengths : List Nat) (d : Dev) : Dev :=
  match (d.ctx c).clauses.find? fun y => y.id = id with
  | none => d
  | some y =>
    if d.working c && y.placed && lengths.length = y.cores.length &&
        y.cores.all (fun k => d.get F.coreSeqStat_state k y.tense = SeqSt.issue && d.xfersDone k y.tense) then
      let d := d.each (y.cores.zip lengths) fun p d => d.completeOn c y p.1 p.2
      let d := (d.unbind c y).unlatchAll fun r => r = (c, launchKey y.id)
      let d := d.modCtx c fun x => { x with clauses := x.clauses.filter fun z => z.id ≠ id }
      match y.who with
      | some w => d.complete w Status.ok 0
      | none => d
    else d

/-! ### Handles (R42 to R46) -/

/-! The fields of a handle (R40, Table 2.7). -/

/-- REF, LEN, FMT, TAG and TOP. -/
structure Handle where
  ref : Nat
  len : Nat
  fmt : Nat
  tag : Nat
  top : Bool
  deriving DecidableEq, Repr

/-- Read a handle. -/
def Handle.of (w : Word) : Handle :=
  ⟨bitsOf w.toNat 0 32, bitsOf w.toNat 32 24, bitsOf w.toNat 56 4, bitsOf w.toNat 60 3, bitOf w.toNat 63⟩

/-- HANDLE_PUSH: the next core of the chain's consumer, in round-robin order, gets the handle, once the sequencer's
writes have completed. Where several causes hold, the lowest counts (R50). DESIGN CHOICE (log entry 72): a push to a chain that the
clause did not declare in OUT_CHAIN is accepted; R41 does not say what it does. -/
def Dev.handlePush (core seq chain : Nat) (handle : Word) (d : Dev) : Dev :=
  d.withClause core seq fun c _ d =>
    match SMap.find (d.ctx c).chains chain with
    | none => d.stalls core seq Cause.handleEmpty
    | some h =>
      match h.bound[h.turn % max 1 h.bound.length]? with
      | none => d.stalls core seq Cause.handleEmpty
      | some (k, q) =>
        if 64 ≤ d.get F.coreHqStat_fill k q then d.stalls core seq Cause.handleEmpty
        else if !d.xfersDone core seq then d.stalls core seq Cause.dmaLate
        else
          let d := d.issues core seq
          let d := d.modCore k fun x => { x with handles := SMap.set x.handles q (SMap.get x.handles [] q ++ [handle]) }
          let d := d.put F.coreHqStat_fill k (d.get F.coreHqStat_fill k q + 1) q
          d.modCtx c fun x => { x with chains := SMap.set x.chains chain { h with turn := (h.turn + 1) % max 1 h.bound.length } }

/-- HANDLE_POP: the oldest handle of the queue that is bound to the chain on this core. A handle whose FMT is 0xF faults the context (R60).
DESIGN CHOICE (log entry 72): a pop that names a chain not bound to this clause waits under HANDLE_EMPTY; R44 does not say. -/
def Dev.handlePop (core seq chain : Nat) (d : Dev) : Dev :=
  d.withClause core seq fun c y d =>
    let q? := match SMap.find (d.ctx c).chains chain with
      | some h => if h.clause = y.id then (h.bound.find? fun p => p.1 = core).map (·.2) else none
      | none => none
    match q? with
    | none => d.stalls core seq Cause.handleEmpty
    | some q =>
      match SMap.get (d.core core).handles [] q with
      | [] => d.stalls core seq Cause.handleEmpty
      | h :: rest =>
        let d := d.issues core seq
        let d := d.modCore core fun x => { x with handles := SMap.set x.handles q rest }
        let d := d.put F.coreHqStat_fill core rest.length q
        if (Handle.of h).fmt = 0xF then d.faultCtx c Status.formatUnknown core seq 0 else d.emit (.toClause core seq h.toNat)

/-- Discard the handles queued on cores (R46): DROPPED counts each one. -/
def Dev.discardHandles (d : Dev) (ks : List Nat) : Dev :=
  d.each ks fun k d =>
    let d := d.each (d.core k).handles fun e d =>
      (d.incSat F.coreHqStat_dropped k e.2.length e.1).put F.coreHqStat_fill k 0 e.1
    d.modCore k fun x => { x with handles := [] }

/-- The sequencers of some cores leave STEP_WAIT at a full stop (R33). -/
def Dev.endStepWait (d : Dev) (ks : List Nat) : Dev :=
  d.each ks fun k d => d.each [0, 1, 2] fun s d =>
    if d.get F.coreSeqStat_state k s = SeqSt.stepWait then d.put F.coreSeqStat_state k SeqSt.idle s else d

/-! ### Core reset, removal, counter clears -/

/-- CORE_RESET: the device resets a core that no ACTIVE or DETACHED context holds (R22, R34, R338). -/
def Dev.coreReset (core : Nat) (d : Dev) : Dev :=
  let st := d.get F.coreState_state core
  if st = CoreSt.absent || (st = CoreSt.held && d.working (d.get F.coreState_ctx core)) then d else d.resetCore core

/-- CORE_REMOVE: firmware removes a core, FREE or at a full stop (R15, R332). -/
def Dev.coreRemove (core : Nat) (d : Dev) : Dev := if d.removable core then d.removeCore core else d

/-- CNT_CLR_STALL: the 24 stall counters. -/
def Dev.cntClrStall (fn core : Nat) (d : Dev) : Dev :=
  if d.coreWritable fn core then d.each (List.range 24) fun j d => d.put F.coreStallCtr_count core 0 j else d

/-- CNT_CLR_LAG. -/
def Dev.cntClrLag (fn core : Nat) (d : Dev) : Dev :=
  if d.coreWritable fn core then d.put F.coreLagCyc_lag core 0 else d

/-- CNT_CLR_WCET. -/
def Dev.cntClrWcet (fn core : Nat) (d : Dev) : Dev :=
  if d.coreWritable fn core then d.setReg .coreWcetOvr core 0 else d

/-! ### The commands -/

/-- LAUNCH (R35). -/
def execLaunch (q i : Nat) (s : State) : Host.Outcome State Fault Refusal :=
  run (Instr.wf (.launch q i)) (Dev.launch q i) s

/-- CLAUSE_PLACE (R37). -/
def execClausePlace (ref : ClauseRef) (s : State) : Host.Outcome State Fault Refusal :=
  run (Instr.wf (.clausePlace ref)) (Dev.clausePlace ref) s

/-- CLAUSE_COMPLETE (R448). -/
def execClauseComplete (ctx id : Nat) (lengths : List Nat) (s : State) : Host.Outcome State Fault Refusal :=
  run (Instr.wf (.clauseComplete ctx id lengths)) (Dev.clauseComplete ctx id lengths) s

/-- HANDLE_PUSH (R42). -/
def execHandlePush (core seq chain : Nat) (handle : Word) (s : State) : Host.Outcome State Fault Refusal :=
  run (Instr.wf (.handlePush core seq chain handle)) (Dev.handlePush core seq chain handle) s

/-- HANDLE_POP (R44). -/
def execHandlePop (core seq chain : Nat) (s : State) : Host.Outcome State Fault Refusal :=
  run (Instr.wf (.handlePop core seq chain)) (Dev.handlePop core seq chain) s

/-- CORE_RESET (R22). -/
def execCoreReset (core : Nat) (s : State) : Host.Outcome State Fault Refusal :=
  run (Instr.wf (.coreReset core)) (Dev.coreReset core) s

/-- CORE_REMOVE (R15). -/
def execCoreRemove (core : Nat) (s : State) : Host.Outcome State Fault Refusal :=
  run (Instr.wf (.coreRemove core)) (Dev.coreRemove core) s

/-- CNT_CLR_STALL (R50). -/
def execCntClrStall (fn core : Nat) (s : State) : Host.Outcome State Fault Refusal :=
  run (Instr.wf (.cntClrStall fn core)) (Dev.cntClrStall fn core) s

/-- CNT_CLR_LAG (R50). -/
def execCntClrLag (fn core : Nat) (s : State) : Host.Outcome State Fault Refusal :=
  run (Instr.wf (.cntClrLag fn core)) (Dev.cntClrLag fn core) s

/-- CNT_CLR_WCET (R51). -/
def execCntClrWcet (fn core : Nat) (s : State) : Host.Outcome State Fault Refusal :=
  run (Instr.wf (.cntClrWcet fn core)) (Dev.cntClrWcet fn core) s

end Sys2Proof.Machine
end

