-- ==== Sys2Proof/Machine/Time.lean ====
section
/-! DEFINITION. The tick of the time base (R413, R417, R419). -/

namespace Sys2Proof.Machine

/-- One time-base cycle: TIME_NOW adds the rate; while time is to be absorbed it counts at half rate (R417, R419). -/
def TimeBase.tick (t : TimeBase) : TimeBase :=
  let half := t.rate / 2
  let back := min t.absorb (t.rate - half)
  { t with now := (t.now + (t.rate - back)) % 2 ^ 80, absorb := t.absorb - back }

/-- One time-base cycle of the device: the engine cycle moves on with it, and the bank accesses of the one before are past
(R30; log entry 68). Nothing else ticks after a thermal shutdown removes the domains: the time base is always on (R402). -/
def Dev.tick (d : Dev) : Dev := { d with time := d.time.tick, cycles := d.cycles + 1, banks := [] }

end Sys2Proof.Machine
end

