-- ==== Sys2Proof/Machine/Fabric.lean ====
section
/-! DEFINITION. Where this device stands in the fabric: coordinates, routes, flits sent; collective groups as the rest of the
device sees them (R274 to R283). -/

namespace Sys2Proof.Machine

/-! ### Coordinates and routes (R278, R279, R281) -/

/-- The fabric rank of this device. -/
def Dev.ownRank (d : Dev) : Nat := 256 * d.get F.fabTopo_row 0 + 16 * d.get F.fabTopo_cell 0 + d.get F.fabTopo_pos 0

/-- Row, cell and position of a fabric rank. -/
def rowOf (r : Nat) : Nat := r / 256 % 16
def cellOfRank (r : Nat) : Nat := r / 16 % 16
def posOf (r : Nat) : Nat := r % 16

/-- Row-level links between two cells: one when they differ in both halves of the cell number. -/
def cellHops (a b : Nat) : Nat := if a = b then 0 else if a / 4 ≠ b / 4 && a % 4 ≠ b % 4 then 1 else 2

/-- Hall-level links between two rows: one when they differ in one or three bits. -/
def rowHops (a b : Nat) : Nat :=
  if a = b then 0 else if [1, 2, 4, 8, 14, 13, 11, 7].contains ((a ^^^ b : Nat)) then 1 else 2

/-- Fewest links between two devices of the reference wiring. -/
def hopsTo (a b : Nat) : Nat :=
  (if posOf a = posOf b then 0 else 1) + cellHops (cellOfRank a) (cellOfRank b) + rowHops (rowOf a) (rowOf b)

/-- The state numbers of FAB_PORT_STAT. -/
def portDown : Nat := 0
def portTrain : Nat := 1
def portUp : Nat := 2
def portMiswired : Nat := 3

/-- Whether a port carries traffic. -/
def Dev.portIsUp (d : Dev) (p : Nat) : Bool := d.get F.fabPortStat_state p = portUp

/-- Whether a device lies in the system whose extent ENV TOPO gave (R278). -/
def Dev.inSystem (d : Dev) (dest : Nat) : Bool :=
  rowOf dest ≤ d.get F.fabTopo_nrow 0 && cellOfRank dest ≤ d.get F.fabTopo_ncell 0

/-- The port by which the route to a device leaves (R281): over UP ports to the peers that ENV TOPO named, the fewest links, at most 8, then
the lowest port number. Past the first link the reference wiring stands for what other devices have been told; its shortest way from
any device crosses each level at most twice, so that a route that rises and then falls takes it (log entry 75). -/
def Dev.routePort (d : Dev) (dest : Nat) : Option Nat :=
  if !d.inSystem dest then none else
  let ps := (List.range 32).filter fun p => d.portIsUp p && hopsTo (d.port p).topoRank dest < 8
  let best := ps.foldl (fun (m : Option Nat) p =>
    let h := hopsTo (d.port p).topoRank dest
    match m with
    | none => some h
    | some b => some (min b h)) none
  ps.find? fun p => some (hopsTo (d.port p).topoRank dest) = best

/-- The rank that the reference wiring joins to a port of a device (Table 13.2). -/
def wiredTo (rank p : Nat) : Nat :=
  let r := rowOf rank
  let c := cellOfRank rank
  let q := posOf rank
  let cell (j : Nat) : Nat := 256 * r + 16 * c + (q + j + 1) % 16
  let row (k : Nat) : Nat :=
    256 * r + 16 * (4 * ((c / 4 + 1 + k / 3) % 4) + (c % 4 + 1 + k % 3) % 4) + q
  let hall (m : Nat) : Nat := 256 * (r ^^^ [1, 2, 4, 8, 14, 13, 11, 7].getD m 0) + 16 * c + q
  if p < 8 then cell p else if p < 12 then row (p - 8) else if p < 16 then hall (p - 12)
  else if p < 23 then cell (p - 8) else if p < 28 then row (p - 19) else hall (p - 24)

/-- The next device on the route from a device: from this one by its own ports and the wiring it was given, from another by the reference
wiring, the fewest links and then the lowest port (log entry 75). -/
def Dev.nextHop (d : Dev) (a dest : Nat) : Nat :=
  if a = d.ownRank then ((d.routePort dest).map fun p => (d.port p).topoRank).getD dest else
    let near := ((List.range 32).map (wiredTo a)).filter d.inSystem
    (near.find? fun r => hopsTo r dest + 1 = hopsTo a dest).getD dest

/-- Whether this device stands on the way of a route, short of its end; `n` bounds the links. -/
def Dev.onRoute (d : Dev) (dest : Nat) : Nat → Nat → Bool
  | 0, _ => false
  | n + 1, a => if a = dest then false else if a = d.ownRank then true else d.onRoute dest n (d.nextHop a dest)

/-! ### Framing (R202, R274, R276, Tables 9.2 and 13.1) -/

/-- The class of a flit's meaning: 0 CTRL, 1 DMA, 2 COLL, 3 ACC (Table 13.1, R202). -/
def classOf (m : FlitMsg) : Nat :=
  match m with
  | .acc f => if f.kind = 2 then 0 else 3
  | .collUp .. => 2
  | .collDown .. => 2
  | .dmaWrite .. => 1
  | .dmaAck .. => 1
  | .prefillAsk .. => 1
  | .prefillNo .. => 1
  | .prefillStop .. => 1
  | .kvPage .. => 1
  | .kvAck .. => 1
  | .kvDone .. => 1
  | .join .. => 0
  | .abort .. => 0
  | .collDetach .. => 0
  | .beacon .. => 0
  | .replay _ => 0
  | .other => 0

/-- DIR: a collective's flits away from the roots. -/
def dirOf (m : FlitMsg) : Nat := match m with | .collDown .. => 1 | _ => 0

/-- GROUP: 0 but for collective, Accord and group control flits. -/
def groupField (m : FlitMsg) (g : Nat) : Nat :=
  if classOf m = 1 then 0 else match m with | .beacon .. => 0 | .replay _ => 0 | .other => 0 | _ => g

/-- The payload of an Accord flit: the header of Table 9.2, then its data. -/
def accBytes (f : AccFlit) : List Byte :=
  leBytes 1 f.kind ++ leBytes 1 f.group ++ leBytes 2 f.gset ++ leBytes 4 f.epoch ++ leBytes 2 f.shard ++ leBytes 2 f.len ++
  leBytes 4 f.offset ++ leBytes 2 f.srcRank ++ leBytes 14 0 ++ f.data.take 192 ++ List.replicate (192 - f.data.length) 0

/-- Read the payload of an Accord flit: DATA holds LEN bytes, END its 32. -/
def accOf (bs : List Byte) : AccFlit :=
  ⟨fieldAt bs 0 1, fieldAt bs 1 1, fieldAt bs 2 2, fieldAt bs 4 4, fieldAt bs 8 2, fieldAt bs 10 2, fieldAt bs 12 4, fieldAt bs 16 2,
   slice bs 32 (min 192 (fieldAt bs 10 2))⟩

/-- The 224 payload bytes of a message's flit. -/
def payloadBytes (m : FlitMsg) (part : Nat) : List Byte :=
  match m with
  | .acc f => accBytes f
  | _ => leBytes 224 (Sys2Proof.Config.flitPayload m part).toNat

/-- The framing before the tag: CLS, HOP and DIR, GROUP, DST, SEQ, ACK. -/
def framing (x : Egress) (seq ack : Nat) : List Byte :=
  leBytes 1 (x.cls + x.hop % 8 * 4 + x.dir * 32) ++ leBytes 1 x.group ++ leBytes 2 x.dst ++ leBytes 4 seq ++ leBytes 4 ack

/-- The 256 bytes of a flit: the payload encrypted, the framing, the tag and the CRC. -/
def Port.wire (y : Port) (x : Egress) : List Byte :=
  let frame := framing x y.txSeq ((y.rxSeq + 2 ^ 32 - 1) % 2 ^ 32)
  let sealed := (Sys2Proof.Config.gcmFlit (SMap.get y.keyIndex 0 0) (SMap.get y.keyCount 0 0) (payloadBytes x.msg (x.total - x.left) ++ frame)).toNat
  let body := leBytes 224 sealed ++ frame ++ leBytes 16 (sealed / 2 ^ 1792)
  body ++ leBytes 4 (crc32c body)

/-! ### The shared buffer pool (R209, R266 to R268, Table 12.4) -/

/-- Buffers of 4 KiB that some flits of one owner fill, 16 to a buffer (log entry 75). -/
def buffersFor (flits : Nat) : Nat := ceilDiv flits 16

/-- The buffers reserved to an owner; those shared. -/
def BufOwner.reserve : BufOwner → Nat
  | .ctrl _ => 2
  | .dmaIn _ _ => 1
  | .dmaOut _ => 64
  | .coll _ => 32
  | .acc _ => 14
def sharedBuffers : Nat := 13024

/-- A register field that 0 makes act as another value. -/
def orElse (v dflt : Nat) : Nat := if v = 0 then dflt else v

/-- The buffers that an owner may hold on an F-die. An Accord share has a cap of its own (R209). -/
def Dev.bufCap (d : Dev) (die : Nat) (o : BufOwner) : Nat :=
  match o with
  | .dmaOut _ => orElse (d.get F.poolCfg_dma_cap die) 8 * 256
  | .coll _ => orElse (d.get F.poolCfg_coll_cap die) 8 * 256
  | .acc _ => 16384
  | _ => o.reserve

/-- Every flit that waits to leave by some port. -/
def Dev.waiting (d : Dev) : List Egress := d.ports.flatMap fun e => e.2.egress

/-- The Accord flits that wait on an F-die to land (R204); a flit that several sets wait for is staged once. -/
def Dev.landing (d : Dev) (die : Nat) : List AccFlit :=
  (d.sets.flatMap fun e => (e.2.held.filter fun h => h.1 = die).map fun h => h.2).eraseDups

/-- The flits that an owner has staged on an F-die: those that wait to leave and, for Accord, those that wait to land. -/
def Dev.stagedFlits (d : Dev) (die : Nat) (o : BufOwner) : Nat :=
  ((d.waiting.filter fun x => x.die = die && x.owner = o).map (·.staged)).sum +
    match o with
    | .acc g => ((d.landing die).filter fun f => f.group = g).length
    | _ => 0

/-- The shared buffers of an F-die that are free. -/
def Dev.sharedFree (d : Dev) (die : Nat) : Nat :=
  let owners := (((d.waiting.filter fun x => 0 < x.staged && x.die = die).map fun x => x.owner) ++
    (d.landing die).map fun f => BufOwner.acc f.group).eraseDups
  sharedBuffers - (owners.map fun o => buffersFor (d.stagedFlits die o) - o.reserve).sum

/-- The further flits of an owner that find a buffer on an F-die: in its reservation, or within its cap in the shared part (R267). -/
def Dev.flitRoom (d : Dev) (die : Nat) (o : BufOwner) : Nat :=
  let n := d.stagedFlits die o
  let held := max o.reserve (buffersFor n)
  16 * max o.reserve (min (d.bufCap die o) (held + d.sharedFree die)) - n

/-- Whether some flits are paused: a share of their publish, or of their operation's receivers, stands at its cap (R210, R299). -/
def Dev.paused (d : Dev) (x : Egress) : Bool :=
  match x.msg with
  | .acc f => f.kind ≠ 2 && d.shares.any fun s => s.1 = f.group && s.2.1 = f.gset && s.2.2.1 = f.epoch
  | .collDown num .. => (d.group x.group).ops.any fun o => o.num = num && !o.caps.isEmpty
  | _ => false

/-- POOL_STAT of an F-die follows the buffers in use. -/
def Dev.countPool (d : Dev) (die : Nat) : Dev :=
  let free := d.sharedFree die
  if d.get F.poolStat_free die = free then d else
    (d.put F.poolStat_free die free).put F.poolStat_low die (min free (d.get F.poolStat_low die))

/-- A request that waits for a buffer is counted. -/
def Dev.countWait (d : Dev) (x : Egress) : Dev :=
  if x.cls = 1 then d.incSat F.poolWait_dma x.die else if x.cls = 2 then d.incSat F.poolWait_coll x.die else d

/-- Change the first waiting flits that a test accepts. -/
def modFirstFlit (p : Egress → Bool) (f : Egress → Egress) : List Egress → List Egress
  | [] => []
  | x :: xs => if p x then f x :: xs else x :: modFirstFlit p f xs

/-- Stage as many flits of an entry as find buffers. -/
def Dev.stageEntry (d : Dev) (p : Nat) (x : Egress) : Dev :=
  let n := if d.paused x then 0 else min (x.left - x.staged) (d.flitRoom x.die x.owner)
  if n = 0 then d else
    (d.modPort p fun y => { y with egress := modFirstFlit (· = x) (fun z => { z with staged := z.staged + n }) y.egress }).countPool x.die

/-- Flits join those that wait to leave by a port: staged as far as they find buffers; the rest wait for them. -/
def Dev.enqueue (d : Dev) (p : Nat) (x : Egress) : Dev :=
  let short : Bool := d.paused x || d.flitRoom x.die x.owner < x.left
  let d := (d.modPort p fun y => { y with egress := y.egress ++ [x] }).stageEntry p x
  if short then d.countWait x else d

/-- Stage what finds buffers by now, in order. -/
def Dev.stagePort (d : Dev) (p : Nat) : Dev := d.each (d.port p).egress fun x d => d.stageEntry p x

/-- Flits that a test accepts are discarded wherever they wait to leave, and their buffers are free. -/
def Dev.dropWaiting (d : Dev) (test : Nat → Egress → Bool) : Dev :=
  let hit := (List.range 32).filter fun p => (d.port p).egress.any (test p)
  let d := d.each hit fun p d => d.modPort p fun y => { y with egress := y.egress.filter fun x => !test p x }
  (hit.map (· / 16)).eraseDups |> d.each <| fun die d => d.countPool die

/-! ### Sending (R275 to R277, R300, R301) -/

/-- Data bytes in a flit's payload: 192, as an Accord flit lays it out. -/
def flitsFor (bytes : Nat) : Nat := max 1 (ceilDiv bytes 192)

/-- The buffers that stage a message which starts on this device. -/
def ownerOf (m : FlitMsg) (p g : Nat) : BufOwner :=
  if classOf m = 0 then .ctrl p else if classOf m = 1 then .dmaOut 0 else if classOf m = 2 then .coll g else .acc g

/-- The flits of a message, before they are staged. -/
def flitsOf (p dst group : Nat) (msg : FlitMsg) (bytes : Nat) : Egress :=
  { cls := classOf msg, group := groupField msg group, dst := dst, dir := dirOf msg, hop := 0, left := flitsFor bytes, total := flitsFor bytes,
    msg := msg, owner := ownerOf msg p group, die := p / 16, staged := 0, job := none }

/-- Send a message of some data bytes to a device by its route; nothing is sent where there is none. -/
def Dev.sendTo (d : Dev) (rank group : Nat) (msg : FlitMsg) (bytes : Nat) : Bool × Dev :=
  match d.routePort rank with
  | some p => (true, d.enqueue p (flitsOf p rank group msg bytes))
  | none => (false, d)

/-- Send, whether or not there is a route. -/
def Dev.send (d : Dev) (rank group : Nat) (msg : FlitMsg) (bytes : Nat) : Dev := (d.sendTo rank group msg bytes).2

/-- Send a message to several devices of a group along its tree: it crosses each port once, and is copied where the routes part (R292).
Nothing leaves by a port that is cut from it. -/
def Dev.sendTree (d : Dev) (dests : List Nat) (g : Nat) (msg : FlitMsg) (bytes : Nat) (cut : List Nat) : Dev :=
  let ports := ((dests.filter (· ≠ d.ownRank)).filterMap d.routePort).eraseDups.filter fun p => !cut.contains p
  d.each ports fun p d => d.enqueue p (flitsOf p 0xFFFF g msg bytes)

/-- Send a control flit to the far end of a port that is UP. -/
def Dev.sendCtrl (d : Dev) (p : Nat) (msg : FlitMsg) : Dev :=
  if d.portIsUp p then d.enqueue p (flitsOf p (d.port p).topoRank 0 msg 0) else d

/-- The flow of some flits: 0 link control, 1 DMA, then each group's collectives and Accord traffic. -/
def Egress.flow (x : Egress) : Nat := if x.cls < 2 then x.cls else 2 * x.group + x.cls

/-- The flits of a round that a flow may send (R277). -/
def Dev.flowWeight (d : Dev) (p flow : Nat) : Nat :=
  if flow = 1 then orElse (d.get F.fabPortCfg_dma_w p) 1 else orElse (d.get F.fabGrpCtl_weight ((flow - 2) / 2)) 1

/-- The first staged flits of a flow, where they can leave now: the far end grants credit (R268), and no recalibration holds their class
(R300). -/
def Dev.flowHead (d : Dev) (p flow : Nat) : Option Egress :=
  match (d.port p).egress.find? fun x => x.flow = flow && 0 < x.staged with
  | some x =>
    if Sys2Proof.Config.linkCredit p flow d.cycles && !((d.port p).recal && (x.cls = 1 || x.cls = 3)) then some x else none
  | none => none

/-- Whether a message is a time beacon. -/
def isBeacon (m : FlitMsg) : Bool := match m with | .beacon .. => true | _ => false

/-- What leaves next by a port (R277, R301): a beacon, another control flit, or the head of the flow whose turn it is. -/
def Dev.nextFlit (d : Dev) (p : Nat) : Option Egress :=
  match (d.port p).egress.find? (fun x => 0 < x.staged && isBeacon x.msg), d.flowHead p 0 with
  | some x, _ => some x
  | none, some x => some x
  | none, none =>
    let (now, sent) := (d.port p).turn
    let others := ((List.range 129).map (· + 1)).filter fun f => f ≠ now
    let order := (if sent < d.flowWeight p now then [now] else []) ++ others.filter (now < ·) ++ others.filter (· < now) ++ [now]
    (order.filter (1 ≤ ·)).findSome? (d.flowHead p)

/-- One flit leaves by a port: its bytes under the port's key, its place in the replay buffer, TX, and its flow's turn. -/
def Dev.sendFlit (d : Dev) (p : Nat) (x : Egress) : Dev :=
  let y := d.port p
  let bytes := y.wire x
  let turn := if x.cls = 0 then y.turn else if y.turn.1 = x.flow && y.turn.2 < d.flowWeight p x.flow then (x.flow, y.turn.2 + 1) else (x.flow, 1)
  let rest := if x.left ≤ 1 then y.egress.erase x else modFirstFlit (· = x) (fun z => { z with left := z.left - 1, staged := z.staged - 1 }) y.egress
  let d := d.setPort p
    { y with txSeq := (y.txSeq + 1) % 2 ^ 32, replay := y.replay ++ [⟨y.txSeq, bytes, x.msg⟩],
             keyCount := SMap.set y.keyCount 0 (SMap.get y.keyCount 0 0 + 1), egress := rest, turn := turn }
  ((d.incMod F.fabPortFlits_tx p).emit (.flit p bytes x.msg)).countPool x.die

/-- A port that is UP sends one flit of 256 bytes every 4, 8 or 16 ns by its width (R272), while its replay buffer of 1,024 flits has room
(R275). -/
def Dev.drainPort (d : Dev) (p : Nat) : Dev :=
  if (d.port p).egress.isEmpty then d else
    let d := d.stagePort p
    if d.portIsUp p && d.cycles % (4 * 2 ^ d.get F.fabPortStat_width p) = 0 && (d.port p).replay.length < 1024 then
      match d.nextFlit p with
      | some x => d.sendFlit p x
      | none => d
    else d

/-! ### Groups (R283) -/

/-- Whether a context holds a collective group on this device. -/
def Dev.inGroup (d : Dev) (c g : Nat) : Bool := g < 64 && d.flag F.fabGrpCfg_valid g && d.get F.fabGrpCfg_ctx g = c

/-- The fabric rank and the context of a logical rank of a group. -/
def Dev.member (d : Dev) (g rank : Nat) : Option (Nat × Nat) := (d.group g).members[rank]?

/-- The number of members of a group, and this device's logical rank in it. -/
def Dev.groupSize (d : Dev) (g : Nat) : Nat := (d.group g).members.length
def Dev.groupRank (d : Dev) (g : Nat) : Nat := d.get F.fabGrpCfg_rank g

/-- The logical rank of a device in a member table. -/
def rankIn (ms : List (Nat × Nat)) (dev : Nat) : Option Nat := ms.findIdx? fun m => m.1 = dev

/-- The members whose routes from a source pass through this device: it copies the source's flits to them (R292). Of a group to which the
device does not belong it knows the members from what passes (log entry 75). -/
def Dev.beyond (d : Dev) (g src : Nat) : List Nat :=
  let ms := if (d.group g).members.isEmpty then Sys2Proof.Config.transitMembers g else (d.group g).members.map (·.1)
  ms.filter fun r => r ≠ d.ownRank && r ≠ src && d.onRoute r 8 src

/-- The other members' fabric ranks. -/
def Dev.peersOf (d : Dev) (g : Nat) : List Nat := ((d.group g).members.map (·.1)).filter fun r => r ≠ d.ownRank

end Sys2Proof.Machine
end

