-- ==== Sys2Proof/Machine/Flags.lean ====
section
/-! DEFINITION. The flags that arithmetic raises: OVF of a core and CTX_NUM_STAT (R65, R83). -/

namespace Sys2Proof.Machine

/-- A learning clause raises its core's overflow flag; a generation clause never does (R83). -/
def Dev.raiseOvf (d : Dev) (c core : Nat) (learning : Bool) : Dev :=
  if learning then (d.modCore core fun x => { x with ovf := true }).put F.ctxNumStat_ovf c 1 else d

/-- An FP32 result that is infinite or NaN (R83). -/
def Dev.flagResults (d : Dev) (c core : Nat) (learning : Bool) (ws : List W32) : Dev :=
  if ws.any fbad then d.raiseOvf c core learning else d

/-- The flags of a conversion: SAT, NAN_CVT, and OVF for a bad input or, under SAT_OVF, a saturation (R65, R83). -/
def Dev.flagConv (d : Dev) (c core : Nat) (learning satOvf sat badIn : Bool) : Dev :=
  let d := if sat then d.put F.ctxNumStat_sat c 1 else d
  let d := if badIn then d.put F.ctxNumStat_nan_cvt c 1 else d
  if badIn || (sat && satOvf) then d.raiseOvf c core learning else d

end Sys2Proof.Machine
end

