-- ==== Sys2Proof/Machine/Tiers.lean ====
section
/-! DEFINITION. The tiers' commands: MIGRATE, the movers, scrub, quotas, the probe (R227 to R247). -/

namespace Sys2Proof.Machine

/-! ### Rights (R58) -/

/-- Whether a function's write to the registers of a context takes effect: its tenant owns the context. -/
def Dev.ctxWritable (d : Dev) (fn c : Nat) : Bool := d.served && d.flag F.ctxCfg_valid c && d.tenantOf c = fn

/-- The same where the chapter gives tenant 0 every context. -/
def Dev.ctxWritable0 (d : Dev) (fn c : Nat) : Bool := d.served && d.flag F.ctxCfg_valid c && (d.tenantOf c = fn || fn = 0)

/-! ### MIGRATE (R235, R236) -/

/-- The fields of a MIGRATE descriptor (Table 11.4). -/
structure Migrate where
  tier : Nat
  fallback : Bool
  lazy : Bool
  w : Bool
  comp : Bool
  gran : Nat
  va : Nat
  len : Nat
  deriving DecidableEq, Repr

/-- Read the fields. -/
def Migrate.of (bs : List Byte) : Migrate :=
  let f := fieldAt bs 17 1
  ⟨bitsOf f 0 2, bitOf f 2, bitOf f 3, bitOf f 4, bitOf f 5, fieldAt bs 18 1, fieldAt bs 24 8, fieldAt bs 32 8⟩

/-- The level of the leaves that GRAN names. -/
def Migrate.level (m : Migrate) : Nat := 3 - m.gran

/-- First granule and number of granules of 16 KiB. -/
def Migrate.g0 (m : Migrate) : Nat := m.va / pageBytes
def Migrate.gn (m : Migrate) : Nat := m.len / pageBytes

/-- The form of a MIGRATE (Table 11.5, INTERNAL). -/
def migrateForm (bs : List Byte) (isMap : Bool) : Bool :=
  let m := Migrate.of bs
  let size := leafFrames m.level * pageBytes
  m.tier < 3 && fieldAt bs 17 1 < 64 && m.gran < 3 && (isMap || (!m.lazy && !m.w && !m.comp && m.gran = 0)) &&
    allZero (slice bs 19 5) && allZero (slice bs 40 24) && m.va % size = 0 && 0 < m.len && m.len % size = 0

/-- Whether a MOVE in progress holds part of a range of granules: a later operation on it waits (R238). -/
def Dev.moveHolds (d : Dev) (c g n : Nat) : Bool := (d.ctx c).moves.any fun m => m.start < g + n && g < m.start + m.grans

/-- Whether every granule of a range is mapped. -/
def Dev.allMapped (d : Dev) (c g n : Nat) : Bool := d.mapped c (g * pageBytes) (n * pageBytes)

/-- Whether some leaf that a range meets lies in it only in part. -/
def cutsLeaf (ls : List (Nat × Leaf)) (g n : Nat) : Bool :=
  ls.any fun e => e.1 < g || g + n < e.1 + leafFrames e.2.level

/-- With no package, an operation that names the heart note ends with QUOTA (R251). -/
def Dev.noHeart (d : Dev) (tier : Nat) : Bool := tier = 1 && heartFrames d.cfg = 0

/-- Whether a MIGRATE that the device took before this one, on whatever queue of the context, stands untried on a range that overlaps
(R238). -/
def Dev.migrateAhead (d : Dev) (c q i : Nat) (m : Migrate) : Bool :=
  match d.desc q i with
  | some me => (d.queuesOf c).any fun p => (d.queue p).descs.any fun x =>
      let y := Migrate.of x.bytes
      x.ord < me.ord && !x.accepted && fieldAt x.bytes 0 1 = 7 && migrateForm x.bytes (fieldAt x.bytes 16 1 = 0) &&
        y.va < m.va + m.len && m.va < y.va + y.len
  | none => false

/-- Run a MIGRATE operation after the checks common to all four: form, overlap with an earlier one. -/
def Dev.withMigrate (d : Dev) (q i op : Nat) (f : Nat → Waiter → Migrate → Dev → Dev) : Dev :=
  d.withDesc q i 7 op fun c w bs d =>
    let m := Migrate.of bs
    if !migrateForm bs (op = 0) then d.complete w Status.internal 0
    else if d.moveHolds c m.g0 m.gn || d.migrateAhead c q i m then d
    else if op ≠ 0 && !d.allMapped c m.g0 m.gn then d.complete w Status.pageFault 0
    else if op ≠ 0 && cutsLeaf ((d.ctx c).leavesIn m.g0 m.gn) m.g0 m.gn then d.complete w Status.integrity 0
    else f c w m d

/-! ### MAP, UNMAP, HINT -/

/-- The unallocated leaf that a MAP makes. -/
def Migrate.leaf (m : Migrate) : Leaf :=
  { level := m.level, tier := m.tier, w := m.w, comp := m.comp, poison := false, moving := false, alloc := false,
    fallback := m.fallback, pref := m.tier, frame := 0, kind := .map }

/-- The granules at which the leaves of a MAP start. -/
def Migrate.starts (m : Migrate) : List Nat :=
  (List.range (m.gn / leafFrames m.level)).map fun i => m.g0 + i * leafFrames m.level

/-- Allocate the frames of new leaves at once: how many lie below the PREF tier, or none when one finds no tier. -/
def Dev.touchAll (d : Dev) (c : Nat) (l : Leaf) : List Nat → Nat → Option Nat × Dev
  | [], n => (some n, d)
  | k :: ks, n =>
    match d.firstTouch c k l with
    | (true, d) =>
      let below := match SMap.find (d.ctx c).leaves k with
        | some x => if x.tier = l.pref then 0 else 1
        | none => 0
      d.touchAll c l ks (n + below)
    | (false, d) => (none, d)

/-- A refusal for room changes nothing but TIER_STAT.FULL, when a frame was missing within the limit (R244). -/
def Dev.refuseQuota (d tried : Dev) (w : Waiter) : Dev :=
  (d.put F.tierStat_full 0 (max (d.get F.tierStat_full 0) (tried.get F.tierStat_full 0))).complete w Status.quota 0

/-- MAP creates leaves; without LAZY it allocates their frames at once (R235). -/
def Dev.map (q i : Nat) (d : Dev) : Dev :=
  d.withMigrate q i 0 fun c w m d =>
    if 2 ^ 50 < m.va + m.len || (d.ctx c).anyLeaf m.g0 m.gn || d.deviceMeets c m.va m.len then
      d.complete w Status.pageFault 0
    else
      let ls := m.starts.foldl (fun ls k => SMap.set ls k m.leaf) (d.ctx c).leaves
      if m.lazy then
        if d.noHeart m.tier then d.complete w Status.quota 0
        else (d.setLeaves c ls).complete w Status.ok m.starts.length
      else if d.noHeart m.tier then d.complete w Status.quota 0
      else if !d.tablesFit c ls 0 then (d.noteFull (d.tablesStarved c ls 0)).complete w Status.quota 0
      else
        match (d.setLeaves c ls).touchAll c m.leaf m.starts 0 with
        | (some below, d) => d.complete w Status.ok (m.starts.length + below * 2 ^ 32)
        | (none, tried) => d.refuseQuota tried w

/-- UNMAP frees the frames and removes the leaves of a range that the device did not map itself. -/
def Dev.unmap (q i : Nat) (d : Dev) : Dev :=
  d.withMigrate q i 1 fun c w m d =>
    let ls := (d.ctx c).leavesIn m.g0 m.gn
    if d.deviceMeets c m.va m.len || ls.any (fun e => e.2.kind ≠ .map) then d.complete w Status.integrity 0
    else (d.dropLeaves c (ls.map (·.1))).complete w Status.ok ls.length

/-- HINT rewrites PREF and FALLBACK in every leaf of the range; an Accord bank is named by no MIGRATE (R195). -/
def Dev.hint (q i : Nat) (d : Dev) : Dev :=
  d.withMigrate q i 3 fun c w m d =>
    let ls := (d.ctx c).leavesIn m.g0 m.gn
    if ls.any fun e => e.2.kind = .accord then d.complete w Status.integrity 0
    else if d.noHeart m.tier then d.complete w Status.quota 0
    else
      (d.each ls fun e d => d.setLeaf c e.1 { e.2 with pref := m.tier, fallback := m.fallback }).complete w Status.ok ls.length

/-! ### MOVE: reservation (R237, R241, R242) -/

/-- Reserve a place for one granule in the first of some tiers that takes it: the tier and frame. A granule that lies
there already keeps its place. -/
def Dev.reserve (d : Dev) (c : Nat) (l : Leaf) (dest : Nat) : List Nat → Option (Nat × Nat) × Dev
  | [] => (none, d)
  | t :: ts =>
    let n := leafFrames l.level
    if t = l.tier then (some (t, l.frame), d)
    else if l.kind = .kv && t = 2 && t ≠ dest then d.reserve c l dest ts
    else if l.kind = .kv && t = 0 then
      match (if d.get F.kvPool_free c = 0 then none else d.findRun 0 1) with
      | some f => (some (0, f), ((d.takeFrames 0 f 1).modCtx c fun x => { x with kvUsed := x.kvUsed + 1 }).kvCount c)
      | none => d.reserve c l dest ts
    else if !d.quotaOk c t (n * pageBytes) then d.reserve c l dest ts
    else
      match d.allocFrames t n with
      | (some f, d) => (some (t, f), d.charge c t (n * pageBytes))
      | (none, d) => d.reserve c l dest ts

/-- Release a reservation that was not used. -/
def Dev.unreserve (d : Dev) (c : Nat) (l : Leaf) (t f : Nat) : Dev :=
  if t = l.tier && f = l.frame then d
  else if l.kind = .kv && t = 0 then
    ((d.giveFrames 0 f).modCtx c fun x => { x with kvUsed := x.kvUsed - 1 }).kvCount c
  else (d.giveFrames t f).uncharge c t (leafFrames l.level * pageBytes)

/-- Reserve a place for every allocated leaf, ascending; `none` when one finds none. -/
def Dev.reserveAll (d : Dev) (c dest : Nat) (tops : List Nat) :
    List (Nat × Leaf) → List (Nat × Nat × Nat) → Option (List (Nat × Nat × Nat)) × Dev
  | [], acc => (some acc, d)
  | (k, l) :: ls, acc =>
    if !l.alloc then d.reserveAll c dest tops ls acc else
      match d.reserve c l dest tops with
      | (some (t, f), d) => d.reserveAll c dest tops ls (acc ++ [(k, t, f)])
      | (none, d) => (none, d)

/-- Release what a MOVE still holds. -/
def Dev.releaseMove (d : Dev) (c : Nat) (m : Move) : Dev :=
  d.each m.left fun e d =>
    match SMap.find (d.ctx c).leaves e.1 with
    | some l => d.unreserve c l e.2.1 e.2.2
    | none => d

/-- Take a MOVE out of its context. -/
def Dev.dropMove (d : Dev) (c id : Nat) : Dev := d.modCtx c fun x => { x with moves := x.moves.filter fun m => m.id ≠ id }

/-! ### MOVE: the end -/

/-- The result word of an EVICT (Table 5.8). -/
def evictWord (pages groups top : Nat) : Nat := pages + groups * 2 ^ 32 + top * 2 ^ 48

/-- Every granule of a MOVE stands in its place. A descriptor's MOVE and an EVICT's complete; a pause's and a resume's
wait for their own events (R104, R105). -/
def Dev.endMove (d : Dev) (c : Nat) (m : Move) : Dev :=
  match m.owner with
  | .desc w => (d.dropMove c m.id).complete w Status.ok (m.moved + m.below * 2 ^ 32)
  | .evict w _ pages groups top =>
    ((d.dropMove c m.id).incSat F.kvEvictStat_moved c pages).complete w Status.ok (evictWord pages groups top)
  | .pause _ => d
  | .resume _ => d

/-- Granules that lie in their place already count as moved. -/
def Dev.skipMove (d : Dev) (c : Nat) (m : Move) : Nat → Move
  | 0 => m
  | n + 1 =>
    match m.left with
    | (k, t, f) :: rest =>
      match SMap.find (d.ctx c).leaves k with
      | some l =>
        if t = l.tier && f = l.frame then
          d.skipMove c { m with left := rest, moved := m.moved + 1, below := m.below + if t = m.dest then 0 else 1 } n
        else m
      | none => d.skipMove c { m with left := rest } n
    | [] => m

/-- Pass over the granules that need no copy, and end the MOVE when none is left. -/
def Dev.turnMove (d : Dev) (c : Nat) (m : Move) : Dev :=
  let m := d.skipMove c m m.left.length
  let d := d.modCtx c fun x => { x with moves := x.moves.map fun y => if y.id = m.id then m else y }
  if m.left.isEmpty then d.endMove c m else d

/-- Start a MOVE whose places are reserved. -/
def Dev.startMove (d : Dev) (c : Nat) (owner : MoveOwner) (g n dest : Nat) (left : List (Nat × Nat × Nat)) : Dev :=
  let m : Move := ⟨(d.ctx c).nextId, owner, d.ns, g, n, dest, left, 0, 0⟩
  (d.modCtx c fun x => { x with moves := x.moves ++ [m], nextId := x.nextId + 1 }).turnMove c m

/-- A MOVE of the whole range of a ring makes its destination the ring's tier (R135). -/
def Dev.retierRings (d : Dev) (c va len dest : Nat) : Dev :=
  d.each ((List.range 1024).filter fun r =>
      d.ringOf c r && va ≤ (d.ringSpan r).1 && (d.ringSpan r).1 + (d.ringSpan r).2 ≤ va + len)
    fun r d => d.put F.silRingCfg_tier r dest

/-- MOVE: refused, or its places reserved for the whole range and the copy begun (R236, R237). -/
def Dev.move (q i : Nat) (d : Dev) : Dev :=
  d.withMigrate q i 2 fun c w m d =>
    let ls := (d.ctx c).leavesIn m.g0 m.gn
    let kv := ls.any (fun e => e.2.kind = .kv) || (d.ctx c).rollouts.any fun r => r.holdsSlot &&
      ([d.kvBase c false r.slot, d.kvBase c true r.slot].any (fun b => b < m.va + m.len && m.va < b + 2 ^ 30) ||
        (d.kvHeader c false r.slot 0 < m.va + m.len && m.va < d.kvHeader c false r.slot 0 + 2 ^ 23))
    if ls.any (fun e => e.2.kind = .accord || e.2.kind = .area) || (kv && m.tier = 2) then d.complete w Status.integrity 0
    else if d.noHeart m.tier then d.complete w Status.quota 0
    else
      let tops := if m.fallback then (List.range (3 - m.tier)).map (m.tier + ·) else [m.tier]
      match d.reserveAll c m.tier tops ls [] with
      | (some left, d) => ((d.accept w).retierRings c m.va m.len m.tier).startMove c (.desc w) m.g0 m.gn m.tier left
      | (none, tried) => d.refuseQuota tried w

/-! ### MOVE: one granule (R237, R239) -/

/-- Bytes of live records that lie in granule `g` of a ring's range; records stand back to back, modulo the range. -/
def Ring.bytesIn (x : Ring) (grans g : Nat) : Nat :=
  (x.live.map fun r =>
    ((List.range ((r.off + r.len + pageBytes - 1) / pageBytes - r.off / pageBytes)).map fun j =>
      let p := r.off / pageBytes + j
      if p % max 1 grans = g then min (r.off + r.len) ((p + 1) * pageBytes) - max r.off (p * pageBytes) else 0).sum).sum

/-- Bytes of records in the granule of a ring that stands at a place of a context. -/
def Dev.ringBytes (d : Dev) (c k : Nat) : Nat :=
  match d.ringPlace c (k * pageBytes) with
  | some r => (d.ring r).bytesIn ((d.ringSpan r).2 / pageBytes) (k - (d.ringSpan r).1 / pageBytes)
  | none => 0

/-- Copy the frames of a granule; the metadata of compressed frames follows the data (R246). -/
def Dev.copyFrames (d : Dev) (tenant t f t' f' n : Nat) (comp : Bool) : Dev :=
  d.each (List.range n) fun i d =>
    let (bs, d) := d.physRead tenant t ((f + i) * pageBytes) pageBytes
    let d := d.physWrite tenant t' ((f' + i) * pageBytes) bs
    if t' = 0 || !comp then d else d.recode t' (f' + i) 0 pageBytes

/-- The page header of a KV page names the tier that holds the page (Table 5.3). -/
def Dev.headerTier (d : Dev) (c k tier : Nat) : Dev :=
  match d.kvPlace c (k * pageBytes) with
  | some (.data seq pre page) =>
    match d.rollout c seq with
    | some r =>
      let h := d.kvHeader c pre r.slot page
      let (bs, d) := d.peekVa c none h 1
      d.pokeVa c h (leBytes 1 (setBits (leNat bs) 4 2 tier))
    | none => d
  | _ => d

/-- Switch a granule's leaf to its new place and free the source. -/
def Dev.switchLeaf (d : Dev) (c k : Nat) (l : Leaf) (t f : Nat) : Dev :=
  let n := leafFrames l.level
  let d := d.copyFrames (d.tenantOf c) l.tier l.frame t f n l.comp
  let d := d.setLeaf c k { l with tier := t, frame := f }
  let d := d.dropFrames c l
  if l.kind = .ring then
    let b := d.ringBytes c k
    ((d.uncharge c t (n * pageBytes)).uncharge c l.tier b).charge c t b
  else if l.kind = .kv then d.headerTier c k t
  else d

/-- A MOVE stops at a granule: the rest stays where it is, and its reservations are released (R239). A pause's rollout
runs on; a resume's stays paused. DESIGN CHOICE (log entry 73): an EVICT whose move stops short has the result word 0 and counts the
granules that moved; R131 does not say. -/
def Dev.stopMove (d : Dev) (c : Nat) (m : Move) (status : Nat) : Dev :=
  let d := (d.releaseMove c m).dropMove c m.id
  match m.owner with
  | .desc w => d.complete w status (m.moved + m.below * 2 ^ 32)
  | .evict w .. => (d.incSat F.kvEvictStat_moved c m.moved).complete w status 0
  | .pause seq =>
    match d.rollout c seq with
    | some r =>
      let d := d.modRollout c seq fun r => { r with st := .running, pausing := none, resumes := [] }
      let d := d.dec F.genStat_paused c
      let d := match r.pausing with | some (w, _) => d.complete w status 0 | none => d
      d.each r.resumes fun w d => d.complete w Status.ok (2 ^ 64 - 1)
    | none => d
  | .resume seq =>
    match d.rollout c seq with
    | some r =>
      let d := d.modRollout c seq fun r => { r with st := .paused, resumes := [] }
      let d := d.incMod F.genStat_paused c
      d.each r.resumes fun w d => d.complete w status 0
    | none => d

/-- What copying the first granule of a MOVE meets: the status that stops it, if any. In `rsp`, the granule's own address
names the source's request, any other address in it the destination's. -/
def Dev.moveMeets (d : Dev) (c k : Nat) (l : Leaf) (t f : Nat) (rsp : TierRsp) : Option Nat × Dev :=
  let size := leafFrames l.level * pageBytes
  let mine := rsp.filter fun r => k * pageBytes ≤ r.1 && r.1 < k * pageBytes + size
  let src := (mine.find? fun r => r.1 % pageBytes = 0).map (·.2)
  let dst := (mine.find? fun r => r.1 % pageBytes ≠ 0).map (·.2)
  if l.poison || ((l.tier = 2 || t = 2) && d.detached) then (some Status.tierError, d.countFail c Status.tierError)
  else if src = some true && l.tier ≠ 0 || dst = some true && t ≠ 0 then
    (some Status.tierTimeout, d.countFail c Status.tierTimeout)
  else if src = some false then (some Status.tierError, (d.poisonGranule c k).countFail c Status.tierError)
  else if dst = some false then (some Status.tierError, (d.retire t f).countFail c Status.tierError)
  else (none, d)

/-- MOVE_GRANULE: the next granule of a MOVE is copied and its leaf switched, or the MOVE stops. -/
def Dev.moveGranule (c id : Nat) (rsp : TierRsp) (d : Dev) : Dev :=
  match (d.ctx c).moves.find? fun m => m.id = id with
  | none => d
  | some m =>
    match m.left with
    | [] => d
    | (k, t, f) :: rest =>
      match SMap.find (d.ctx c).leaves k with
      | none => d.turnMove c m
      | some l =>
        if d.working c then
          match d.moveMeets c k l t f rsp with
          | (some st, d) => d.stopMove c m st
          | (none, d) =>
            (d.switchLeaf c k l t f).turnMove c
              { m with left := rest, moved := m.moved + 1, below := m.below + if t = m.dest then 0 else 1 }
        else d

/-! ### Scrub (R247, Table 11.7) -/

/-- The leaf, of any context, that maps a frame of a tier. -/
def Dev.leafOf (d : Dev) (tier f : Nat) : Option (Nat × Nat) :=
  d.ctxs.findSome? fun e =>
    (e.2.leaves.find? fun x =>
      let (t, a) := d.placeOf none x.1 x.2 (x.1 * pageBytes)
      x.2.alloc && t = tier && a / pageBytes ≤ f && f < a / pageBytes + leafFrames x.2.level).map fun x => (e.1, x.1)

/-- PATROL_SCRUB: lines read and corrected; an uncorrectable error poisons the leaf and retires the frame. The base note's
memory device scrubs itself, and an absent heart note is not scrubbed (R251). -/
def Dev.patrolScrub (tier frame corrected : Nat) (uncorrectable passEnd : Bool) (d : Dev) : Dev :=
  if 2 ≤ tier || (tier = 1 && heartFrames d.cfg = 0) then d else
    let d := d.incSat F.tierStat_corrected 0 corrected
    let d :=
      if uncorrectable then
        let d := match d.leafOf tier frame with
          | some (c, k) =>
            match SMap.find (d.ctx c).leaves k with
            | some l => d.setLeaf c k { l with poison := true }
            | none => d
          | none => d
        d.retire tier frame
      else d
    if passEnd then d.incMod (if tier = 0 then F.tierScrub_top_passes else F.tierScrub_heart_passes) 0 else d

/-! ### Quotas (R243) -/

/-- The sum of the limits of a tier over the contexts that are not FREE, but for one. -/
def Dev.limits (d : Dev) (tier : Nat) (but : Option Nat) : Nat :=
  (List.range 256).foldl (fun n c => if d.ctxState c = CtxSt.free || but = some c then n else n + d.get F.tierQuota_limit c tier) 0

/-- Bring TIER_CAP.ASSIGNED of every tier to the limits. -/
def Dev.countAssigned (d : Dev) : Dev := d.each [0, 1, 2] fun t d => d.put F.tierCap_assigned 0 (d.limits t none) t

/-- TIER_QUOTA_WRITE by tenant 0: ignored, with QWR_REJ set, when the limits would pass the tier's capacity. -/
def Dev.tierQuotaWrite (fn c tier limit : Nat) (d : Dev) : Dev :=
  if d.served && fn = 0 && d.flag F.ctxCfg_valid c then
    if d.get F.tierCap_frames 0 tier < d.limits tier (some c) + limit then d.put F.tierStat_qwr_rej 0 1
    else (d.put F.tierQuota_limit c limit tier).countAssigned
  else d

/-- Firmware's default limits at creation and at a context reset, each lowered to what fits, in tier order. -/
def Dev.defaultLimits (d : Dev) (c : Nat) : Dev :=
  (d.each [0, 1, 2] fun t d =>
    let want := if t = 0 then d.cfg.defQuota0 else if t = 1 then d.cfg.defQuota1 else d.cfg.defQuota2
    let room := d.get F.tierCap_frames 0 t - d.limits t (some c)
    let d := if room < want then d.put F.tierStat_qwr_rej 0 1 else d
    d.put F.tierQuota_limit c (min want room) t).countAssigned

/-! ### The probe (R231) -/

/-- A leaf as Table 11.3 lays it out, with its level in bits [13:12]. -/
def Dev.leafWord (d : Dev) (k : Nat) (l : Leaf) : Nat :=
  let b (x : Bool) (i : Nat) : Nat := if x then 2 ^ i else 0
  let (t, a) := d.placeOf none k l (k * pageBytes)
  3 + t * 4 + b l.w 4 + b l.comp 5 + b l.poison 6 + b l.moving 7 + b l.alloc 8 + b l.fallback 9 + l.pref * 2 ^ 10 +
    l.level * 2 ^ 12 + (if l.alloc then a % 2 ^ 48 / pageBytes * 2 ^ 14 else 0)

/-- TIER_PROBE: the leaf at an address goes to TIER_PROBE_RES. -/
def Dev.tierProbe (fn c va : Nat) (d : Dev) : Dev :=
  if d.ctxWritable0 fn c then
    d.setReg .tierProbeRes c (match (d.ctx c).leafAt (va / pageBytes) with
      | some (k, l) => d.leafWord k l
      | none => 0)
  else d

/-! ### The commands -/

/-- MAP (R235). -/
def execMap (q i : Nat) (s : State) : Host.Outcome State Fault Refusal :=
  run (Instr.wf (.map q i)) (Dev.map q i) s

/-- UNMAP (R235). -/
def execUnmap (q i : Nat) (s : State) : Host.Outcome State Fault Refusal :=
  run (Instr.wf (.unmap q i)) (Dev.unmap q i) s

/-- MOVE (R237). -/
def execMove (q i : Nat) (s : State) : Host.Outcome State Fault Refusal :=
  run (Instr.wf (.move q i)) (Dev.move q i) s

/-- HINT (R235). -/
def execHint (q i : Nat) (s : State) : Host.Outcome State Fault Refusal :=
  run (Instr.wf (.hint q i)) (Dev.hint q i) s

/-- MOVE_GRANULE (R237). -/
def execMoveGranule (ctx id : Nat) (rsp : TierRsp) (s : State) : Host.Outcome State Fault Refusal :=
  run (Instr.wf (.moveGranule ctx id rsp)) (Dev.moveGranule ctx id rsp) s

/-- PATROL_SCRUB (R247). -/
def execPatrolScrub (tier frame corrected : Nat) (uncorrectable passEnd : Bool) (s : State) : Host.Outcome State Fault Refusal :=
  run (Instr.wf (.patrolScrub tier frame corrected uncorrectable passEnd)) (Dev.patrolScrub tier frame corrected uncorrectable passEnd) s

/-- TIER_QUOTA_WRITE (R243). -/
def execTierQuotaWrite (fn ctx tier limit : Nat) (s : State) : Host.Outcome State Fault Refusal :=
  run (Instr.wf (.tierQuotaWrite fn ctx tier limit)) (Dev.tierQuotaWrite fn ctx tier limit) s

/-- TIER_PROBE (R231). -/
def execTierProbe (fn ctx va : Nat) (s : State) : Host.Outcome State Fault Refusal :=
  run (Instr.wf (.tierProbe fn ctx va)) (Dev.tierProbe fn ctx va) s

end Sys2Proof.Machine
end

