-- ==== Sys2Proof/Machine/Dma.lean ====
section
/-! DEFINITION. Transfers: channels, the particle path, remote writes, the DMA command, failed lower-tier requests (R159,
R249, R250, R253 to R265). -/

namespace Sys2Proof.Machine

/-! ### Transfer records (R254 to R256, R159, R261) -/

/-- The fields of a transfer record (Table 12.1). -/
structure XRec where
  trans : Bool
  remote : Bool
  zero : Bool
  part : Bool
  tfmt : Nat
  rank : Nat
  group : Nat
  src : Nat
  sline : Nat
  scount : Nat
  sstride : Nat
  dst : Nat
  dline : Nat
  dcount : Nat
  dstride : Nat
  deriving DecidableEq, Repr

/-- Read a record. -/
def XRec.of (bs : List Byte) : XRec :=
  let o := fieldAt bs 0 1
  ⟨bitOf o 0, bitOf o 1, bitOf o 2, bitOf o 3, fieldAt bs 1 1, fieldAt bs 2 2, fieldAt bs 4 1, fieldAt bs 8 8, fieldAt bs 16 4,
   fieldAt bs 20 4, fieldAt bs 24 8, fieldAt bs 32 8, fieldAt bs 40 4, fieldAt bs 44 4, fieldAt bs 48 8⟩

/-- Bytes that a transfer moves. -/
def XRec.size (r : XRec) : Nat := r.sline * r.scount

/-- Bytes of an element of a transposing transfer. -/
def XRec.elem (r : XRec) : Nat := max 1 (elemBits r.tfmt / 8)

/-- Whether an address has one of the forms of Table 12.2. -/
def formOk (w : Nat) : Bool := if bitOf w 63 then bitsOf w 30 33 = 0 else bitsOf w 50 13 = 0

/-- Bytes from the first to the end of the last of `count` lines; the stride of one line is ignored. -/
def extent (line count stride : Nat) : Nat := if count ≤ 1 then line else (count - 1) * stride + line

/-- Whether lines that name local store lie in it, on a core that `owns` allows. -/
def linesFit (owns : Nat → Bool) (w line count stride : Nat) : Bool :=
  !bitOf w 63 || (owns (bitsOf w 22 8) && bitsOf w 0 22 + extent line count stride ≤ storeBytes)

/-- Reserved fields, and fields that their option does not use. -/
def XRec.zeros (r : XRec) (bs : List Byte) : Bool :=
  fieldAt bs 0 1 < 16 && r.tfmt < 16 && (r.trans || r.tfmt = 0) && (r.remote || (r.rank = 0 && r.group = 0)) && r.rank < 4096 &&
    r.group < 64 && allZero (slice bs 5 3) && allZero (slice bs 56 8) && (r.zero || formOk r.src) && formOk r.dst

/-- Line lengths and counts agree, and destination lines do not overlap. -/
def XRec.shapes (r : XRec) : Bool :=
  1 ≤ r.sline && 1 ≤ r.scount && 1 ≤ r.dline && 1 ≤ r.dcount && r.size = r.dline * r.dcount && r.size ≤ 2 ^ 40 &&
    (r.dcount ≤ 1 || r.dline ≤ r.dstride)

/-- The rules of a transposing transfer (R159, R255). -/
def XRec.transOk (r : XRec) : Bool :=
  !r.trans || (!r.remote && !r.part && !r.zero && [0, 1, 2, 3, 4, 8].contains r.tfmt && r.sline % (64 * r.elem) = 0 &&
    r.scount % 64 = 0 && bitOf r.dst 63 && r.dline = r.scount * r.elem && r.dcount = r.sline / r.elem)

/-- The checks at the issue of a transfer by a core of a context (R256, R257, R261). -/
def Dev.xrecOk (d : Dev) (c : Nat) (bs : List Byte) : Bool :=
  let r := XRec.of bs
  r.zeros bs && r.shapes && r.transOk && (r.zero || linesFit (d.ownsCore c) r.src r.sline r.scount r.sstride) &&
    (if r.remote then !bitOf r.dst 63 && d.inGroup c r.group && r.rank < d.groupSize r.group
     else linesFit (d.ownsCore c) r.dst r.dline r.dcount r.dstride) &&
    (!r.part || r.size ≤ 256)

/-! ### Lines and streams (R255) -/

/-- Cut a run of bytes at 256-byte boundaries, one piece for each request (R258). -/
def requestsGo : Nat → Nat → List Byte → List (Nat × List Byte)
  | 0, _, _ => []
  | _, _, [] => []
  | k + 1, va, bs => (va, bs.take (256 - va % 256)) :: requestsGo k (va + (256 - va % 256)) (bs.drop (256 - va % 256))

/-- The requests of a run of bytes. -/
def requestsOf (va : Nat) (bs : List Byte) : List (Nat × List Byte) := requestsGo (bs.length / 256 + 2) va bs

/-- What a command says of one request of 256 bytes. -/
def TierRsp.at256 (rsp : TierRsp) (va : Nat) : TierRsp := rsp.filter fun r => r.1 / 256 = va / 256

/-- An address of a line: the form of the first line's address holds for every line (R255), so that a virtual line that passes the top of
the space is unmapped. -/
def lineAddrs (w line count stride : Nat) : List (Addr × Nat) :=
  (List.range count).map fun i =>
    (match Addr.of w with
     | .va a => .va (a + i * stride)
     | .ls k off => .ls k (off + i * stride)
     | .bad => .bad, line)

/-- Read `n` bytes at a virtual address by requests, up to the first that fails. -/
def Dev.readRequests (d : Dev) (c : Nat) (reader : Option (Nat × Nat)) (rsp : TierRsp) (a n : Nat) : Got × Dev :=
  (requestsOf a (List.replicate n 0)).foldl (fun (r : Got × Dev) p =>
    match r.1.bad with
    | some b => (⟨r.1.bytes ++ List.replicate p.2.length none, some b⟩, r.2)
    | none =>
      let (g, d) := r.2.readVa c reader (TierRsp.at256 rsp p.1) p.1 p.2.length
      (⟨r.1.bytes ++ g.bytes, g.bad⟩, d)) (⟨[], none⟩, d)

/-- Bytes at an address, with the first failure. -/
def Dev.addrRead (d : Dev) (c : Nat) (reader : Option (Nat × Nat)) (rsp : TierRsp) (w : Addr) (n : Nat) : Got × Dev :=
  match w with
  | .va a => d.readRequests c reader rsp a n
  | .ls k off => (⟨(d.lsRead k off n).map some, none⟩, d)
  | .bad => (⟨List.replicate n none, some (Status.integrity, 0)⟩, d)

/-- Read lines, up to the first that fails. -/
def Dev.readLines (d : Dev) (c : Nat) (reader : Option (Nat × Nat)) (rsp : TierRsp) :
    List (Addr × Nat) → List (Option Byte) → Got × Dev
  | [], acc => (⟨acc, none⟩, d)
  | (a, n) :: ls, acc =>
    match d.addrRead c reader rsp a n with
    | (g, d) =>
      match g.bad with
      | some b => (⟨acc ++ g.bytes ++ (ls.flatMap fun l => List.replicate l.2 none), some b⟩, d)
      | none => d.readLines c reader rsp ls (acc ++ g.bytes)

/-- The stream of a transposing transfer: element j of every source line, in line order, for each j. -/
def transposed (elem sline scount : Nat) (bs : List (Option Byte)) : List (Option Byte) :=
  (List.range (sline / elem)).flatMap fun j => (List.range scount).flatMap fun i => (bs.drop (i * sline + j * elem)).take elem

/-- The byte stream of a transfer, with the first failure of its source. -/
def Dev.streamOf (d : Dev) (c : Nat) (reader : Option (Nat × Nat)) (rsp : TierRsp) (r : XRec) : Got × Dev :=
  if r.zero then (⟨List.replicate r.size (some 0), none⟩, d) else
    let (g, d) := d.readLines c reader rsp (lineAddrs r.src r.sline r.scount r.sstride) []
    (if r.trans then ⟨transposed r.elem r.sline r.scount g.bytes, g.bad⟩ else g, d)

/-- The bytes before the first that a source did not deliver. -/
def goodPrefix (bs : List (Option Byte)) : List Byte := (bs.takeWhile (·.isSome)).map (·.getD 0)

/-- Write one piece of a transfer at a virtual address. A transfer of a clause leaves protected header bytes as they are
(R119); a write that the KV rules discard is lost (R123). -/
def Dev.putPiece (d : Dev) (c : Nat) (rsp : TierRsp) (clause : Bool) (va : Nat) (bs : List Byte) : Option Nat × Dev :=
  match d.prepWrite c rsp va none with
  | (none, d) =>
    match d.kvPlace c va with
    | some (.header ..) =>
      if !clause then (none, d.land c va bs) else
        let cells := (List.range bs.length).map fun i => (va + i, bs.getD i 0)
        let ok := cells.filter fun e => e.1 % 64 = 14 || e.1 % 64 = 15
        let d := if ok.length < cells.length then d.put F.kvStat_hdr_wr c 1 else d
        (none, d.each ok fun e d => d.land c e.1 [e.2])
    | _ => (none, d.land c va bs)
  | (some st, d) => if st = kvDiscarded then (none, d) else (some st, d)

/-- Write requests until one fails: the failing status and address, and the bytes written. -/
def Dev.putPieces (d : Dev) (c : Nat) (rsp : TierRsp) (clause : Bool) : List (Nat × List Byte) → Nat → Option (Nat × Nat) × Nat × Dev
  | [], n => (none, n, d)
  | (va, bs) :: t, n =>
    match d.putPiece c (TierRsp.at256 rsp va) clause va bs with
    | (none, d) => d.putPieces c rsp clause t (n + bs.length)
    | (some st, d) => (some (st, va), n, d)

/-- Write a stream into lines until one fails. -/
def Dev.putLines (d : Dev) (c : Nat) (rsp : TierRsp) (clause : Bool) :
    List (Addr × Nat) → List Byte → Nat → Option (Nat × Nat) × Nat × Dev
  | [], _, n => (none, n, d)
  | (w, len) :: ls, bs, n =>
    let mine := bs.take len
    if mine.isEmpty then (none, n, d) else
      match w with
      | .ls k off => (d.lsWrite k off mine).putLines c rsp clause ls (bs.drop len) (n + mine.length)
      | .va a =>
        match d.putPieces c rsp clause (requestsOf a mine) n with
        | (none, m, d) => d.putLines c rsp clause ls (bs.drop len) m
        | (some b, m, d) => (some b, m, d)
      | .bad => (some (Status.integrity, 0), n, d)

/-- Move the bytes of a transfer: its end (`none`: every byte was written), bytes written. -/
def Dev.moveAll (d : Dev) (c : Nat) (reader : Option (Nat × Nat)) (rsp : TierRsp) (clause : Bool) (r : XRec) (limit : Nat) :
    Option (Nat × Nat) × Nat × Dev :=
  let (g, d) := d.streamOf c reader rsp r
  match d.putLines c rsp clause (lineAddrs r.dst r.dline r.dcount r.dstride) ((goodPrefix g.bytes).take limit) 0 with
  | (some b, n, d) => (some b, n, d)
  | (none, n, d) => (g.bad, n, d)

/-! ### Slots and paths (R258, R261) -/

/-- Transfers that a path holds. -/
def Dev.onPath (d : Dev) (k path : Nat) : List Xfer := (d.core k).xfers.filter fun x => x.path = path

/-- Shared slots in use: what each channel holds above 32, and the particle path above 64. -/
def Dev.sharedUsed (d : Dev) (k : Nat) : Nat :=
  ((List.range 8).map fun n => (d.onPath k n).length - 32).sum + (((d.core k).xfers.filter fun x => 8 ≤ x.path).length - 64)

/-- Whether a path finds a slot; a sequencer's particles stay within the 64 of DMA_PT_STAT.QUEUED. -/
def Dev.slotFree (d : Dev) (k path : Nat) : Bool :=
  if path < 8 then (d.onPath k path).length < 32 || d.sharedUsed k < 192
  else (d.onPath k path).length < 64 && (((d.core k).xfers.filter fun x => 8 ≤ x.path).length < 64 || d.sharedUsed k < 192)

/-- Whether a path is halted. -/
def Dev.pathHalted (d : Dev) (k path : Nat) : Bool :=
  if path < 8 then d.flag F.dmaChCtl_halted k path else d.flag F.dmaPtStat_halted k (path - 8)

/-- Set or clear a path's halt. -/
def Dev.setHalt (d : Dev) (k path v : Nat) : Dev :=
  if path < 8 then d.put F.dmaChCtl_halted k v path else d.put F.dmaPtStat_halted k v (path - 8)

/-- Bring QUEUED of a path to the transfers it holds. -/
def Dev.countQueued (d : Dev) (k path : Nat) : Dev :=
  let n := (d.onPath k path).length
  if path < 8 then d.put F.dmaChStat_queued k n path else d.put F.dmaPtStat_queued k n (path - 8)

/-- Change the first transfer of a core that a test accepts. -/
def modFirst (p : Xfer → Bool) (f : Xfer → Xfer) : List Xfer → List Xfer
  | [] => []
  | x :: xs => if p x then f x :: xs else x :: modFirst p f xs

/-! ### Channel instructions (R253, R261) -/

/-- Whether a sequencer owns a channel. -/
def Dev.ownsChannel (d : Dev) (k s ch : Nat) : Bool := bitsOf (d.get F.coreSlotCfg_dma_own k) (2 * ch) 2 = s

/-- Run a channel instruction; on a channel that is not the sequencer's it faults the context. -/
def Dev.withChannel (d : Dev) (core seq ch : Nat) (f : Nat → Clause → Dev → Dev) : Dev :=
  d.withClause core seq fun c y d => if d.ownsChannel core seq ch then f c y d else d.faultCtx c Status.integrity core seq 0

/-- DMA issues a transfer. `next`: it is a prefetch for the next step, which waits for the full stop while one is pending that R48 names (log
entry 76). -/
def Dev.dma (core seq ch offset : Nat) (next : Bool) (d : Dev) : Dev :=
  d.withChannel core seq ch fun c _ d =>
    let bs := d.lsRead core offset 64
    let path := if (XRec.of bs).part then 8 + seq else ch
    if offset % 64 ≠ 0 || storeBytes < offset + 64 || !d.xrecOk c bs then d.faultCtx c Status.integrity core seq 0
    else if !d.slotFree core path then d.stalls core seq Cause.dmaLate
    else
      let halted := d.pathHalted core path
      let x : Xfer :=
        { seq := seq, path := path, num := (d.core core).xferNo, record := bs, since := d.ns, moved := 0,
          ended := if halted then some Status.dmaHalt else none, retryAt := 0, retries := 0, sent := false, lines := [], answer := 0,
          next := next, held := next && !halted && d.holdsNext c }
      let d := (d.issues core seq).modCore core fun k => { k with xfers := k.xfers ++ [x], xferNo := k.xferNo + 1 }
      d.countQueued core path

/-- The tier in which an address of a record of a context lies, where it is an allocated virtual one. -/
def Dev.tierAt (d : Dev) (c w : Nat) : Option Nat :=
  match Addr.of w with
  | .va a => match (d.ctx c).leafAt (a / pageBytes) with
    | some (_, l) => if l.alloc then some (if l.kind = .accord then 0 else l.tier) else none
    | none => none
  | _ => none

/-- What a wait on a transfer counts as (R50): its flits held at a fabric port, the bandwidth of the heart note or of the top note, or
anything else. -/
def Dev.waitCause (d : Dev) (core : Nat) (x : Xfer) : Nat :=
  let c := d.get F.coreState_ctx core
  let r := XRec.of x.record
  let at_ (t : Nat) : Bool := (!r.zero && d.tierAt c r.src = some t) || (!r.remote && d.tierAt c r.dst = some t)
  let slow := Sys2Proof.Config.bandwidthHeld core x.path d.cycles
  if r.remote && x.ended.isNone && (d.waiting.any fun e => e.job = some (core, x.path)) then Cause.fabric
  else if x.ended.isSome || x.sent then Cause.dmaLate
  else if at_ 1 && slow then Cause.heartBw
  else if at_ 0 && slow then Cause.topBw
  else Cause.dmaLate

/-- A wait until a path holds at most `n` transfers: the oldest one that it waits for names the cause (R50). -/
def Dev.waitPath (d : Dev) (core seq path n : Nat) : Dev :=
  match d.onPath core path with
  | [] => d.issues core seq
  | x :: xs => if xs.length < n then d.issues core seq else d.stalls core seq (d.waitCause core x)

/-- Return and clear a path's first status other than OK. -/
def Dev.statPath (d : Dev) (core seq path : Nat) : Dev :=
  let st := SMap.get (d.core core).firstBad 0 path
  let d := (d.issues core seq).modCore core fun x => { x with firstBad := SMap.erase x.firstBad path }
  d.emit (.toClause core seq st)

/-- DMA_WAIT. -/
def Dev.dmaWait (core seq ch n : Nat) (d : Dev) : Dev := d.withChannel core seq ch fun _ _ d => d.waitPath core seq ch n

/-- DMA_STAT. -/
def Dev.dmaStat (core seq ch : Nat) (d : Dev) : Dev := d.withChannel core seq ch fun _ _ d => d.statPath core seq ch

/-- DMA_CLR. -/
def Dev.dmaClr (core seq ch : Nat) (d : Dev) : Dev :=
  d.withChannel core seq ch fun _ _ d => (d.issues core seq).setHalt core ch 0

/-- PT_WAIT. -/
def Dev.ptWait (core seq n : Nat) (d : Dev) : Dev := d.withClause core seq fun _ _ d => d.waitPath core seq (8 + seq) n

/-- PT_STAT. -/
def Dev.ptStat (core seq : Nat) (d : Dev) : Dev := d.withClause core seq fun _ _ d => d.statPath core seq (8 + seq)

/-- PT_CLR. -/
def Dev.ptClr (core seq : Nat) (d : Dev) : Dev :=
  d.withClause core seq fun _ _ d => (d.issues core seq).setHalt core (8 + seq) 0

/-! ### The engine (R255, R257, R260, R262, R263) -/

/-- A transfer that has neither ended nor sent its remote writes. -/
def Xfer.idle (x : Xfer) (path : Nat) : Bool := x.path = path && x.ended.isNone && !x.sent

/-- For whom a transfer's reads of weight banks latch them (R49, R196): the step of its clause, the clause that LAUNCH placed, or, for a
prefetch, the pool's next step. -/
def Dev.readerOf (d : Dev) (core seq : Nat) (next : Bool) : Option (Nat × Nat) :=
  match d.clauseOn core seq with
  | some (c, y) => match y.ref with
    | .step c p _ => some (c, if next then prefetchKey p else p)
    | .desc .. => if y.gen then some (c, launchKey y.id) else none
  | none => none

/-- The address of a line as a remote write carries it: no virtual address above 2^50 is mapped, so that all of these say the same. -/
def lineWord (w : Addr) : Word := match w with | .va a => BitVec.ofNat 64 (min a (2 ^ 63)) | _ => BitVec.ofNat 64 (2 ^ 63)

/-- The lines of a remote transfer with their numbers and bytes. -/
def remoteLines (r : XRec) (bs : List Byte) : List (Nat × Addr × List Byte) :=
  let ls := lineAddrs r.dst r.dline r.dcount r.dstride
  ((List.range ls.length).zip ls).map fun e => (e.1, e.2.1, (bs.drop (e.1 * r.dline)).take r.dline)

/-- Put one line of a remote transfer among the flits of a port. -/
def Dev.sendLine (d : Dev) (core : Nat) (x : Xfer) (p dest group : Nat) (l : Nat × Addr × List Byte) : Dev :=
  let msg : FlitMsg := .dmaWrite group (d.groupRank group) ⟨core, x.path, x.num, l.1⟩ (lineWord l.2.1) l.2.2
  d.enqueue p { flitsOf p dest group msg l.2.2.length with owner := .dmaOut (core / 64), job := some (core, x.path) }

/-- Count bytes and tier failures of a channel. -/
def Dev.countMoved (d : Dev) (k path n : Nat) (ended : Option Nat) : Dev :=
  if 8 ≤ path then d else
    let d := d.incMod F.dmaChBytes_bytes k n path
    if ended = some Status.tierError || ended = some Status.tierTimeout then d.incSat F.dmaChErr_tier k 1 path else d

/-- Change the transfer of a number on a core. -/
def Dev.modXfer (d : Dev) (core num : Nat) (f : Xfer → Xfer) : Dev :=
  d.modCore core fun k => { k with xfers := modFirst (fun x => x.num = num) f k.xfers }

/-- A local write of remote form: a transfer whose peer is this device itself lands in its own context (R257). -/
def Dev.runHere (d : Dev) (core c : Nat) (rsp : TierRsp) (x : Xfer) (r : XRec) (bs : List Byte) : Dev :=
  match d.putLines c rsp true (lineAddrs r.dst r.dline r.dcount r.dstride) bs 0 with
  | (bad, n, d) =>
    let st := match bad with | some b => b.1 | none => Status.ok
    (d.modXfer core x.num fun x => { x with ended := some st, moved := n }).countMoved core x.path n (some st)

/-- The engine runs a remote transfer: its source is read, and its lines leave for the peer; where no route leads there it waits. -/
def Dev.runRemote (d : Dev) (core c : Nat) (rsp : TierRsp) (x : Xfer) (r : XRec) : Dev :=
  let (g, d) := d.streamOf c (d.readerOf core x.seq x.next) rsp r
  let bs := goodPrefix g.bytes
  match g.bad, d.member r.group r.rank with
  | some (st, va), _ =>
    if st = Status.pageFault then d.faultCtx c st core x.seq va
    else (d.modXfer core x.num fun x => { x with ended := some st }).countMoved core x.path 0 (some st)
  | none, none => d
  | none, some m =>
    if m.1 = d.ownRank then d.runHere core c rsp x r bs else
      match d.routePort m.1 with
      | none => d
      | some p =>
        let ls := remoteLines r bs
        let d := d.each ls fun l d => d.sendLine core x p m.1 r.group l
        (d.modXfer core x.num fun x => { x with sent := true, moved := bs.length, lines := ls.map (·.1) }).countMoved core x.path bs.length none

/-- The engine runs a transfer on this device. A byte that is not mapped, or not writable, faults the context; a failed request ends the
transfer with its status. -/
def Dev.runLocal (d : Dev) (core c : Nat) (rsp : TierRsp) (x : Xfer) (r : XRec) : Dev :=
  match d.moveAll c (d.readerOf core x.seq x.next) rsp true r r.size with
  | (some (st, va), n, d) =>
    if st = Status.pageFault then (d.countMoved core x.path n none).faultCtx c st core x.seq va
    else (d.modXfer core x.num fun x => { x with ended := some st, moved := n }).countMoved core x.path n (some st)
  | (none, n, d) => (d.modXfer core x.num fun x => { x with ended := some Status.ok, moved := n }).countMoved core x.path n none

/-- DMA_TRANSFER: the engine runs the oldest transfer of a path that has not run; one that waits for a full stop holds it (R48). -/
def Dev.dmaTransfer (core path : Nat) (rsp : TierRsp) (d : Dev) : Dev :=
  let c := d.get F.coreState_ctx core
  match (d.core core).xfers.find? (·.idle path) with
  | none => d
  | some x =>
    if x.held || d.get F.coreState_state core ≠ CoreSt.held || !d.working c then d else
      let r := XRec.of x.record
      if r.remote then d.runRemote core c rsp x r else d.runLocal core c rsp x r

/-- The peer's acknowledgement of a line arrives: with the last one the transfer ends, with the first status other than OK that the peer
returned (R257, R260). -/
def Dev.dmaAckArrive (d : Dev) (t : WriteTag) (status : Nat) : Dev :=
  match (d.core t.core).xfers.find? fun x => x.num = t.num && x.path = t.path with
  | none => d
  | some x =>
    if x.ended.isSome || !x.lines.contains t.line then d else
      let left := x.lines.filter (· ≠ t.line)
      let st := if x.answer = 0 then status else x.answer
      let d := d.modXfer t.core t.num fun x => { x with lines := left, answer := st, ended := if left.isEmpty then some st else none }
      if left.isEmpty then d.countMoved t.core t.path 0 (some st) else d

/-- DMA_TRANSFER_COMPLETE: the oldest transfer of a path completes once it has ended. -/
def Dev.dmaTransferComplete (core path : Nat) (d : Dev) : Dev :=
  match (d.core core).xfers.find? fun x => x.path = path with
  | none => d
  | some x =>
    match x.ended with
    | none => d
    | some st =>
      let d := d.modCore core fun k =>
        { k with xfers := k.xfers.erase x,
                 firstBad := if st ≠ 0 && (SMap.find k.firstBad path).isNone then SMap.set k.firstBad path st else k.firstBad }
      let d := d.countQueued core path
      if path < 8 then (d.put F.dmaChStat_last core st path).incMod F.dmaChStat_done core 1 path
      else (d.put F.dmaPtStat_last core st (path - 8)).incMod F.dmaPtStat_done core 1 (path - 8)

/-- The address of byte `t` of a transfer's stream at its source and at its destination. -/
def XRec.srcAt (r : XRec) (t : Nat) : Nat :=
  if r.trans then
    let e := t / r.elem
    r.src + e % r.scount * r.sstride + e / r.scount * r.elem + t % r.elem
  else r.src + t / r.sline * r.sstride + t % r.sline
def XRec.dstAt (r : XRec) (t : Nat) : Nat := r.dst + t / r.dline * r.dstride + t % r.dline

/-- The first byte of the stream that a request at an address carries. -/
def XRec.hits (r : XRec) (a : Nat) : Option Nat :=
  (List.range r.size).find? fun t => (!r.zero && r.srcAt t / 256 = a / 256) || r.dstAt t / 256 = a / 256

/-- The retries that a path allows each request. -/
def Dev.retryLimit (d : Dev) (core path : Nat) : Nat := d.get F.dmaChCtl_retry core (if path < 8 then path else 0)

/-- Every retry of a request of a transfer has failed: the bytes before it stay written, the transfer and every later one of the path end
with DMA_HALT, and the path halts (R262). -/
def Dev.haltPath (d : Dev) (core c : Nat) (x : Xfer) (r : XRec) (addr t : Nat) : Dev :=
  let path := x.path
  let (n, d) := if r.remote then (x.moved, d) else
    let (_, n, d) := d.moveAll c (d.readerOf core x.seq x.next) [] true r t
    (n, d)
  let d := if r.remote then d else d.countMoved core path n none
  let d := d.modXfer core x.num fun x => { x with moved := n }
  let stop (y : Xfer) : Xfer := if y.path = path && y.ended.isNone && x.num ≤ y.num then { y with ended := some Status.dmaHalt } else y
  let d := (d.modCore core fun k => { k with xfers := k.xfers.map stop }).setHalt core path 1
  if path < 8 then (d.setReg .dmaChAddr core addr path).incSat F.dmaChErr_halts core 1 path else d

/-- The lines of a remote transfer that a request at an address carries, and that the peer has not acknowledged, are sent again by the route
that stands now. -/
def Dev.resend (d : Dev) (core c : Nat) (x : Xfer) (r : XRec) (t : Nat) : Dev :=
  match d.member r.group r.rank with
  | none => d
  | some m =>
    match d.routePort m.1 with
    | none => d
    | some p =>
      let (g, d) := d.streamOf c (d.readerOf core x.seq x.next) [] r
      let again := (remoteLines r (goodPrefix g.bytes)).filter fun l => l.1 = t / r.dline && x.lines.contains l.1
      d.each again fun l d => d.sendLine core x p m.1 r.group l

/-- A request of a running transfer meets a bus error: it is retried, up to RETRY times, or the path halts (R262). -/
def Dev.busError (d : Dev) (core : Nat) (x : Xfer) (addr : Nat) : Dev :=
  let c := d.get F.coreState_ctx core
  let r := XRec.of x.record
  match r.hits addr with
  | none => d
  | some t =>
    let used := if x.retryAt = addr / 256 then x.retries else 0
    if used < d.retryLimit core x.path then
      let d := d.modXfer core x.num fun x => { x with retryAt := addr / 256, retries := used + 1 }
      let d := if x.path < 8 then d.incSat F.dmaChErr_retries core 1 x.path else d
      if x.sent then d.resend core c x r t else d
    else d.haltPath core c x r addr t

/-- DMA_RETRY: a request of the oldest running transfer of a path meets a bus error. -/
def Dev.dmaRetry (core path : Nat) (addr : Word) (d : Dev) : Dev :=
  match (d.core core).xfers.find? fun x => x.path = path && x.ended.isNone && !x.held with
  | none => d
  | some x => d.busError core x addr.toNat

/-- A context's full stop, like a core reset, ends the halts of its cores (R264). -/
def Dev.clearHalts (d : Dev) (ks : List Nat) : Dev := d.each ks fun k d => d.each (List.range 11) fun p d => d.setHalt k p 0

/-! ### Remote writes at the peer (R257, R260) -/

/-- REMOTE_WRITE_ARRIVE: the bytes are written in the member context, and the sender gets the acknowledgement; an address that is not a
virtual one is not mapped there. -/
def Dev.remoteWriteArrive (group rank : Nat) (tag : WriteTag) (dst : Word) (data : List Byte) (rsp : TierRsp) (d : Dev) : Dev :=
  let c := d.get F.fabGrpCfg_ctx group
  match d.member group rank with
  | none => d
  | some m =>
    if !d.inGroup c group || !d.working c || m.1 = d.ownRank then d else
      let answer (st : Nat) (d : Dev) : Dev := d.send m.1 group (.dmaAck group (d.groupRank group) tag st) 0
      match Addr.of dst.toNat with
      | .va a =>
        let (bad, _, d) := d.putPieces c rsp true (requestsOf a data) 0
        answer (match bad with | some b => b.1 | none => 0) d
      | _ => answer Status.pageFault d

/-! ### The DMA command (R265) -/

/-- DMA_COPY: a transfer record runs on the movers. A request at `addr` meets `busErrors` bus errors; after the fourth the bytes before it
stay written, and the result word gives them. -/
def Dev.dmaCopy (q i : Nat) (rsp : TierRsp) (busErrors : Nat) (addr : Word) (d : Dev) : Dev :=
  d.withDesc q i 2 256 fun c w bs d =>
    let va := fieldAt bs 24 8
    if fieldAt bs 16 1 ≠ 0 || !allZero (slice bs 17 7) || !allZero (slice bs 32 32) || va % 64 ≠ 0 then d.complete w Status.internal 0
    else
      let (g, d) := d.readVa c none rsp va 64
      match g.bad with
      | some (st, _) => d.complete w st 0
      | none =>
        let rb := g.raw
        let r := XRec.of rb
        if (fieldAt rb 0 1 < 16 && (r.trans || r.remote || r.part)) || bitOf r.dst 63 || (!r.zero && bitOf r.src 63) then
          d.complete w Status.integrity 0
        else if !r.zeros rb || !r.shapes then d.complete w Status.internal 0
        else
          let stop := if 3 < busErrors then r.hits addr.toNat else none
          match d.moveAll c none rsp false r (stop.getD r.size) with
          | (some (st, _), n, d) => d.complete w st n
          | (none, n, d) => d.complete w (if stop.isSome then Status.dmaHalt else Status.ok) n

/-! ### Failed lower-tier requests (R249, R250, Table 11.8) -/

/-- A lower-tier request of a requester fails: it passed its timeout, or met an uncorrectable error. -/
def Dev.tierFails (d : Dev) (req : Requester) (va : Nat) (late : Bool) : Dev :=
  let rsp : TierRsp := [(va, late)]
  match req with
  | .channel core ch => d.dmaTransfer core ch rsp
  | .particle core seq => d.dmaTransfer core (8 + seq) rsp
  | .move c id => d.moveGranule c id rsp
  | .dmaCopy q i => d.dmaCopy q i rsp 0 0#64
  | .operand core seq => d.withClause core seq fun c _ d => (d.request c rsp (va / pageBytes)).2
  | .store core seq => d.withClause core seq fun c y d =>
      match d.request c rsp (va / pageBytes) with
      | (some _, d) => d.raiseOvf c core (!y.gen)
      | (none, d) => d

/-- TIER_REQUEST_COMPLETE: data or an acknowledgement changes nothing by itself; an uncorrectable error ends the request. -/
def Dev.tierRequestComplete (req : Requester) (va : Nat) (uncorrectable : Bool) (d : Dev) : Dev :=
  if uncorrectable then d.tierFails req va false else d

/-- The timeout of a lower tier's requests in nanoseconds: TIER_TMO, where 0 acts as 1 µs. -/
def Dev.tierTmo (d : Dev) (tier : Nat) : Nat :=
  1000 * orElse (if tier = 1 then d.get F.tierTmo_heart_us 0 else d.get F.tierTmo_base_us 0) 1

/-- The context of a requester, and the time before which none of its requests in flight was made; an instruction's own request is made
when it issues, and the device keeps no time of it. -/
def Dev.requestSince (d : Dev) (req : Requester) : Option (Nat × Nat) :=
  let path (core p : Nat) : Option (Nat × Nat) :=
    ((d.core core).xfers.find? (·.idle p)).map fun x => (d.get F.coreState_ctx core, x.since)
  match req with
  | .channel core ch => path core ch
  | .particle core seq => path core (8 + seq)
  | .move c id => ((d.ctx c).moves.find? fun m => m.id = id).map fun m => (c, m.since)
  | .dmaCopy q i => match d.desc q i, d.ctxOfQueue q with
    | some x, some c => some (c, x.time)
    | _, _ => none
  | .operand core _ => some (d.get F.coreState_ctx core, 0)
  | .store core _ => some (d.get F.coreState_ctx core, 0)

/-- TIER_TIMEOUT_EXPIRY: a heart-note or base-note request passes its timeout; a top-note request has none (R249). -/
def Dev.tierTimeoutExpiry (req : Requester) (va : Nat) (d : Dev) : Dev :=
  match d.requestSince req with
  | none => d
  | some (c, since) =>
    match d.tierAt c va with
    | some t => if t ≠ 0 && since + d.tierTmo t ≤ d.ns then d.tierFails req va true else d
    | none => d

/-! ### The commands -/

/-- DMA (R253). -/
def execDma (core seq ch offset : Nat) (next : Bool) (s : State) : Host.Outcome State Fault Refusal :=
  run (Instr.wf (.dma core seq ch offset next)) (Dev.dma core seq ch offset next) s

/-- DMA_WAIT (R253). -/
def execDmaWait (core seq ch n : Nat) (s : State) : Host.Outcome State Fault Refusal :=
  run (Instr.wf (.dmaWait core seq ch n)) (Dev.dmaWait core seq ch n) s

/-- DMA_STAT (R253). -/
def execDmaStat (core seq ch : Nat) (s : State) : Host.Outcome State Fault Refusal :=
  run (Instr.wf (.dmaStat core seq ch)) (Dev.dmaStat core seq ch) s

/-- DMA_CLR (R253). -/
def execDmaClr (core seq ch : Nat) (s : State) : Host.Outcome State Fault Refusal :=
  run (Instr.wf (.dmaClr core seq ch)) (Dev.dmaClr core seq ch) s

/-- PT_WAIT (R261). -/
def execPtWait (core seq n : Nat) (s : State) : Host.Outcome State Fault Refusal :=
  run (Instr.wf (.ptWait core seq n)) (Dev.ptWait core seq n) s

/-- PT_STAT (R261). -/
def execPtStat (core seq : Nat) (s : State) : Host.Outcome State Fault Refusal :=
  run (Instr.wf (.ptStat core seq)) (Dev.ptStat core seq) s

/-- PT_CLR (R261). -/
def execPtClr (core seq : Nat) (s : State) : Host.Outcome State Fault Refusal :=
  run (Instr.wf (.ptClr core seq)) (Dev.ptClr core seq) s

/-- DMA_TRANSFER (R255). -/
def execDmaTransfer (core ch : Nat) (rsp : TierRsp) (s : State) : Host.Outcome State Fault Refusal :=
  run (Instr.wf (.dmaTransfer core ch rsp)) (Dev.dmaTransfer core ch rsp) s

/-- DMA_TRANSFER_COMPLETE (R260). -/
def execDmaTransferComplete (core ch : Nat) (s : State) : Host.Outcome State Fault Refusal :=
  run (Instr.wf (.dmaTransferComplete core ch)) (Dev.dmaTransferComplete core ch) s

/-- DMA_RETRY (R262). -/
def execDmaRetry (core ch : Nat) (addr : Word) (s : State) : Host.Outcome State Fault Refusal :=
  run (Instr.wf (.dmaRetry core ch addr)) (Dev.dmaRetry core ch addr) s

/-- REMOTE_WRITE_ARRIVE (R257). -/
def execRemoteWriteArrive (group rank : Nat) (tag : WriteTag) (dst : Word) (data : List Byte) (rsp : TierRsp) (s : State) :
    Host.Outcome State Fault Refusal :=
  run (Instr.wf (.remoteWriteArrive group rank tag dst data rsp)) (Dev.remoteWriteArrive group rank tag dst data rsp) s

/-- DMA_COPY (R265). -/
def execDmaCopy (q i : Nat) (rsp : TierRsp) (busErrors : Nat) (addr : Word) (s : State) : Host.Outcome State Fault Refusal :=
  run (Instr.wf (.dmaCopy q i rsp busErrors addr)) (Dev.dmaCopy q i rsp busErrors addr) s

/-- TIER_REQUEST_COMPLETE (R250). -/
def execTierRequestComplete (req : Requester) (va : Nat) (uncorrectable : Bool) (s : State) : Host.Outcome State Fault Refusal :=
  run (Instr.wf (.tierRequestComplete req va uncorrectable)) (Dev.tierRequestComplete req va uncorrectable) s

/-- TIER_TIMEOUT_EXPIRY (R249). -/
def execTierTimeoutExpiry (req : Requester) (va : Nat) (s : State) : Host.Outcome State Fault Refusal :=
  run (Instr.wf (.tierTimeoutExpiry req va)) (Dev.tierTimeoutExpiry req va) s

end Sys2Proof.Machine
end

