-- ==== Sys2Proof/Machine/Coll.lean ====
section
/-! DEFINITION. Collective groups and their operations: GROUP and JOIN, reductions through the cell, row and hall stages, gathers,
barriers, aborts, detached receivers (R283 to R299). -/

namespace Sys2Proof.Machine

/-! ### The fields of a COLL record (Table 13.3) -/

/-- Bytes 16 to 63 of a COLL descriptor or of a clause's record. -/
structure CollRec where
  op : Nat
  flags : Nat
  group : Nat
  cfg : Nat
  count : Nat
  src : Nat
  dst : Nat
  root : Nat
  tmo : Nat
  lo : Nat
  hi : Nat
  deriving DecidableEq, Repr

/-- Read the fields. -/
def CollRec.of (bs : List Byte) : CollRec :=
  ⟨fieldAt bs 16 1, fieldAt bs 17 1, fieldAt bs 18 1, fieldAt bs 19 1, fieldAt bs 20 4, fieldAt bs 24 8, fieldAt bs 32 8,
   fieldAt bs 40 2, fieldAt bs 44 4, fieldAt bs 48 8, fieldAt bs 56 8⟩

/-- RED, SFMT and the destination record. -/
def CollRec.red (r : CollRec) : Nat := r.flags % 2
def CollRec.sfmt (r : CollRec) : Nat := bitsOf r.flags 4 4
def CollRec.drec (r : CollRec) : TRec := TRec.ofWords r.lo r.hi

/-- The number by which the model tells a full-stop barrier (R291) from the operations of Table 13.3. -/
def barrierOp : Nat := 7

/-- Whether the operation is a reduction. -/
def isReduction (op : Nat) : Bool := op = 2 || op = 3 || op = barrierOp

/-- The signature of R285. -/
def CollRec.sig (r : CollRec) : CollSig := ⟨r.op, r.red, r.count, r.root, r.drec.fmt⟩

/-- Reserved fields, unused fields and field ranges (R293, R294, INTERNAL). -/
def CollRec.formOk (r : CollRec) (bs : List Byte) : Bool :=
  let noRed := r.flags = 0 && r.lo = 0 && r.hi = 0
  r.op < 7 && r.group < 64 && allZero (slice bs 42 2) &&
    (if r.op = 0 then noRed && r.dst = 0 && r.root = 0 && r.cfg < 8 && bitsOf r.cfg 1 2 ≠ 3 && 1 ≤ r.count && r.count ≤ 4096
     else if r.op = 1 || r.op = 6 then
       noRed && r.cfg = 0 && r.count = 0 && r.src = 0 && r.dst = 0 && r.root = 0 && r.tmo = 0
     else if isReduction r.op then
       bitsOf r.flags 1 3 = 0 && r.sfmt ≤ 8 && r.cfg = 0 && 1 ≤ r.count && r.root = 0 && r.tmo = 0
     else noRed && r.cfg = 0 && r.count % 64 = 0 && r.tmo = 0 && (r.op = 5 || r.root = 0))

/-! ### The stages of a reduction (R286) -/

/-- Elements of a chunk. -/
def chunkElems : Nat := 1536

/-- The owner of chunk `k` in a cell of a group, whose fabric ranks stand in logical-rank order. -/
def cellOwner (ranks : List Nat) (k cell : Nat) : Nat :=
  let s := ranks.filter fun r => r / 16 = cell
  s.getD (k % max 1 s.length) 0

/-- The cells of a row, and the rows, in order of their lowest logical rank. -/
def cellsIn (ranks : List Nat) (row : Nat) : List Nat := ((ranks.filter fun r => r / 256 = row).map (· / 16)).eraseDups
def rowsIn (ranks : List Nat) : List Nat := (ranks.map (· / 256)).eraseDups

/-- The row root of chunk `k` in a row, and the hall root. -/
def rowRoot (ranks : List Nat) (k row : Nat) : Nat :=
  let cs := cellsIn ranks row
  cellOwner ranks k (cs.getD (k / 16 % max 1 cs.length) 0)
def hallRoot (ranks : List Nat) (k : Nat) : Nat :=
  let rs := rowsIn ranks
  rowRoot ranks k (rs.getD (k / 256 % max 1 rs.length) 0)

/-- The chunks that a member owns, and the members that own chunk `k`. -/
def ownedChunks (ranks : List Nat) (dev n : Nat) : List Nat :=
  (List.range n).filter fun k => cellOwner ranks k (dev / 16) = dev
def chunkOwners (ranks : List Nat) (k : Nat) : List Nat := ((ranks.map (· / 16)).eraseDups).map (cellOwner ranks k)

/-- Combine the inputs of a stage in the order given: a sum, or under RED 1 a maximum (R287). -/
def combineInputs (red : Nat) : List (List W32) → List W32
  | [] => []
  | x :: xs => xs.foldl (fun a b => List.zipWith (if red = 1 then fmax else fadd) a b) x

/-- Every entry, where all are present. -/
def allOf {α : Type} : List (Option α) → Option (List α)
  | [] => some []
  | none :: _ => none
  | some x :: xs => (allOf xs).map (x :: ·)

/-- What another member sent for a chunk on the way to the roots. -/
def CollOp.up (o : CollOp) (k dev : Nat) : Option (List W32) := (o.ups.find? fun u => u.1 = k && u.2.1 = dev).map (·.2.2)

/-- The result of the cell, row and hall stage of chunk `k` at a device, once it is the stage's device and has every input. -/
def CollOp.cellSum (o : CollOp) (ranks : List Nat) (me k : Nat) : Option (List W32) :=
  if cellOwner ranks k (me / 16) = me then
    (allOf ((ranks.filter fun r => r / 16 = me / 16).map fun r => if r = me then o.chunks[k]? else o.up k r)).map (combineInputs o.sig.red)
  else none
def CollOp.rowSum (o : CollOp) (ranks : List Nat) (me k : Nat) : Option (List W32) :=
  if rowRoot ranks k (me / 256) = me then
    (allOf ((cellsIn ranks (me / 256)).map fun c =>
      let r := cellOwner ranks k c
      if r = me then o.cellSum ranks me k else o.up k r)).map (combineInputs o.sig.red)
  else none
def CollOp.hallSum (o : CollOp) (ranks : List Nat) (me k : Nat) : Option (List W32) :=
  if hallRoot ranks k = me then
    (allOf ((rowsIn ranks).map fun w =>
      let r := rowRoot ranks k w
      if r = me then o.rowSum ranks me k else o.up k r)).map (combineInputs o.sig.red)
  else none

/-- The stage results that stand at a device: stage and chunk. -/
def CollOp.stands (o : CollOp) (ranks : List Nat) (me : Nat) : List (Nat × Nat) :=
  if !o.running then [] else
    (List.range o.chunks.length).flatMap fun k =>
      (if (o.cellSum ranks me k).isSome then [((0, k) : Nat × Nat)] else []) ++
      (if (o.rowSum ranks me k).isSome then [((1, k) : Nat × Nat)] else []) ++
      (if (o.hallSum ranks me k).isSome then [((2, k) : Nat × Nat)] else [])

/-! ### Numbers on the wire (R287 to R289) -/

/-- A source element widened to FP32. -/
def widenSrc (sfmt : Nat) (bits : Nat) : W32 := toF32 (decodeElem sfmt bits)

/-- The values that a stage's result has at the next stage, after the NARROW format of the group, and the conversion that formed them (R65).
A chunk of FB8 that holds an infinity or a NaN is not converted: its tensor scale is sent as NaN. -/
def narrowed (narrow : Nat) (ws : List W32) : List W32 × ConvRun :=
  if narrow = 1 then
    let c := convRow 1 true one32 none (ws.map fun w => (f32 w, Round.nearest))
    (c.elems.map (widen 1 one32 0), c)
  else if narrow = 2 then
    if ws.any fbad then (ws.map fun _ => qnan, ConvRun.empty) else
      let ts := tensorScale 0xD (amaxOf (ws.map f32))
      let c := convRow 0xD false ts none (ws.map fun w => (f32 w, Round.nearest))
      ((List.range ws.length).map fun i => widen 0xD ts (c.scales.getD (i / 16) 0) (c.elems.getD i 0), c)
  else (ws, ConvRun.empty)

/-- Data bytes of a chunk of `n` elements in a NARROW format. -/
def wireBytes (narrow n : Nat) : Nat := if narrow = 0 then 4 * n else if narrow = 1 then 2 * n else 4 + ceilDiv n 16 + n

/-- A chunk rounded once into the destination format: its element bytes and its scale bytes, and the conversion's flags. -/
def roundChunk (r : TRec) (ws : List W32) : List Byte × ConvRun :=
  let c := convRow r.fmt r.nonsat r.ts none (ws.map fun w => (f32 w, Round.nearest))
  (packElems r.fmt (c.elems ++ List.replicate (roundUp c.elems.length (max 1 (blockSize r.fmt)) - c.elems.length) 0) ++
     c.scales.map (BitVec.ofNat 8), c)

/-- The element bytes of a rounded chunk of `n` elements. -/
def chunkBytes (fmt n : Nat) : Nat := elemBytes fmt (roundUp n (max 1 (blockSize fmt)))

/-! ### A group's operations -/

/-- The members' fabric ranks in logical-rank order, while the group is being created too. -/
def Group.table (x : Group) : List (Nat × Nat) := match x.forming with | some f => f.members | none => x.members
def Dev.ranksOf (d : Dev) (g : Nat) : List Nat := (d.group g).members.map (·.1)

/-- The operation of a number. -/
def Group.op (x : Group) (num : Nat) : Option CollOp := x.ops.find? fun o => o.num = num

/-- Change an operation. -/
def Dev.modOp (d : Dev) (g num : Nat) (f : CollOp → CollOp) : Dev :=
  d.modGroup g fun x => { x with ops := x.ops.map fun o => if o.num = num then f o else o }

/-- Put an operation in series order. -/
def insertOp (o : CollOp) : List CollOp → List CollOp
  | [] => [o]
  | x :: xs => if o.num < x.num then o :: x :: xs else x :: insertOp o xs

/-- An operation that this member has not issued yet: of it only other members' flits are known. -/
def CollOp.early (num : Nat) : CollOp :=
  ⟨num, ⟨0, 0, 0, 0, 0⟩, 0, 0, 0, 0, 0, none, none, none, false, [], [], [], [], [], [], 0, .user, [], [], []⟩

/-- Whether this member still has a part as a receiver in an operation that it has issued. -/
def CollOp.mine (o : CollOp) : Bool := o.who.isSome || o.core.isSome || o.use ≠ .user

/-- The NARROW format under which an operation's stage results travel: the barrier's (R291) and the vote's (R318) are FP32. -/
def Dev.narrowOf (d : Dev) (g : Nat) (o : CollOp) : Nat := if o.use = .user then d.get F.fabGrpCfg_narrow g else 0

/-- Set the flags of a conversion of an operation in its context (R65). -/
def Dev.flagColl (d : Dev) (g : Nat) (conv : ConvRun) : Dev :=
  let c := d.get F.fabGrpCfg_ctx g
  let d := if conv.sat then d.put F.ctxNumStat_sat c 1 else d
  if conv.badIn then d.put F.ctxNumStat_nan_cvt c 1 else d

/-! ### Results that stand, and their way on -/

/-- Round a chunk at its root, and send it away from the root (R289). The barrier and the vote stay FP32. -/
def Dev.rootChunk (d : Dev) (g : Nat) (o : CollOp) (k : Nat) (ws : List W32) : Dev :=
  let me := d.ownRank
  let ranks := d.ranksOf g
  let (bytes, conv) := if o.use = .user then roundChunk (TRec.ofWords o.drecLo o.drecHi) ws
    else (ws.flatMap fun w => leBytes 4 w.toNat, ConvRun.empty)
  let d := d.flagColl g conv
  let dests := if o.sig.op = 3 then chunkOwners ranks k else ranks
  let msg : FlitMsg := .collDown o.num o.sig k me bytes
  let d := if o.sig.op = 3 then d.each (dests.filter (· ≠ me)) fun r d => d.send r g msg bytes.length
    else d.sendTree dests g msg bytes.length o.cut
  if dests.contains me then d.modOp g o.num fun o => { o with downs := o.downs ++ [(k, me, bytes)] } else d

/-- Send the stage results of an operation that did not stand before. -/
def Dev.sendNew (d : Dev) (g num : Nat) (before : List (Nat × Nat)) : Dev :=
  match (d.group g).op num with
  | none => d
  | some o =>
    let me := d.ownRank
    let ranks := d.ranksOf g
    let narrow := d.narrowOf g o
    d.each ((o.stands ranks me).filter fun e => !before.contains e) fun (st, k) d =>
      let onward (dest : Nat) (ws : Option (List W32)) : Dev :=
        if dest = me then d else
          let n := narrowed narrow (ws.getD [])
          (d.flagColl g n.2).send dest g (.collUp num o.sig k me n.1) (wireBytes narrow n.1.length)
      if st = 0 then onward (rowRoot ranks k (me / 256)) (o.cellSum ranks me k)
      else if st = 1 then onward (hallRoot ranks k) (o.rowSum ranks me k)
      else d.rootChunk g o k ((o.hallSum ranks me k).getD [])

/-- Change an operation, and send on what then stands. -/
def Dev.stepOp (d : Dev) (g num : Nat) (f : CollOp → CollOp) : Dev :=
  match (d.group g).op num with
  | none => d
  | some o => (d.modOp g num f).sendNew g num (o.stands (d.ranksOf g) d.ownRank)

/-! ### Starting (R285) -/

/-- The bytes of an operation's source; bytes that a lower tier did not deliver are zeros, with the tier's status (R294). -/
def Dev.collSource (d : Dev) (c : Nat) (o : CollOp) (rsp : TierRsp) (n : Nat) : List Byte × Nat × Dev :=
  let reader := match o.core with | some (k, s) => d.readerOf k s false | none => none
  let (g, d) := d.addrRead c reader rsp (if o.core.isSome then Addr.of o.src else .va o.src) n
  (g.raw, (match g.bad with | some b => b.1 | none => 0), d)

/-- Start an operation: its source is read, and its own data leave for their stages or their receivers. What the device itself enters
brings its data with it. -/
def Dev.startOp (d : Dev) (g : Nat) (o : CollOp) (rsp : TierRsp) : Dev :=
  let c := d.get F.fabGrpCfg_ctx g
  let me := d.ownRank
  let ranks := d.ranksOf g
  let gives := isReduction o.sig.op || o.sig.op = 4 || (o.sig.op = 5 && ranks.getD o.sig.root 0 = me)
  let n := if isReduction o.sig.op then elemBytes o.sfmt o.sig.count else o.sig.count
  let (bs, st, d) := if o.use ≠ .user then (o.own, 0, d) else if gives then d.collSource c o rsp n else (([] : List Byte), 0, d)
  if isReduction o.sig.op then
    let chunks := if o.use ≠ .user then o.chunks
      else chunksOf chunkElems ((List.range o.sig.count).map fun i => widenSrc o.sfmt (unpackElem o.sfmt bs i))
    let d := d.each (List.range chunks.length) fun k d =>
      let dest := cellOwner ranks k (me / 16)
      let ws := chunks.getD k []
      if dest = me then d else d.send dest g (.collUp o.num o.sig k me ws) (4 * ws.length)
    d.stepOp g o.num fun o => { o with running := true, chunks := chunks, status := st }
  else
    let d := d.modOp g o.num fun o =>
      { o with running := true, own := bs, status := st, downs := if gives then o.downs ++ [(0, me, bs)] else o.downs }
    if o.sig.op = 6 then d.sendTree ranks g (.collUp o.num o.sig 0 me []) 0 []
    else if gives then d.sendTree ranks g (.collDown o.num o.sig 0 me bs) bs.length o.cut
    else d

/-- Start the operations that wait, up to four in flight; `k` bounds their number. -/
def Dev.startOps (d : Dev) (g : Nat) (rsp : TierRsp) : Nat → Dev
  | 0 => d
  | k + 1 =>
    let ops := (d.group g).ops
    if !d.flag F.fabGrpCfg_valid g || 4 ≤ (ops.filter (·.running)).length then d else
      match ops.find? fun o => o.issued.isSome && !o.running with
      | some o => (d.startOp g o rsp).startOps g rsp k
      | none => d

/-! ### Ends and aborts (R296, R297) -/

/-- A checkpoint's hold of the next step ends (R314), and firmware removes a slow core now (R25, R400). -/
def Dev.releaseHold (d : Dev) (c : Nat) : Dev :=
  if !(d.ctx c).hold then d else
    let d := d.modCtx c fun x => { x with hold := false }
    d.removeSlow c (d.lrnCores c)

/-- The numbers of a checkpoint's operations that this member has not issued leave the series. -/
def Dev.dropReserved (d : Dev) (g base : Nat) : Dev :=
  d.modGroup g fun x =>
    { x with ops := x.ops.filter fun o => o.issued.isSome || o.num < base || base + 3 ≤ o.num,
             aborts := x.aborts.filter fun n => n < base || base + 3 ≤ n }

/-- A SAVE completes (R315): LAST, COMMITS and CKPT_STEP follow. -/
def Dev.endSave (d : Dev) (c : Nat) (k : Ckpt) (status : Nat) : Dev :=
  let d := (d.modCtx c fun x => { x with ckpt := none }).releaseHold c
  let g := d.get F.ckptJob_grp c
  let d := if g < 64 && 2 ≤ d.get F.ckptStat_phase c then d.dropReserved g k.base else d
  let d := (d.put F.ckptStat_phase c 0).put F.ckptStat_last c status
  let d := if status = 0 then (d.incSat F.ckptStat_commits c).setReg .ckptStep c k.step else d
  d.complete k.who status (k.shards + k.slot * 2 ^ 32)

/-- A RESTORE completes. -/
def Dev.endRestore (d : Dev) (c : Nat) (w : Waiter) (status result : Nat) : Dev :=
  ((d.modCtx c fun x => { x with restore := none }).put F.ckptStat_last c status).complete w status result

/-- A SAVE hears that an operation of its checkpoint ended otherwise than with OK: it ends at once, or, where its own writes are in flight,
with them (Table 14.5). -/
def Dev.failSave (d : Dev) (c status : Nat) : Dev :=
  match (d.ctx c).ckpt with
  | some k => if d.get F.ckptStat_phase c = 3 then d.modCtx c fun x => { x with ckpt := some { k with status := status } } else d.endSave c k status
  | none => d

/-- Tell the issuer of an operation how it ended. The barrier of a full stop tells by BARRIER_MET and BARRIER_ABORT. -/
def Dev.tellIssuer (d : Dev) (g : Nat) (o : CollOp) (status result : Nat) : Dev :=
  let c := d.get F.fabGrpCfg_ctx g
  match o.use with
  | .user =>
    let d := match o.who with | some w => d.complete w status result | none => d
    (match o.core with
     | some (k, s) =>
       if status = 0 then d else
         d.modCore k fun x =>
           { x with collBad := if (SMap.find x.collBad (s * 64 + g)).isNone then SMap.set x.collBad (s * 64 + g) status else x.collBad }
     | none => d)
  | .stop => d
  | .vote =>
    if status = 0 then d else match (d.ctx c).restore with
      | some r => d.endRestore c r.who status r.filled
      | none => d
  | _ => if status = 0 then d else d.failSave c status

/-- Count an operation that has completed. -/
def Dev.countOp (d : Dev) (g status : Nat) : Dev :=
  let d := d.incMod F.fabGrpStat_done g
  if status = Status.collAbort then d.incSat F.fabGrpStat_aborts g else d

/-- Whether flits are those of an operation; those of its down path. -/
def opFlits (g num : Nat) (x : Egress) : Bool :=
  x.cls = 2 && x.group = g && (match x.msg with | .collUp n .. => n = num | .collDown n .. => n = num | _ => false)
def downFlits (g num : Nat) (x : Egress) : Bool := opFlits g num x && x.dir = 1

/-- An operation completes: its issuer hears of it, and the next one may start. An abort discards its flits and frees their buffers (R296). -/
def Dev.finishOp (d : Dev) (g : Nat) (o : CollOp) (status result : Nat) (rsp : TierRsp) : Dev :=
  let d := d.modGroup g fun x => { x with ops := x.ops.filter fun y => y.num ≠ o.num }
  let d := if status = Status.collAbort then d.dropWaiting fun _ x => opFlits g o.num x else d
  let d := if o.mine then (d.tellIssuer g o status result).countOp g status else d
  d.startOps g rsp 4

/-- FAB_GRP_ERR names an abort. -/
def Dev.noteAbort (d : Dev) (g rank cause num : Nat) : Dev :=
  d.setReg .fabGrpErr g (rank % 2 ^ 12 + cause * 2 ^ 12 + num % 2 ^ 32 * 2 ^ 32)

/-- The group is broken: more aborts of operations not issued here than it can remember. Every operation aborts. -/
def Dev.breakGroup (d : Dev) (g : Nat) : Dev :=
  let d := d.put F.fabGrpCfg_broken g 1
  let ops := (d.group g).ops
  let d := d.modGroup g fun x => { x with ops := [] }
  d.each (ops.filter fun o => o.issued.isSome && o.mine) fun o d => (d.tellIssuer g o Status.collAbort 0).countOp g Status.collAbort

/-- An operation aborts on this member: at once where it has been issued, else when it will be. -/
def Dev.abortHere (d : Dev) (g num rank cause : Nat) : Dev :=
  let x := d.group g
  match x.op num with
  | some o =>
    if o.issued.isSome then (d.noteAbort g rank cause num).finishOp g o Status.collAbort 0 []
    else
      let d := (d.noteAbort g rank cause num).modGroup g fun x =>
        { x with ops := x.ops.filter fun y => y.num ≠ num, aborts := x.aborts ++ [num] }
      if 16 < (d.group g).aborts.length then d.breakGroup g else d
  | none =>
    if num < x.series || x.aborts.contains num then d else
      let d := (d.noteAbort g rank cause num).modGroup g fun x => { x with aborts := x.aborts ++ [num] }
      if 16 < (d.group g).aborts.length then d.breakGroup g else d

/-- An operation aborts here, and the other members are told. -/
def Dev.abortOp (d : Dev) (g num rank cause : Nat) : Dev :=
  (d.sendTree (d.ranksOf g) g (.abort num rank cause) 0 []).abortHere g num rank cause

/-! ### Issuing (R285, R293 to R296) -/

/-- Whether a group of a context exists or is being created here. -/
def Dev.groupUsable (d : Dev) (c g : Nat) : Bool :=
  d.inGroup c g || (match (d.group g).forming with | some f => f.ctx = c | none => false)

/-- Whether an address of Table 12.2 names `n` bytes that may be read, or written: the refusing status. -/
def Dev.spanCheck (d : Dev) (c : Nat) (clause wr : Bool) (w n : Nat) : Option Nat :=
  if clause && bitOf w 63 then
    if bitsOf w 30 33 = 0 && d.ownsCore c (bitsOf w 22 8) && bitsOf w 0 22 + n ≤ storeBytes then none else some Status.integrity
  else if wr then (if d.mapped c w n && d.writable c w n then none else some Status.pageFault)
  else if d.mapped c w n then none else some Status.pageFault

/-- Elements that this member writes for a reduction. -/
def writtenElems (op count : Nat) (ranks : List Nat) (me : Nat) : Nat :=
  if op = 2 then count else
    ((ownedChunks ranks me (ceilDiv count chunkElems)).map fun k => min chunkElems (count - k * chunkElems)).sum

/-- The refusing status of an operation 2 to 6, if any (R294). -/
def Dev.collCheck (d : Dev) (c : Nat) (clause : Bool) (bs : List Byte) : Option Nat :=
  let r := CollRec.of bs
  let ranks := (d.group r.group).table.map (·.1)
  let first (xs : List (Option Nat)) : Option Nat := xs.findSome? id
  if r.op < 2 || !r.formOk bs then some Status.internal
  else if !d.groupUsable c r.group then some Status.integrity
  else if r.op = 6 then none
  else if isReduction r.op then
    let t := r.drec
    if t.fmt = 0xF then some Status.formatUnknown
    else if !t.okR69 true || t.rnd = 1 then some Status.integrity
    else
      let n := writtenElems r.op r.count ranks d.ownRank
      first [d.spanCheck c clause false r.src (elemBytes r.sfmt r.count), d.spanCheck c clause true r.dst (chunkBytes t.fmt n),
             if blockSize t.fmt = 0 then none else d.spanCheck c clause true r.hi (ceilDiv n (blockSize t.fmt))]
  else if r.op = 5 && ranks.length ≤ r.root then some Status.integrity
  else
    first [d.spanCheck c clause false r.src r.count,
           d.spanCheck c clause true r.dst (if r.op = 4 then r.count * ranks.length else r.count)]

/-- The devices next to this one in the trees of an operation, and those that its own data go to or come from by a route: the stages'
devices (R286), the root and, from a root, every receiver. -/
def opPeers (sig : CollSig) (ranks : List Nat) (me : Nat) : List Nat :=
  if isReduction sig.op then
    ((List.range (ceilDiv sig.count chunkElems)).flatMap fun k =>
      let own := cellOwner ranks k (me / 16)
      let row := rowRoot ranks k (me / 256)
      let hall := hallRoot ranks k
      [own, hall] ++ (if own = me then row :: (ranks.filter fun r => r / 16 = me / 16) else []) ++
        (if row = me then (cellsIn ranks (me / 256)).map (cellOwner ranks k) else []) ++
        (if hall = me then (rowsIn ranks).map (rowRoot ranks k) ++ (if sig.op = 3 then chunkOwners ranks k else ranks) else [])).eraseDups
  else if sig.op = 5 then
    let root := ranks.getD sig.root 0
    if root = me then ranks else [root]
  else ranks

/-- The sources of an operation's multicast trees. -/
def opSources (sig : CollSig) (ranks : List Nat) : List Nat :=
  if isReduction sig.op then ((List.range (ceilDiv sig.count chunkElems)).map (hallRoot ranks)).eraseDups
  else if sig.op = 5 then [ranks.getD sig.root 0] else ranks

/-- The ports that an operation's trees and routes use here, as the device fixes them at its issue (R298). -/
def Dev.opPorts (d : Dev) (g : Nat) (sig : CollSig) : List Nat :=
  let ranks := (d.group g).table.map (·.1)
  let me := d.ownRank
  let far := opPeers sig ranks me ++ ((opSources sig ranks).filter (· ≠ me)).flatMap (d.beyond g)
  ((far.filter (· ≠ me)).filterMap d.routePort).eraseDups

/-- An operation that this member issues enters its group's series at its number. What other members sent of it before is merged; the first
signature that differs, a remembered abort or a broken group ends it at once (R285, R296). -/
def Dev.enterOp (d : Dev) (g : Nat) (new : CollOp) (rsp : TierRsp) : Dev :=
  let x := d.group g
  let old := (x.op new.num).getD (CollOp.early new.num)
  let o : CollOp := { new with ups := old.ups, downs := old.downs, arrived := old.arrived, heard := old.heard, issued := some d.ns,
                               ports := d.opPorts g new.sig }
  let d := d.setGroup g { x with series := max x.series (o.num + 1), ops := insertOp o (x.ops.filter fun y => y.num ≠ o.num),
                                 aborts := x.aborts.filter (· ≠ o.num) }
  if x.aborts.contains o.num || d.flag F.fabGrpCfg_broken g then d.finishOp g o Status.collAbort 0 rsp
  else match o.heard.find? fun h => h.2 ≠ o.sig with
    | some h => d.abortOp g o.num ((rankIn x.table h.1).getD 0) 2
    | none => d.startOps g rsp 4

/-- A descriptor's or a clause's operation takes the next number of the series. -/
def Dev.issueOp (d : Dev) (bs : List Byte) (who : Option Waiter) (core : Option (Nat × Nat)) (rsp : TierRsp) : Dev :=
  let r := CollRec.of bs
  d.enterOp r.group
    { CollOp.early (d.group r.group).series with sig := r.sig, sfmt := r.sfmt, src := r.src, dst := r.dst, drecLo := r.lo, drecHi := r.hi,
                                                 who := who, core := core } rsp

/-- Run a COLL descriptor of an operation 2 to 6. -/
def Dev.collDesc (d : Dev) (q i op : Nat) (rsp : TierRsp) : Dev :=
  d.withDesc q i 3 op fun c w bs d =>
    match d.collCheck c false bs with
    | some st => d.complete w st 0
    | none => (d.accept w).issueOp bs (some w) none rsp

/-- The next `n` numbers of a group's series are kept for operations that the device will enter (R313). -/
def Dev.reserveOps (d : Dev) (g n : Nat) : Dev :=
  d.modGroup g fun x =>
    let nums := (List.range n).map (x.series + ·)
    { x with series := x.series + n,
             ops := nums.foldl (fun os m => if (os.any fun o => o.num = m) || x.aborts.contains m then os else insertOp (CollOp.early m) os) x.ops }

/-! ### GROUP (R284) -/

/-- The digest that a JOIN carries: over the table, MODE, NARROW and TMO_US. -/
def joinDigest (table : List Byte) (cfg tmo : Nat) : List Byte :=
  digest256 (table ++ leBytes 1 (cfg % 2) ++ leBytes 1 (bitsOf cfg 1 2) ++ leBytes 4 tmo)

/-- A GROUP fails: it and the operations that waited for it complete with its status. -/
def Dev.failForm (d : Dev) (g : Nat) (f : Forming) (status : Nat) : Dev :=
  let ops := (d.group g).ops.filter (·.issued.isSome)
  let d := (d.setGroup g Group.init).complete f.who status 0
  d.each ops fun o d => d.tellIssuer g o status 0

/-- The group is created. -/
def Dev.makeGroup (d : Dev) (g : Nat) (f : Forming) : Dev :=
  let rank := (rankIn f.members d.ownRank).getD 0
  let d := d.modGroup g fun x => { x with members := f.members, forming := none, joins := [] }
  let d := d.setReg .fabGrpCfg g
    (1 + f.cfg % 2 * 2 + bitsOf f.cfg 1 2 * 4 + f.ctx * 2 ^ 8 + f.members.length * 2 ^ 16 + rank * 2 ^ 32)
  let d := d.put F.fabGrpCtl_tmo_us g f.tmo
  (d.complete f.who Status.ok rank).startOps g [] 4

/-- A GROUP completes once every member's JOIN is in. -/
def Dev.tryForm (d : Dev) (g : Nat) : Dev :=
  let x := d.group g
  match x.forming with
  | none => d
  | some f =>
    let peers := (f.members.map (·.1)).filter (· ≠ d.ownRank)
    let got := peers.map fun r => (x.joins.find? fun j => j.1 = r).map (·.2)
    if got.all (·.isSome) then
      if got.all (· = some f.digest) then d.makeGroup g f else d.failForm g f Status.integrity
    else d

/-- GROUP. -/
def Dev.groupCreate (q i : Nat) (d : Dev) : Dev :=
  d.withDesc q i 3 0 fun c w bs d =>
    let r := CollRec.of bs
    if !r.formOk bs then d.complete w Status.internal 0
    else
      let (t, d) := d.readVa c none [] r.src (4 * r.count)
      match t.bad with
      | some (st, _) => d.complete w st 0
      | none =>
        let tb := t.raw
        let ws := (List.range r.count).map fun k => fieldAt tb (4 * k) 4
        let ms := ws.map fun v => (bitsOf v 0 12, bitsOf v 12 8)
        let mine := ms.filter fun m => m.1 = d.ownRank
        if ws.any fun v => bitsOf v 20 12 ≠ 0 then d.complete w Status.internal 0
        else if d.flag F.fabGrpCfg_valid r.group || (d.group r.group).forming.isSome || mine ≠ [(d.ownRank, c)] then
          d.complete w Status.integrity 0
        else
          let tmo := if r.tmo = 0 then 2000 else r.tmo
          let dg := joinDigest tb r.cfg tmo
          let f : Forming := ⟨w, c, ms, r.cfg, tmo, dg, d.ns⟩
          let d := (d.accept w).modGroup r.group fun x => { Group.init with joins := x.joins, forming := some f }
          let d := d.sendTree (ms.map (·.1)) r.group (.join d.ownRank dg) 32 []
          d.tryForm r.group

/-- JOIN_RECEIVE: a member's JOIN arrives, perhaps before this device's own GROUP. -/
def Dev.joinReceive (g rank : Nat) (digest : List Byte) (d : Dev) : Dev :=
  if rank = d.ownRank then d else
    (d.modGroup g fun x => { x with joins := x.joins.filter (fun j => j.1 ≠ rank) ++ [(rank, digest)] }).tryForm g

/-- GROUP_JOIN_TIMEOUT: 1 s has passed without every JOIN. -/
def Dev.groupJoinTimeout (g : Nat) (d : Dev) : Dev :=
  match (d.group g).forming with
  | some f => if f.since + 10 ^ 9 ≤ d.ns then d.failForm g f Status.collTimeout else d
  | none => d

/-- The group of a number ends on this device: a GROUP that waits, and every operation, completes with a status. -/
def Dev.freeGroup (d : Dev) (g status : Nat) : Dev :=
  match (d.group g).forming with
  | some f => d.failForm g f status
  | none =>
    let x := d.group g
    let tell := d.flag F.fabGrpCfg_valid g && d.get F.fabGrpCfg_mode g = 0
    let live := x.ops.filter fun o => o.issued.isSome && o.mine
    let d := if tell then d.each live fun o d => d.sendTree (d.ranksOf g) g (.abort o.num (d.groupRank g) 4) 0 [] else d
    let d := d.each live fun o d => d.tellIssuer g o status 0
    (d.setGroup g { Group.init with joins := x.joins }).resetRegs (regsOf .fabGrp .context) g

/-- DESTROY (R297). -/
def Dev.collDestroy (q i : Nat) (d : Dev) : Dev :=
  d.withDesc q i 3 1 fun c w bs d =>
    let r := CollRec.of bs
    if !r.formOk bs then d.complete w Status.internal 0
    else if !d.groupUsable c r.group then d.complete w Status.integrity 0
    else (d.freeGroup r.group Status.collAbort).complete w Status.ok 0

/-! ### Operations from descriptors and clauses (R289, R292, R295) -/

/-- ALL_REDUCE, REDUCE_SCATTER, ALL_GATHER, BROADCAST, BARRIER. -/
def Dev.allReduce (q i : Nat) (rsp : TierRsp) (d : Dev) : Dev := d.collDesc q i 2 rsp
def Dev.reduceScatter (q i : Nat) (rsp : TierRsp) (d : Dev) : Dev := d.collDesc q i 3 rsp
def Dev.allGather (q i : Nat) (rsp : TierRsp) (d : Dev) : Dev := d.collDesc q i 4 rsp
def Dev.broadcast (q i : Nat) (rsp : TierRsp) (d : Dev) : Dev := d.collDesc q i 5 rsp
def Dev.barrier (q i : Nat) (d : Dev) : Dev := d.collDesc q i 6 []

/-- COLL issues an operation from a record in local store; a record that is refused faults the context. -/
def Dev.coll (core seq offset : Nat) (rsp : TierRsp) (d : Dev) : Dev :=
  d.withClause core seq fun c _ d =>
    let bs := d.lsRead core offset 64
    if storeBytes < offset + 64 then d.faultCtx c Status.integrity core seq 0
    else match d.collCheck c true bs with
      | some st => d.faultCtx c st core seq 0
      | none => (d.issues core seq).issueOp bs none (some (core, seq)) rsp

/-- COLL_WAIT. -/
def Dev.collWait (core seq g n : Nat) (d : Dev) : Dev :=
  d.withClause core seq fun _ _ d =>
    if ((d.group g).ops.filter fun o => o.core = some (core, seq)).length ≤ n then d.issues core seq
    else d.stalls core seq Cause.collective

/-- COLL_STAT. -/
def Dev.collStat (core seq g : Nat) (d : Dev) : Dev :=
  d.withClause core seq fun _ _ d =>
    let st := SMap.get (d.core core).collBad 0 (seq * 64 + g)
    ((d.issues core seq).modCore core fun x => { x with collBad := SMap.erase x.collBad (seq * 64 + g) }).emit (.toClause core seq st)

/-! ### Arrivals -/

/-- The signature that a member's flits bring, before this member has issued the operation. -/
def CollOp.hear (o : CollOp) (sender : Nat) (sig : CollSig) : CollOp :=
  if o.heard.contains (sender, sig) then o else { o with heard := o.heard ++ [(sender, sig)] }

/-- A flit of an operation arrives. Flits of a number with no group, of a completed or of an aborted operation are discarded; a
signature that differs from this member's own aborts the operation, in either mode (R285). -/
def Dev.collArrive (d : Dev) (g num sender : Nat) (sig : CollSig) (f : CollOp → CollOp) : Dev :=
  let x := d.group g
  if (!d.flag F.fabGrpCfg_valid g && x.forming.isNone) || x.aborts.contains num || d.flag F.fabGrpCfg_broken g then d else
    match x.op num with
    | some o =>
      if o.issued.isSome then
        if o.sig ≠ sig then d.abortOp g num ((rankIn x.table sender).getD 0) 2 else d.stepOp g num f
      else d.modOp g num fun o => f (o.hear sender sig)
    | none =>
      if num < x.series then d
      else d.setGroup g { x with ops := insertOp (f ((CollOp.early num).hear sender sig)) x.ops }

/-- A contribution on its way to a root, or a member's BARRIER. -/
def Dev.collUpArrive (d : Dev) (g num : Nat) (sig : CollSig) (k sender : Nat) (ws : List W32) : Dev :=
  d.collArrive g num sender sig fun o =>
    if sig.op = 6 then { o with arrived := if o.arrived.contains sender then o.arrived else o.arrived ++ [sender] }
    else { o with ups := o.ups.filter (fun u => !(u.1 = k && u.2.1 = sender)) ++ [(k, sender, ws)] }

/-- A result on its way from a root, or a source's bytes. -/
def Dev.collDownArrive (d : Dev) (g num : Nat) (sig : CollSig) (k sender : Nat) (bs : List Byte) : Dev :=
  d.collArrive g num sender sig fun o =>
    { o with downs := o.downs.filter (fun u => !(u.1 = k && u.2.1 = sender)) ++ [(k, sender, bs)] }

/-! ### Completion -/

/-- The chunks that this member writes for a reduction, in ascending order. -/
def CollOp.wanted (o : CollOp) (ranks : List Nat) (me : Nat) : List Nat :=
  let n := ceilDiv o.sig.count chunkElems
  if o.sig.op = 3 then ownedChunks ranks me n else List.range n

/-- Whether everything that an operation brings to this member is here. -/
def CollOp.ready (o : CollOp) (ranks : List Nat) (me : Nat) : Bool :=
  o.running &&
    (if isReduction o.sig.op then
       (o.wanted ranks me).all (fun k => o.downs.any fun u => u.1 = k) &&
         (o.stands ranks me).length = (List.range o.chunks.length).foldl (fun n k =>
           n + (if cellOwner ranks k (me / 16) = me then 1 else 0) + (if rowRoot ranks k (me / 256) = me then 1 else 0) +
             (if hallRoot ranks k = me then 1 else 0)) 0
     else if o.sig.op = 4 then ranks.all fun r => o.downs.any fun u => u.2.1 = r
     else if o.sig.op = 5 then o.downs.any fun u => u.2.1 = ranks.getD o.sig.root 0
     else ranks.all fun r => r = me || o.arrived.contains r)

/-- Write bytes at an address, by requests: the failing status, and the bytes written. -/
def Dev.addrWrite (d : Dev) (c : Nat) (rsp : TierRsp) (clause : Bool) (w : Nat) (bs : List Byte) : Option Nat × Nat × Dev :=
  match (if clause then Addr.of w else .va w) with
  | .va a =>
    match d.putPieces c rsp clause (requestsOf a bs) 0 with
    | (bad, n, d) => (bad.map (·.1), n, d)
  | .ls k off => (none, bs.length, d.lsWrite k off bs)
  | .bad => (some Status.integrity, 0, d)

/-- Write what an operation brings at DST (and its block scales at SCALE_REF): the failing status, and the elements or bytes
written. -/
def Dev.collDeliver (d : Dev) (c : Nat) (rsp : TierRsp) (o : CollOp) (ranks : List Nat) : Option Nat × Nat × Dev :=
  let me := d.ownRank
  let clause := o.core.isSome
  if isReduction o.sig.op then
    let fmt := (TRec.ofWords o.drecLo o.drecHi).fmt
    let parts := (o.wanted ranks me).map fun k =>
      let n := chunkBytes fmt (min chunkElems (o.sig.count - k * chunkElems))
      let bs := ((o.downs.find? fun u => u.1 = k).map (·.2.2)).getD []
      (bs.take n, bs.drop n)
    let total := writtenElems o.sig.op o.sig.count ranks me
    let (bad, n, d) := d.addrWrite c rsp clause o.dst (parts.flatMap (·.1))
    let scales := parts.flatMap (·.2)
    let (bad2, _, d) := if scales.isEmpty then (none, 0, d) else d.addrWrite c rsp clause o.drecHi scales
    ((match bad with | some st => some st | none => bad2), min total (n * 8 / elemBits fmt), d)
  else if o.sig.op = 4 then
    d.addrWrite c rsp clause o.dst (ranks.flatMap fun r => ((o.downs.find? fun u => u.2.1 = r).map (·.2.2)).getD [])
  else if o.sig.op = 5 then d.addrWrite c rsp clause o.dst (((o.downs.head?).map (·.2.2)).getD [])
  else (none, 0, d)

/-- Everything that an operation of Table 13.3 brings is here; it is written, and the operation completes. A detached receiver wrote nothing
and has completed before. -/
def Dev.completeUser (d : Dev) (g : Nat) (o : CollOp) (rsp : TierRsp) : Dev :=
  if !o.mine then d.finishOp g o Status.ok 0 rsp
  else
    let (bad, n, d) := d.collDeliver (d.get F.fabGrpCfg_ctx g) rsp o (d.ranksOf g)
    d.finishOp g o (if o.status ≠ 0 then o.status else bad.getD Status.ok) n rsp

/-! ### Aborts and detachment (R296, R299) -/

/-- COLL_ABORT_TIMEOUT: an operation of an ABORT-mode group has passed TMO_US on this member. -/
def Dev.collAbortTimeout (g num : Nat) (d : Dev) : Dev :=
  match (d.group g).op num with
  | some o =>
    match o.issued with
    | some t =>
      if d.flag F.fabGrpCfg_valid g && d.get F.fabGrpCfg_mode g = 0 && t + 1000 * d.get F.fabGrpCtl_tmo_us g < d.ns then
        d.abortOp g num (d.groupRank g) 1
      else d
    | none => d
  | none => d

/-- ABORT_RECEIVE: another member's ABORT. -/
def Dev.abortReceive (g num rank cause : Nat) (d : Dev) : Dev :=
  if d.flag F.fabGrpCfg_valid g || (d.group g).forming.isSome then d.abortHere g num rank cause else d

/-- A receiver's share of an operation's down path on an F-die, in flits: those staged for the edge toward it, or those that have landed here
and still wait for their destination (R299; log entry 75). -/
def Dev.collShare (d : Dev) (g : Nat) (o : CollOp) (edge : Option Nat) (die : Nat) : Nat :=
  match edge with
  | some p => (((d.port p).egress.filter fun x => x.die = die && downFlits g o.num x).map (·.staged)).sum
  | none =>
    if o.mine then min (o.downs.map fun u => flitsFor u.2.2.length).sum (Sys2Proof.Config.undelivered g o.num die d.cycles) else 0

/-- Whether a share stands at its cap, COLL_CAP, on either F-die. -/
def Dev.collAtCap (d : Dev) (g : Nat) (o : CollOp) (edge : Option Nat) : Bool :=
  o.running && [0, 1].any fun die => 4096 * orElse (d.get F.poolCfg_coll_cap die) 8 ≤ d.collShare g o edge die

/-- Note the shares of an operation that stand at their caps, and since when. -/
def Dev.watchOp (d : Dev) (g : Nat) (o : CollOp) : Dev :=
  let now := (none :: (List.range 32).map some).filter (d.collAtCap g o)
  let caps := now.map fun e => (e, ((o.caps.find? fun x => x.1 = e).map (·.2)).getD d.ns)
  if caps = o.caps then d else d.modOp g o.num fun o => { o with caps := caps }

/-- The same for every operation of every group. -/
def Dev.watchColl (d : Dev) : Dev := d.each d.groups fun e d => d.each e.2.ops fun o d => d.watchOp e.1 o

/-- This receiver is detached from an operation: it completes here with COLL_ABORT, and its part on the way to the roots goes on. -/
def Dev.detachHere (d : Dev) (g : Nat) (o : CollOp) : Dev :=
  ((d.tellIssuer g o Status.collAbort 0).countOp g Status.collAbort).modOp g o.num fun o =>
    { o with who := none, core := none, use := .user }

/-- COLL_SHARE_DETACH: a receiver's share has stood at its cap beyond STALL_US and is detached at this device. An edge's flits are freed,
nothing more of the operation leaves by it, and the receivers beyond it are told (log entry 75). -/
def Dev.collShareDetach (g num : Nat) (edge : Option Nat) (d : Dev) : Dev :=
  match (d.group g).op num with
  | some o =>
    let stall := 1000 * orElse (d.get F.fabGrpCtl_stall_us g) 1
    let late : Bool := o.caps.any fun e => e.1 = edge && e.2 + stall < d.ns
    if !late || !d.collAtCap g o edge then d else
      let d := d.incSat F.fabGrpStat_detaches g
      match edge with
      | none => d.detachHere g o
      | some p =>
        let d := d.dropWaiting fun q x => q = p && downFlits g num x
        let d := d.modOp g num fun o => { o with cut := o.cut ++ [p], caps := o.caps.filter fun e => e.1 ≠ edge }
        d.enqueue p (flitsOf p 0xFFFF g (.collDetach num d.ownRank) 0)
  | none => d

/-- The edge toward this device has been detached from an operation. -/
def Dev.collDetachArrive (d : Dev) (g num : Nat) : Dev :=
  match (d.group g).op num with
  | some o => if o.issued.isSome && o.mine then d.detachHere g o else d
  | none => d

/-! ### The commands -/

/-- GROUP (R284). -/
def execGroup (q i : Nat) (s : State) : Host.Outcome State Fault Refusal :=
  run (Instr.wf (.group q i)) (Dev.groupCreate q i) s

/-- JOIN_RECEIVE (R284). -/
def execJoinReceive (group rank : Nat) (digest : List Byte) (s : State) : Host.Outcome State Fault Refusal :=
  run (Instr.wf (.joinReceive group rank digest)) (Dev.joinReceive group rank digest) s

/-- GROUP_JOIN_TIMEOUT (R284). -/
def execGroupJoinTimeout (group : Nat) (s : State) : Host.Outcome State Fault Refusal :=
  run (Instr.wf (.groupJoinTimeout group)) (Dev.groupJoinTimeout group) s

/-- COLL_DESTROY (R297). -/
def execCollDestroy (q i : Nat) (s : State) : Host.Outcome State Fault Refusal :=
  run (Instr.wf (.collDestroy q i)) (Dev.collDestroy q i) s

/-- ALL_REDUCE (R289). -/
def execAllReduce (q i : Nat) (rsp : TierRsp) (s : State) : Host.Outcome State Fault Refusal :=
  run (Instr.wf (.allReduce q i rsp)) (Dev.allReduce q i rsp) s

/-- REDUCE_SCATTER (R289). -/
def execReduceScatter (q i : Nat) (rsp : TierRsp) (s : State) : Host.Outcome State Fault Refusal :=
  run (Instr.wf (.reduceScatter q i rsp)) (Dev.reduceScatter q i rsp) s

/-- ALL_GATHER (R292). -/
def execAllGather (q i : Nat) (rsp : TierRsp) (s : State) : Host.Outcome State Fault Refusal :=
  run (Instr.wf (.allGather q i rsp)) (Dev.allGather q i rsp) s

/-- BROADCAST (R292). -/
def execBroadcast (q i : Nat) (rsp : TierRsp) (s : State) : Host.Outcome State Fault Refusal :=
  run (Instr.wf (.broadcast q i rsp)) (Dev.broadcast q i rsp) s

/-- BARRIER (R292). -/
def execBarrier (q i : Nat) (s : State) : Host.Outcome State Fault Refusal :=
  run (Instr.wf (.barrier q i)) (Dev.barrier q i) s

/-- COLL (R295). -/
def execColl (core seq offset : Nat) (rsp : TierRsp) (s : State) : Host.Outcome State Fault Refusal :=
  run (Instr.wf (.coll core seq offset rsp)) (Dev.coll core seq offset rsp) s

/-- COLL_WAIT (R295). -/
def execCollWait (core seq group n : Nat) (s : State) : Host.Outcome State Fault Refusal :=
  run (Instr.wf (.collWait core seq group n)) (Dev.collWait core seq group n) s

/-- COLL_STAT (R295). -/
def execCollStat (core seq group : Nat) (s : State) : Host.Outcome State Fault Refusal :=
  run (Instr.wf (.collStat core seq group)) (Dev.collStat core seq group) s

/-- COLL_ABORT_TIMEOUT (R296). -/
def execCollAbortTimeout (group op : Nat) (s : State) : Host.Outcome State Fault Refusal :=
  run (Instr.wf (.collAbortTimeout group op)) (Dev.collAbortTimeout group op) s

/-- ABORT_RECEIVE (R296). -/
def execAbortReceive (group op rank cause : Nat) (s : State) : Host.Outcome State Fault Refusal :=
  run (Instr.wf (.abortReceive group op rank cause)) (Dev.abortReceive group op rank cause) s

/-- COLL_SHARE_DETACH (R299). -/
def execCollShareDetach (group op : Nat) (edge : Option Nat) (s : State) : Host.Outcome State Fault Refusal :=
  run (Instr.wf (.collShareDetach group op edge)) (Dev.collShareDetach group op edge) s

end Sys2Proof.Machine
end

