-- ==== Sys2Proof/Machine/Rng.lean ====
section
/-! DEFINITION. The lagged-sum generator: seeding of a draw tile, draws, the two ports of a core (R217 to R223). -/

namespace Sys2Proof.Machine

/-- The mixing function of R219. -/
def mix64 (z : Word) : Word :=
  let z := (z ^^^ (z >>> 30)) * 0xBF58476D1CE4E5B9#64
  let z := (z ^^^ (z >>> 27)) * 0x94D049BB133111EB#64
  z ^^^ (z >>> 31)

/-- The hash of a draw tile (R219). -/
def tileHash (seed tensor : Word) (row col : Nat) : Word :=
  let c : Word := BitVec.ofNat 64 (row * 2 ^ 32 + col)
  mix64 (seed ^^^ mix64 (tensor ^^^ mix64 c))

/-- The 607 seed words of a draw tile, the first forced odd (R217, R219). -/
def tileSeed (seed tensor : Word) (row col : Nat) : List Word :=
  let h := tileHash seed tensor row col
  let xs := (List.range 607).map fun j => mix64 (h + BitVec.ofNat 64 (j + 1) * 0x9E3779B97F4A7C15#64)
  (xs.headD 0#64 ||| 1#64) :: xs.tail

/-- One word of the sequence: the window of 607 words moves on by x[n-607] + x[n-273] (R217). -/
def advance1 (w : List Word) : List Word := w.tail ++ [w.headD 0#64 + w.getD 334 0#64]

/-- `n` words of the sequence. -/
def advance : Nat → List Word → List Word
  | 0, w => w
  | n + 1, w => advance n (advance1 w)

/-- The upper half of the newest word of a window (R220). -/
def newest (w : List Word) : W32 := (w.getLastD 0#64).extractLsb' 32 32

/-- The draw tile of a coordinate, and the index within it (R218). -/
def tileOf (a b : Nat) : Nat × Nat := (a / 64, b / 64)
def indexOf (a b : Nat) : Nat := 64 * (a % 64) + b % 64

/-- draw32 (R220): the draw of tensor `tensor` at coordinate `(a, b)` under a seed. -/
def draw32 (seed tensor : Word) (a b : Nat) : W32 :=
  newest (advance (indexOf a b + 1) (tileSeed seed tensor (a / 64) (b / 64)))

/-- What one request of a port gives: the draw, the port after it, whether it reseeded, and the draws skipped. -/
structure PortDraw where
  value : W32
  port : GenPort
  reseeded : Bool
  skipped : Nat
  deriving DecidableEq, Repr

/-- A request for a draw at a port (R223): another tile, seed or tensor, or an index behind the state, reseeds; a later
index skips. -/
def portDraw (p : Option GenPort) (seed tensor : Word) (a b : Nat) : PortDraw :=
  let k := indexOf a b
  let fresh : GenPort := ⟨seed, tensor, a / 64, b / 64, 0, tileSeed seed tensor (a / 64) (b / 64)⟩
  let same := match p with
    | some g => g.seed = seed && g.tensor = tensor && g.row = a / 64 && g.col = b / 64 && g.index ≤ k
    | none => false
  let g := if same then p.getD fresh else fresh
  let w := advance (k - g.index + 1) g.words
  ⟨newest w, { g with index := k + 1, words := w }, !same, k - g.index⟩

/-- A draw at a core's port 0 (vector) or 1 (output), with its counts in RNG_STAT (R223). -/
def Dev.draw (d : Dev) (core port : Nat) (seed tensor : Word) (a b : Nat) : W32 × Dev :=
  let r := portDraw (SMap.find (d.core core).ports port) seed tensor a b
  let d := d.modCore core fun x => { x with ports := SMap.set x.ports port r.port }
  let d := if r.reseeded then d.incMod F.rngStat_tiles core else d
  let d := if r.skipped = 0 then d else d.incSat F.rngStat_skip_cyc core (ceilDiv r.skipped 256)
  (r.value, d)

/-- The draws of a list of coordinates at one port, in order. -/
def Dev.draws (d : Dev) (core port : Nat) (seed tensor : Word) : List (Nat × Nat) → List W32 × Dev
  | [] => ([], d)
  | (a, b) :: cs =>
    let (v, d) := d.draw core port seed tensor a b
    let (vs, d) := Dev.draws d core port seed tensor cs
    (v :: vs, d)

/-- The coordinates of a rectangle in the order in which the device draws them: tile by tile in row-major order, and
row-major within each tile (R218, R78). -/
def tileOrder (row0 col0 rows cols : Nat) : List (Nat × Nat) :=
  (List.range (ceilDiv (row0 + rows) 64 - row0 / 64)).flatMap fun tr =>
    (List.range (ceilDiv (col0 + cols) 64 - col0 / 64)).flatMap fun tc =>
      let r := row0 / 64 + tr
      let c := col0 / 64 + tc
      (List.range 64).flatMap fun a => (List.range 64).filterMap fun b =>
        let x := 64 * r + a
        let y := 64 * c + b
        if row0 ≤ x && x < row0 + rows && col0 ≤ y && y < col0 + cols then some (x, y) else none

/-- The draws of a rectangle of logical coordinates, answered in row-major order. -/
def Dev.drawRect (d : Dev) (core port : Nat) (seed tensor : Word) (row0 col0 rows cols : Nat) : List W32 × Dev :=
  let order := tileOrder row0 col0 rows cols
  let (vs, d) := d.draws core port seed tensor order
  let at' := (order.zip vs).foldl (fun (m : SMap W32) (p, v) => SMap.set m ((p.1 - row0) * cols + (p.2 - col0)) v) []
  ((List.range (rows * cols)).map fun i => SMap.get at' 0#32 i, d)

end Sys2Proof.Machine
end

