-- ==== Sys2Proof/Machine/Operands.lean ====
section
/-! DEFINITION. The operand forms of clause instructions: addresses, tensors under their format records, stores; how an
instruction waits for its unit, runs, or faults its context. -/

namespace Sys2Proof.Machine

/-- The run of an instruction over the device: it goes on, or faults the context with a status and an address. -/
abbrev ClauseM := EStateM (Nat × Nat) Dev

/-- The instruction that runs: context, core, sequencer, clause, and what lower tiers answer. -/
structure Env where
  c : Nat
  core : Nat
  seq : Nat
  y : Clause
  rsp : TierRsp
  deriving DecidableEq, Repr

/-- A learning clause is one whose GEN flag is clear. -/
def Env.learning (v : Env) : Bool := !v.y.gen

/-- For whom a clause reads weight banks (R49, R196): its pool's step, or a generation clause that a LAUNCH placed. -/
def Env.reader (v : Env) : Option (Nat × Nat) :=
  match v.y.ref with
  | .step ctx pool _ => some (ctx, pool)
  | .desc .. => if v.y.gen then some (v.c, launchKey v.y.id) else none

/-- The job seed that the clause's draws use (R224). -/
def Env.seed (v : Env) (d : Dev) : Word :=
  if v.learning then BitVec.ofNat 64 (d.reg .rngSeedLive v.c) else v.y.seed

/-- Fault the context. -/
def trap {α : Type} (status va : Nat) : ClauseM α := throw (status, va)

/-- The latched loss scale as its clauses read it: an exact FP32 power of two (R86). -/
def Dev.lossFactor (d : Dev) (c : Nat) : W32 := toF32 (.fin false 1 ((d.ctx c).latLsExp : Int))

/-- A scalar operand's value. -/
def Env.scalar (v : Env) (d : Dev) : Scalar → W32
  | .imm w => w
  | .lossScale => d.lossFactor v.c

/-- Change the device. -/
def update (f : Dev → Dev) : ClauseM Unit := modify f

/-- Run an instruction that needs a unit: it waits where the current entry of the slot table gives its sequencer none of the units,
one stall cycle under SLOT (R28); else it issues, addresses the local-store banks of its operands (R30), and runs or faults the
context (R34). -/
def Dev.instr (d : Dev) (core seq : Nat) (units : List Nat) (spans : List (Word × Nat)) (rsp : TierRsp) (m : Env → ClauseM Unit) : Dev :=
  d.withClause core seq fun c y d =>
    if !units.isEmpty && !units.any (d.slotGives core seq) then d.stalls core seq Cause.slot
    else
      match m ⟨c, core, seq, y, rsp⟩ (d.issuesOn core seq units spans) with
      | .ok _ d => d
      | .error (st, va) d => d.faultCtx c st core seq va

/-- The units of the slot table: any engine, or the vector unit. -/
def engines : List Nat := [0, 1, 2, 3]
def vectorUnit : List Nat := [4]

/-! ### Bytes -/

/-- Bytes at an address of Table 12.2 (`none`: the lower tier did not answer with data, R250). -/
def getBytes (v : Env) (w : Word) (n : Nat) : ClauseM (List (Option Byte)) := do
  let d ← get
  match Addr.of w.toNat with
  | .va a =>
    let (g, d) := d.readVa v.c v.reader v.rsp a n
    set d
    match g.bad with
    | some (st, va) => if st = Status.pageFault then trap st va else pure g.bytes
    | none => pure g.bytes
  | .ls k off =>
    if d.ownsCore v.c k && off + n ≤ storeBytes then pure ((d.lsRead k off n).map some) else trap Status.integrity 0
  | .bad => trap Status.integrity 0

/-- Bytes that an instruction needs to go on at all (a table, a record); where a tier fails they read as zero bytes. -/
def needBytes (v : Env) (w : Word) (n : Nat) : ClauseM (List Byte) := do
  return (← getBytes v w n).map (·.getD 0)

/-- A store of one piece that lies in the header range of a live rollout: only SCORE, bytes 14 and 15, is written
(R119). -/
def storeHeader (v : Env) (va : Nat) (bs : List Byte) : ClauseM Unit := do
  let cells := (List.range bs.length).map fun i => (va + i, bs.getD i 0)
  let ok := cells.filter fun e => e.1 % 64 = 14 || e.1 % 64 = 15
  if ok.length < cells.length then update fun d => d.put F.kvStat_hdr_wr v.c 1
  ok.forM fun e => do
    let (st, d) := (← get).prepWrite v.c v.rsp e.1 none
    set d
    match st with
    | none => update fun d => d.land v.c e.1 [e.2]
    | some _ => pure ()

/-- A clause store or output write of one piece (R233, R250, Table 11.8): PAGE_FAULT and QUOTA fault the context, a
failed request loses the write and a learning clause sets OVF; an append that the KV rules discard is lost (R123). -/
def storePiece (v : Env) (info : Option HdrInfo) (va : Nat) (bs : List Byte) : ClauseM Unit := do
  let d ← get
  match d.kvPlace v.c va with
  | some (.header ..) => storeHeader v va bs
  | _ =>
    let (st, d) := d.prepWrite v.c v.rsp va info
    set d
    match st with
    | none => update fun d => d.land v.c va bs
    | some s =>
      if s = Status.pageFault || s = Status.quota then trap s va
      else if s = kvDiscarded then pure ()
      else update fun d => d.raiseOvf v.c v.core v.learning

/-- Store bytes at an address of Table 12.2. -/
def putBytes (v : Env) (w : Word) (bs : List Byte) (info : Option HdrInfo := none) : ClauseM Unit := do
  match Addr.of w.toNat with
  | .va a => (pieces a bs).forM fun p => storePiece v info p.1 p.2
  | .ls k off =>
    let d ← get
    if d.ownsCore v.c k && off + bs.length ≤ storeBytes then update fun d => d.lsWrite k off bs
    else trap Status.integrity 0
  | .bad => trap Status.integrity 0

/-! ### Tensors (R66, R69, R70) -/

/-- An element as read: its value without scales, and the value of its block scale (1 where there is none). -/
structure Elt where
  e : Ext
  s : Ext
  deriving DecidableEq, Repr

/-- Extent along the block axis, padded to whole blocks. -/
def padTo (n b : Nat) : Nat := if b = 0 then n else ceilDiv n b * b

/-- Elements that a matrix of `rows` by `cols` occupies: with blocks, the block axis is contiguous and padded (R66). A matrix has
extent 1 along a dimension above 1: blocks along it hold one element each (log entry 27). -/
def TRec.count (r : TRec) (rows cols : Nat) : Nat :=
  let b := blockSize r.fmt
  if b = 0 then rows * cols
  else if r.axis = 0 then cols * padTo rows b else if r.axis = 1 then rows * padTo cols b else rows * cols * b

/-- Place of element `(i, j)` in the element array. -/
def TRec.index (r : TRec) (rows cols i j : Nat) : Nat :=
  let b := blockSize r.fmt
  if b = 0 then i * cols + j
  else if r.axis = 0 then j * padTo rows b + i else if r.axis = 1 then i * padTo cols b + j else (i * cols + j) * b

/-- Number of blocks. -/
def TRec.blocks (r : TRec) (rows cols : Nat) : Nat :=
  let b := blockSize r.fmt
  if b = 0 then 0 else if r.axis = 0 then cols * ceilDiv rows b else if r.axis = 1 then rows * ceilDiv cols b else rows * cols

/-- The block of element `(i, j)`. -/
def TRec.block (r : TRec) (rows cols i j : Nat) : Nat :=
  let b := blockSize r.fmt
  if b = 0 then 0
  else if r.axis = 0 then j * ceilDiv rows b + i / b else if r.axis = 1 then i * ceilDiv cols b + j / b else i * cols + j

/-- The bytes of a tensor operand: its elements and its block scales. -/
def TRef.spans (t : TRef) (rows cols : Nat) : List (Word × Nat) :=
  let r := TRec.ofWords t.recLo.toNat t.recHi.toNat
  [(t.addr, elemBytes r.fmt (r.count rows cols)), (BitVec.ofNat 64 r.scaleRef, r.blocks rows cols)]

/-- Element `i` of bytes read, unless one of its bytes failed. -/
def optElem (fmt : Nat) (bs : List (Option Byte)) (i : Nat) : Option Nat :=
  let b := elemBits fmt
  let lo := i * b
  let cut := (bs.drop (lo / 8)).take (ceilDiv (lo % 8 + b) 8)
  if cut.all (·.isSome) then some (bitsOf (leNat (cut.map (·.getD 0))) (lo % 8) b) else none

/-- Check a record that an instruction meets: code 0xF, or FP32 for an engine operand, is FORMAT_UNKNOWN (R60, R61);
the checks of R69 are INTEGRITY. -/
def checkRec (r : TRec) (engine dest : Bool) : ClauseM Unit := do
  if r.fmt = 0xF || (engine && r.fmt = 0) then trap Status.formatUnknown 0
  if !r.okR69 dest then trap Status.integrity 0

/-- Read a tensor of `rows` by `cols`: an element whose bytes, or whose block scale, a lower tier failed to deliver is
NaN (R250). -/
def fetch (v : Env) (t : TRef) (rows cols : Nat) (engine : Bool) : ClauseM (TRec × List (List Elt)) := do
  let r := TRec.ofWords t.recLo.toNat t.recHi.toNat
  checkRec r engine false
  let bs ← getBytes v t.addr (elemBytes r.fmt (r.count rows cols))
  let ss ← getBytes v (BitVec.ofNat 64 r.scaleRef) (r.blocks rows cols)
  return (r, (List.range rows).map fun i => (List.range cols).map fun j =>
    let e := optElem r.fmt bs (r.index rows cols i j)
    let s := if blockSize r.fmt = 0 then some (Ext.ofNat 1) else
      match ss.getD (r.block rows cols i j) none with
      | some b => some (scaleVal r.fmt b.toNat)
      | none => none
    match e, s with
    | some e, some s => ⟨decodeElem r.fmt e, s⟩
    | _, _ => ⟨.nan, .ofNat 1⟩)

/-- The value of an element under its record, rounded to FP32 as the vector unit takes it (R67). -/
def Elt.val (r : TRec) (x : Elt) : W32 := toF32 (scaledVal r.fmt r.ts x.s x.e)

/-- Read a tensor as FP32 values, row by row. -/
def fetchF32 (v : Env) (t : TRef) (rows cols : Nat) : ClauseM (List (List W32)) := do
  let (r, xs) ← fetch v t rows cols false
  return xs.map fun row => row.map (Elt.val r)

/-- The record words of a plain FP32 tensor. -/
def fp32Ref (w : Word) : TRef := ⟨w, BitVec.ofNat 64 (0x3F800000 * 2 ^ 32), 0#64⟩

/-- Read an FP32 row-major matrix. -/
def fetchPlain (v : Env) (w : Word) (rows cols : Nat) : ClauseM (List (List W32)) := fetchF32 v (fp32Ref w) rows cols

/-- FP32 values as bytes. -/
def f32Bytes (ws : List W32) : List Byte := ws.flatMap fun w => leBytes 4 w.toNat

/-- Write an FP32 row-major matrix as a vector-unit or engine result, with its flags. -/
def putF32 (v : Env) (w : Word) (rows : List (List W32)) : ClauseM Unit := do
  update fun d => d.flagResults v.c v.core v.learning rows.flatten
  putBytes v w (f32Bytes rows.flatten)

/-! ### Conversion (R65, R77 to R82) -/

/-- Transpose a matrix of `cols` columns. -/
def transpose {α : Type} (dflt : α) (cols : Nat) (rows : List (List α)) : List (List α) :=
  (List.range cols).map fun j => rows.map fun r => r.getD j dflt

/-- The rounding of each element of a matrix: nearest, or stochastic with one draw for each element at a port (R78). A tensor ID
below 2^40 is refused wherever RND is 1, for FP32 too, which takes no draw (R222). -/
def rounds (v : Env) (r : TRec) (port : Nat) (tensor : Word) (row0 col0 rows cols : Nat) : ClauseM (List (List Round)) := do
  if r.rnd = 1 && tensor.toNat < 2 ^ 40 then trap Status.integrity 0
  if r.rnd = 1 && r.fmt ≠ 0 then
    let d ← get
    let (us, d) := d.drawRect v.core port (v.seed d) tensor row0 col0 rows cols
    set d
    return chunksOf cols (us.map fun u => Round.stochastic (u.toNat / 2 ^ 16))
  else return List.replicate rows (List.replicate cols Round.nearest)

/-- Pad the codes of one line to whole blocks with zero elements. -/
def padLine (fmt : Nat) (xs : List Nat) : List Nat := xs ++ List.replicate (padTo xs.length (blockSize fmt) - xs.length) 0

/-- The lines along which a record's blocks run: its columns, its rows, or its single elements. -/
def TRec.lines {α : Type} (r : TRec) (dflt : α) (cols : Nat) (rows : List (List α)) : List (List α) :=
  if blockSize r.fmt = 0 || r.axis = 1 then rows else if r.axis = 0 then transpose dflt cols rows else rows.flatten.map fun x => [x]

/-- Write a matrix of values under a destination record: the block scales are formed from the values (`given` false) or
read from the record's scale array (`given` true, as a scale pass left them). -/
def writeConv (v : Env) (r : TRec) (w : Word) (given : Bool) (rds : List (List Round)) (xs : List (List W32)) (cols : Nat) :
    ClauseM Unit := do
  let rows := xs.length
  let pairs := (xs.zip rds).map fun (a, b) => (a.map f32).zip b
  let lines := r.lines (Ext.zero false, Round.nearest) cols pairs
  let useGiven := given && blockSize r.fmt ≠ 0
  let scales ← if useGiven then getBytes v (BitVec.ofNat 64 r.scaleRef) (r.blocks rows cols) else pure []
  let per := if blockSize r.fmt = 0 then 0 else ceilDiv (lines.headD []).length (blockSize r.fmt)
  let runs := (List.range lines.length).map fun i =>
    let mine := (scales.drop (i * per)).take per
    let line := lines.getD i []
    if useGiven then
      convRow r.fmt r.nonsat r.ts (some (mine.map fun b => match b with | some b => b.toNat | none => 0))
        ((List.range line.length).map fun j =>
          let x := line.getD j (Ext.zero false, Round.nearest)
          if (mine.getD (j / blockSize r.fmt) none).isNone then (Ext.nan, x.2) else x)
    else convRow r.fmt r.nonsat r.ts none line
  update fun d => d.flagConv v.c v.core v.learning r.satOvf (runs.any (·.sat)) (runs.any (·.badIn))
  putBytes v w (packElems r.fmt (runs.flatMap fun x => padLine r.fmt x.elems))
  if blockSize r.fmt ≠ 0 && !given then
    putBytes v (BitVec.ofNat 64 r.scaleRef) ((runs.flatMap (·.scales)).map fun s => BitVec.ofNat 8 s)

/-- Write a matrix of FP32 values under a record, with the block scales formed as they are written along the row; other
block axes fault (R82). -/
def writeOut (v : Env) (r : TRec) (w : Word) (rds : List (List Round)) (xs : List (List W32)) (cols : Nat) : ClauseM Unit := do
  if blockSize r.fmt ≠ 0 && r.axis ≠ 1 then trap Status.integrity 0
  writeConv v r w false rds xs cols

end Sys2Proof.Machine
end

