-- ==== Sys2Proof/Machine/Numerics.lean ====
section
/-! DEFINITION. The engine and vector instructions of the number formats: matrix products, output paths, conversions,
scale passes, draws (R71 to R83, R217 to R223). -/

namespace Sys2Proof.Machine

/-! ### Dot products (R72 to R75) -/

/-- An operand element as the engine widens it: FB times its block scale; MX scales stay outside (R67, R72). A TSCALE
that is not finite makes it NaN, a TSCALE of 0 makes a NaN or an infinity 0 (R70). -/
def wide (r : TRec) (x : Elt) : Ext :=
  let e := if isFb r.fmt then Ext.mul x.s x.e else x.e
  if (f32 r.ts).bad then .nan else if (f32 r.ts).isZero && e.bad then Ext.zero false else e

/-- The scale that an operand's element contributes outside the array: the MX block scale, else 1. -/
def outside (r : TRec) (x : Elt) : Ext := if isMx r.fmt then x.s else .ofNat 1

/-- The contribution t of one group (R74): products, and the scales of its first pair. -/
def groupTerm (ps : List Ext) (s : Ext) : W32 :=
  if ps.any (·.isNan) || s.isNan then qnan
  else
    let plus := ps.any fun p => match p with | .inf n => !n | _ => false
    let minus := ps.any fun p => match p with | .inf n => n | _ => false
    if plus && minus then qnan else if plus then infPos else if minus then infNeg
    else toF32 (Ext.mul (ps.foldl Ext.add (Ext.zero false)) s)

/-- The dot product of two element lists: its value before tensor scales, and every FP32 value that the accumulator
held (R74, R75). -/
def dotAcc (ra rb : TRec) (group : Nat) (a b : List Elt) : W32 × List W32 :=
  let pairs := a.zip b
  if ra.fmt = 1 || rb.fmt = 1 then
    pairs.foldl (fun (r : W32 × List W32) (x, y) =>
      let p := Ext.mul (Ext.mul (wide ra x) (wide rb y)) (Ext.mul (outside ra x) (outside rb y))
      let acc := toF32 (Ext.add (f32 r.1) p)
      (acc, r.2 ++ [acc])) (0#32, [])
  else
    let n := if isMx ra.fmt || isMx rb.fmt then 32 else group
    (chunksOf n pairs).foldl (fun (r : W32 × List W32) g =>
      let s := match g with | (x, y) :: _ => Ext.mul (outside ra x) (outside rb y) | [] => .ofNat 1
      let t := groupTerm (g.map fun (x, y) => Ext.mul (wide ra x) (wide rb y)) s
      let acc := fadd r.1 t
      (acc, r.2 ++ [acc])) (0#32, [])

/-- The factor `round_fp32(ta * tb)` of R74. -/
def tsFactor (ra rb : TRec) : W32 :=
  fmul (if isScaledPlain ra.fmt || isFb ra.fmt then ra.ts else one32) (if isScaledPlain rb.fmt || isFb rb.fmt then rb.ts else one32)

/-- y of R74, with the accumulator's values before it. -/
def dot (ra rb : TRec) (group : Nat) (a b : List Elt) : W32 × List W32 :=
  let (acc, h) := dotAcc ra rb group a b
  let y := fmul acc (tsFactor ra rb)
  (y, h ++ [y])

/-- A group size of R73. -/
def groupOk (g : Nat) : Bool := g = 32 || g = 64 || g = 128

/-- Check the operands of a product: a legal group size, and blocks along K (R66, R73). -/
def checkDot (ra rb : TRec) (group : Nat) : ClauseM Unit := do
  if !groupOk group || (blockSize ra.fmt ≠ 0 && ra.axis ≠ 1) || (blockSize rb.fmt ≠ 0 && rb.axis ≠ 1) then trap Status.integrity 0

/-- The matrix instruction: Y[i][j] is the dot product of row i of A and row j of B (R73 to R75). -/
def matrixM (op : MatOp) (v : Env) : ClauseM Unit := do
  let (ra, a) ← fetch v op.a op.m op.k true
  let (rb, b) ← fetch v op.b op.n op.k true
  checkDot ra rb op.group
  let ys := a.map fun x => b.map fun y => dot ra rb op.group x y
  update fun d => d.flagResults v.c v.core v.learning (ys.flatten.flatMap (·.2))
  putBytes v op.y (f32Bytes (ys.flatten.map (·.1)))

/-- The bytes that a matrix instruction addresses. -/
def MatOp.spans (op : MatOp) : List (Word × Nat) := TRef.spans op.a op.m op.k ++ TRef.spans op.b op.n op.k ++ [(op.y, 4 * (op.m * op.n))]

/-- MATRIX_INSTRUCTION (R71 to R76). The malformed part of an image faults the context on the core that meets it (R57). -/
def Dev.matrixInstruction (core seq : Nat) (op : MatOp) (rsp : TierRsp) (d : Dev) : Dev :=
  if op.malformed then d.withClause core seq fun c _ d => d.faultCtx c Status.integrity core seq 0
  else d.instr core seq engines (MatOp.spans op) rsp (matrixM op)

def execMatrixInstruction (core seq : Nat) (op : MatOp) (rsp : TierRsp) (s : State) : Host.Outcome State Fault Refusal :=
  run (Instr.wf (.matrixInstruction core seq op rsp)) (Dev.matrixInstruction core seq op rsp) s

/-- The output path: convert FP32 results at the output port, forming block scales along the row (R78, R81, R82). -/
def outputM (op : ConvOp) (v : Env) : ClauseM Unit := do
  let xs ← fetchF32 v op.src op.rows op.cols
  let r := TRec.ofWords op.dst.recLo.toNat op.dst.recHi.toNat
  checkRec r false true
  let rds ← rounds v r 1 op.tensor op.row0 op.col0 op.rows op.cols
  writeOut v r op.dst.addr rds xs op.cols

/-- The bytes that a conversion addresses. -/
def ConvOp.spans (op : ConvOp) : List (Word × Nat) := TRef.spans op.src op.rows op.cols ++ TRef.spans op.dst op.rows op.cols

/-- ENGINE_OUTPUT_WRITE (R82). -/
def Dev.engineOutputWrite (core seq : Nat) (op : ConvOp) (rsp : TierRsp) (d : Dev) : Dev :=
  d.instr core seq engines (ConvOp.spans op) rsp (outputM op)

def execEngineOutputWrite (core seq : Nat) (op : ConvOp) (rsp : TierRsp) (s : State) : Host.Outcome State Fault Refusal :=
  run (Instr.wf (.engineOutputWrite core seq op rsp)) (Dev.engineOutputWrite core seq op rsp) s

/-- The conversion instruction: convert under the scales that the record and its scale array give (R81, R82). -/
def conversionM (op : ConvOp) (v : Env) : ClauseM Unit := do
  let xs ← fetchF32 v op.src op.rows op.cols
  let r := TRec.ofWords op.dst.recLo.toNat op.dst.recHi.toNat
  checkRec r false true
  let rds ← rounds v r 0 op.tensor op.row0 op.col0 op.rows op.cols
  writeConv v r op.dst.addr true rds xs op.cols

/-- CONVERSION_INSTRUCTION (R81). -/
def Dev.conversionInstruction (core seq : Nat) (op : ConvOp) (rsp : TierRsp) (d : Dev) : Dev :=
  d.instr core seq vectorUnit (ConvOp.spans op) rsp (conversionM op)

def execConversionInstruction (core seq : Nat) (op : ConvOp) (rsp : TierRsp) (s : State) : Host.Outcome State Fault Refusal :=
  run (Instr.wf (.conversionInstruction core seq op rsp)) (Dev.conversionInstruction core seq op rsp) s

/-- The scale pass (R79, R80): the tensor scale of FB and plain codes is written where the operand says, and the block
scales of FB and MX at the record's SCALE_REF. -/
def scaleM (op : ScaleOp) (v : Env) : ClauseM Unit := do
  let xs ← fetchF32 v op.src op.rows op.cols
  let r := TRec.ofWords op.dst.recLo.toNat op.dst.recHi.toNat
  checkRec r false false
  let vals := xs.map fun row => row.map f32
  let ts := if isFb r.fmt || isScaledPlain r.fmt then tensorScale r.fmt (amaxOf (f32 op.amaxIn :: vals.flatten)) else one32
  if isFb r.fmt || isScaledPlain r.fmt then putF32 v op.tsOut [[ts]]
  if blockSize r.fmt ≠ 0 then
    putBytes v (BitVec.ofNat 64 r.scaleRef)
      ((r.lines (Ext.zero false) op.cols vals).flatMap fun l => (chunksOf (blockSize r.fmt) l).map fun b => BitVec.ofNat 8 (blockScale r.fmt ts (amaxOf b)))

/-- SCALE_FORMING_INSTRUCTION (R80). -/
def Dev.scaleFormingInstruction (core seq : Nat) (op : ScaleOp) (rsp : TierRsp) (d : Dev) : Dev :=
  d.instr core seq vectorUnit (TRef.spans op.src op.rows op.cols ++ TRef.spans op.dst op.rows op.cols) rsp (scaleM op)

def execScaleFormingInstruction (core seq : Nat) (op : ScaleOp) (rsp : TierRsp) (s : State) : Host.Outcome State Fault Refusal :=
  run (Instr.wf (.scaleFormingInstruction core seq op rsp)) (Dev.scaleFormingInstruction core seq op rsp) s

/-- The vector draw: the draws of a rectangle of logical coordinates at the vector port (R222, R223). -/
def vectorDrawM (op : DrawOp) (v : Env) : ClauseM Unit := do
  if op.tensor.toNat < 2 ^ 40 then trap Status.integrity 0
  let d ← get
  let (us, d) := d.drawRect v.core 0 (v.seed d) op.tensor op.row0 op.col0 op.rows op.cols
  set d
  putBytes v op.dst (f32Bytes us)

/-- VECTOR_DRAW (R223). -/
def Dev.vectorDraw (core seq : Nat) (op : DrawOp) (d : Dev) : Dev := 
  d.instr core seq vectorUnit [(op.dst, 4 * (op.rows * op.cols))] [] (vectorDrawM op)

def execVectorDraw (core seq : Nat) (op : DrawOp) (s : State) : Host.Outcome State Fault Refusal :=
  run (Instr.wf (.vectorDraw core seq op)) (Dev.vectorDraw core seq op) s

end Sys2Proof.Machine
end

