-- ==== Sys2Proof/Machine/VectorOps.lean ====
section
/-! DEFINITION. The vector instructions of a learning step: activations and their backward rules, dropout, normalisation
backward, the vocabulary head (R100, R154 to R164). -/

namespace Sys2Proof.Machine

/-! ### Bit tensors (R155) -/

/-- Rows of bits as bytes: each row padded to whole 64-bit words. -/
def bitBytes (rows : List (List Bool)) : List Byte :=
  rows.flatMap fun r => leBytes (ceilDiv r.length 64 * 8) (packNat 1 (r.map fun b => if b then 1 else 0))

/-- Read a bit tensor. -/
def fetchBits (v : Env) (w : Word) (rows cols : Nat) : ClauseM (List (List Bool)) := do
  let per := ceilDiv cols 64 * 8
  let bs ← needBytes v w (rows * per)
  return (List.range rows).map fun i =>
    let n := leNat ((bs.drop (i * per)).take per)
    (List.range cols).map fun j => bitOf n j

/-- `x > y` of FP32 values; false for a NaN. -/
def fgt (x y : W32) : Bool := !(f32 x).isNan && !(f32 y).isNan && Ext.lt (f32 y) (f32 x)

/-! ### Activations (R154) -/

/-- The mask bit that a forward activation keeps; a NaN or -0 input gives 0 (Table 7.1). -/
def keepBit (k : ActKind) (x : W32) : Bool :=
  match k with
  | .clamp lo hi => x != 0x80000000#32 && (fgt x lo && fgt hi x)
  | _ => fgt x 0#32

/-- The output of an element-wise activation. A NaN input gives NaN (R63; log entry 26). -/
def actVal (k : ActKind) (x x2 : W32) : W32 :=
  match k with
  | .relu => if (f32 x).isNan then qnan else if keepBit k x then x else 0#32
  | .leaky a => if keepBit k x then x else fmul x a
  | .clamp lo hi => if (f32 x).isNan then qnan else if fgt x lo && fgt hi x then x else if fgt x lo then hi else lo
  | .gelu => Sys2Proof.Config.gelu x
  | .silu => fmul x (flogistic x)
  | .gated => fmul (Sys2Proof.Config.gate x) x2
  | .rmsNorm _ => x
  | .meanVarNorm _ => x

/-- FP32 of a count. -/
def natF32 (n : Nat) : W32 := toF32 (.ofNat n)

/-- Sum of a row in ascending order. -/
def rowSum (xs : List W32) : W32 := fsum 0#32 xs

/-- `1 / sqrt(m + eps)` of R161's kept r. -/
def invRoot (m eps : W32) : W32 := fdiv one32 (fsqrt (fadd m eps))

/-- A normalised row: mean, r, output (Table 7.1). -/
def normRow (meanVar : Bool) (eps : W32) (xs gamma : List W32) : W32 × W32 × List W32 :=
  let n := natF32 xs.length
  let mu := if meanVar then fdiv (rowSum xs) n else 0#32
  let ys := if meanVar then xs.map fun x => fsub x mu else xs
  let r := invRoot (fdiv (rowSum (ys.map fun y => fmul y y)) n) eps
  (mu, r, (ys.zip gamma).map fun (y, g) => fmul (fmul y r) g)

/-- Keep the input in the code that the kept record names (Table 7.1). -/
def keepInput (v : Env) (t : TRef) (xs : List (List W32)) (cols : Nat) : ClauseM Unit := do
  if t.addr ≠ 0 then
    let r := TRec.ofWords t.recLo.toNat t.recHi.toNat
    checkRec r false true
    if r.fmt = 0 || r.rnd = 1 then trap Status.integrity 0
    writeOut v r t.addr (xs.map fun x => x.map fun _ => Round.nearest) xs cols

/-- An activation with one output for each element. -/
def actM (op : ActOp) (v : Env) : ClauseM Unit := do
  let xs ← fetchF32 v op.x op.rows op.cols
  match op.kind with
  | .rmsNorm eps => norm false eps xs
  | .meanVarNorm eps => norm true eps xs
  | .gated =>
    let x2 ← fetchPlain v op.x2 op.rows op.cols
    keepInput v op.kept xs op.cols
    putF32 v op.y ((xs.zip x2).map fun (a, b) => (a.zip b).map fun (x, y) => actVal op.kind x y)
  | .gelu => plain xs
  | .silu => plain xs
  | .relu => masked xs
  | .leaky _ => masked xs
  | .clamp _ _ => masked xs
where
  plain (xs : List (List W32)) : ClauseM Unit := do
    keepInput v op.kept xs op.cols
    putF32 v op.y (xs.map fun r => r.map fun x => actVal op.kind x 0#32)
  masked (xs : List (List W32)) : ClauseM Unit := do
    if op.kept.addr ≠ 0 then putBytes v op.kept.addr (bitBytes (xs.map fun r => r.map (keepBit op.kind)))
    putF32 v op.y (xs.map fun r => r.map fun x => actVal op.kind x 0#32)
  norm (meanVar : Bool) (eps : W32) (xs : List (List W32)) : ClauseM Unit := do
    let gamma := (← fetchPlain v op.x2 1 op.cols).headD []
    let rs := xs.map fun x => normRow meanVar eps x gamma
    if op.kept.addr ≠ 0 then
      putF32 v op.kept.addr [rs.map (·.2.1)]
      if meanVar then putF32 v op.aux [rs.map (·.1)]
    putF32 v op.y (rs.map (·.2.2))

/-- The bytes that an activation addresses. -/
def ActOp.spans (op : ActOp) : List (Word × Nat) :=
  let n := 4 * (op.rows * op.cols)
  let second := match op.kind with
    | .gated => n
    | .rmsNorm _ => 4 * op.cols
    | .meanVarNorm _ => 4 * op.cols
    | .relu => 0
    | .leaky _ => 0
    | .clamp _ _ => 0
    | .gelu => 0
    | .silu => 0
  TRef.spans op.x op.rows op.cols ++ [(op.x2, second), (op.y, n)] ++ (if op.kept.addr = 0 then [] else keptSpans op.kind op.kept op.rows op.cols)
where
  keptSpans (k : ActKind) (t : TRef) (rows cols : Nat) : List (Word × Nat) :=
    match k with
    | .relu => [(t.addr, rows * (ceilDiv cols 64 * 8))]
    | .leaky _ => [(t.addr, rows * (ceilDiv cols 64 * 8))]
    | .clamp _ _ => [(t.addr, rows * (ceilDiv cols 64 * 8))]
    | .rmsNorm _ => [(t.addr, 4 * rows)]
    | .meanVarNorm _ => [(t.addr, 4 * rows)]
    | .gelu => TRef.spans t rows cols
    | .silu => TRef.spans t rows cols
    | .gated => TRef.spans t rows cols

/-- ACTIVATION_INSTRUCTION (R154). -/
def Dev.activationInstruction (core seq : Nat) (op : ActOp) (rsp : TierRsp) (d : Dev) : Dev :=
  d.instr core seq vectorUnit (ActOp.spans op) rsp (actM op)

def execActivationInstruction (core seq : Nat) (op : ActOp) (rsp : TierRsp) (s : State) : Host.Outcome State Fault Refusal :=
  run (Instr.wf (.activationInstruction core seq op rsp)) (Dev.activationInstruction core seq op rsp) s

/-- A backward activation (Table 7.1, last column). Normalisation has an instruction of its own (R161): naming it here
is malformed (R57). -/
def actBackM (op : ActBwOp) (v : Env) : ClauseM Unit := do
  let dy ← fetchPlain v op.dy op.rows op.cols
  match op.kind with
  | .relu => masked dy fun _ => 0#32
  | .clamp _ _ => masked dy fun _ => 0#32
  | .leaky a => masked dy fun g => fmul g a
  | .gelu => smooth dy Sys2Proof.Config.geluGrad
  | .silu => smooth dy Sys2Proof.Config.siluGrad
  | .gated =>
    let xs ← fetchF32 v op.kept op.rows op.cols
    let x2 ← fetchPlain v op.x2 op.rows op.cols
    let three := (dy.zip (xs.zip x2)).map fun (g, x, y) => g.zip (x.zip y)
    putF32 v op.dx (three.map fun r => r.map fun (g, x, y) => fmul (fmul g y) (Sys2Proof.Config.gateGrad x))
    putF32 v op.dx2 (three.map fun r => r.map fun (g, x, _) => fmul g (Sys2Proof.Config.gate x))
  | .rmsNorm _ => trap Status.integrity 0
  | .meanVarNorm _ => trap Status.integrity 0
where
  masked (dy : List (List W32)) (drop : W32 → W32) : ClauseM Unit := do
    let bits ← fetchBits v op.kept.addr op.rows op.cols
    putF32 v op.dx ((dy.zip bits).map fun (g, b) => (g.zip b).map fun (g, b) => if b then g else drop g)
  smooth (dy : List (List W32)) (grad : W32 → W32) : ClauseM Unit := do
    let xs ← fetchF32 v op.kept op.rows op.cols
    putF32 v op.dx ((dy.zip xs).map fun (g, x) => (g.zip x).map fun (g, x) => fmul g (grad x))

/-- The bytes that a backward activation addresses. -/
def ActBwOp.spans (op : ActBwOp) : List (Word × Nat) :=
  let n := 4 * (op.rows * op.cols)
  let x2 := match op.kind with
    | .gated => [(op.x2, n), (op.dx2, n)]
    | .relu => []
    | .leaky _ => []
    | .clamp _ _ => []
    | .gelu => []
    | .silu => []
    | .rmsNorm _ => []
    | .meanVarNorm _ => []
  [(op.dy, n), (op.dx, n)] ++ ActOp.spans.keptSpans op.kind op.kept op.rows op.cols ++ x2

/-- ACTIVATION_BACKWARD (R154). -/
def Dev.activationBackward (core seq : Nat) (op : ActBwOp) (rsp : TierRsp) (d : Dev) : Dev :=
  d.instr core seq vectorUnit (ActBwOp.spans op) rsp (actBackM op)

def execActivationBackward (core seq : Nat) (op : ActBwOp) (rsp : TierRsp) (s : State) : Host.Outcome State Fault Refusal :=
  run (Instr.wf (.activationBackward core seq op rsp)) (Dev.activationBackward core seq op rsp) s

/-! ### Dropout (R156) -/

/-- One element: dropped when its draw is below THR. -/
def dropVal (thr scl x u : W32) : W32 := if u.toNat < thr.toNat then 0#32 else fmul x scl

/-- Dropout, forward and backward alike. -/
def dropoutM (op : DropOp) (v : Env) : ClauseM Unit := do
  if op.tensor.toNat < 2 ^ 40 then trap Status.integrity 0
  let xs ← fetchPlain v op.src op.rows op.cols
  let d ← get
  let scl := v.scalar d op.scl
  let (us, d) := d.drawRect v.core 0 (v.seed d) op.tensor op.row0 op.col0 op.rows op.cols
  set d
  putF32 v op.dst ((xs.zip (chunksOf op.cols us)).map fun (x, u) => (x.zip u).map fun (x, u) => dropVal op.thr scl x u)

/-- DROPOUT_INSTRUCTION (R156). -/
def Dev.dropoutInstruction (core seq : Nat) (op : DropOp) (rsp : TierRsp) (d : Dev) : Dev :=
  d.instr core seq vectorUnit [(op.src, 4 * (op.rows * op.cols)), (op.dst, 4 * (op.rows * op.cols))] rsp (dropoutM op)

def execDropoutInstruction (core seq : Nat) (op : DropOp) (rsp : TierRsp) (s : State) : Host.Outcome State Fault Refusal :=
  run (Instr.wf (.dropoutInstruction core seq op rsp)) (Dev.dropoutInstruction core seq op rsp) s

/-! ### Normalisation backward (R161, Table 7.3) -/

/-- One row as this core holds it: g and the centred x. -/
structure NormRow where
  g : List W32
  dy : List W32
  xc : List W32
  r : W32
  deriving DecidableEq, Repr

/-- The partial row sums a and c of a core, before division by n. -/
def normPartial (meanVar : Bool) (w : NormRow) : W32 × W32 :=
  (rowSum w.g, rowSum ((w.g.zip w.xc).map fun (g, x) => if meanVar then fmul (fmul g x) w.r else fmul g x))

/-- Number a list from 0. -/
def numbered {α : Type} (xs : List α) : List (Nat × α) := (List.range xs.length).zip xs

/-- Partial sums of the cores added in ascending core order. -/
def joinSums (ps : List (W32 × W32)) : W32 × W32 :=
  match ps with
  | [] => (0#32, 0#32)
  | p :: t => t.foldl (fun a b => (fadd a.1 b.1, fadd a.2 b.2)) p

/-- dx of a row under the totals a and c. -/
def normDx (meanVar : Bool) (w : NormRow) (a c : W32) : List W32 :=
  (w.g.zip w.xc).map fun (g, x) =>
    if meanVar then fmul w.r (fsub (fsub g a) (fmul (fmul x w.r) c))
    else fmul w.r (fsub g (fmul (fmul x (fmul w.r w.r)) c))

/-- What the backward normalisation reads: its rows, and the DGAMMA buffer that it adds to. -/
def normIn (op : NormBwOp) (v : Env) : ClauseM (List NormRow × List W32) := do
  let dy ← fetchPlain v op.dy op.rows op.cols
  let xs ← fetchF32 v op.x op.rows op.cols
  let gamma := (← fetchPlain v op.gamma 1 op.cols).headD []
  let rs := (← fetchPlain v op.r op.rows 1).map fun l => l.headD 0#32
  let mus ← if op.meanVar then (do return (← fetchPlain v op.mu op.rows 1).map fun l => l.headD 0#32)
    else pure (List.replicate op.rows 0#32)
  let buf := (← fetchPlain v op.dgamma 1 op.cols).headD []
  return ((List.range op.rows).map fun i =>
    let d := dy.getD i []
    let x := xs.getD i []
    (⟨(d.zip gamma).map fun (a, b) => fmul a b, d, if op.meanVar then x.map fun y => fsub y (mus.getD i 0#32) else x,
      rs.getD i 0#32⟩ : NormRow), buf)

/-- dx of every row under the row's totals. -/
def normDxRows (op : NormBwOp) (rows : List NormRow) (sums : List (W32 × W32)) : List (List W32) :=
  (rows.zip sums).map fun (w, s) => normDx op.meanVar w (fdiv s.1 (natF32 op.width)) (fdiv s.2 (natF32 op.width))

/-- The DGAMMA buffer with every row's part added, in ascending row order. -/
def normGamma (rows : List NormRow) (buf : List W32) : List W32 :=
  rows.foldl (fun b w => (b.zip (w.dy.zip w.xc)).map fun (a, d, x) => fadd a (fmul (fmul d x) w.r)) buf

/-- Row sums as a matrix of two columns, and back. -/
def sumRows (ps : List (W32 × W32)) : List (List W32) := ps.map fun p => [p.1, p.2]
def sumPairs (rows : List (List W32)) : List (W32 × W32) := rows.map fun r => (r.getD 0 0#32, r.getD 1 0#32)

/-- The totals of the rows: the lowest core's own partial sums, then those of the other cores in ascending order. -/
def normTotals (own : List (W32 × W32)) (others : List (List (W32 × W32))) : List (W32 × W32) :=
  (numbered own).map fun (i, p) => joinSums (p :: others.map fun q => q.getD i (0#32, 0#32))

/-- dx and the γ gradient under the rows' totals. -/
def normFinish (op : NormBwOp) (v : Env) (rows : List NormRow) (buf : List W32) (sums : List (W32 × W32)) : ClauseM Unit := do
  putF32 v op.dx (normDxRows op rows sums)
  putF32 v op.dgamma [normGamma rows buf]

/-- The backward normalisation instruction on this core's columns, by its part in the row sums. -/
def normBackM (op : NormBwOp) (v : Env) : ClauseM Unit := do
  let (rows, buf) ← normIn op v
  let own := rows.map (normPartial op.meanVar)
  match op.part with
  | .whole => normFinish op v rows buf own
  | .push sums => putF32 v sums (sumRows own)
  | .join others totals =>
    let ps ← others.mapM fun w => (do return sumPairs (← fetchPlain v w op.rows 2))
    putF32 v totals (sumRows (normTotals own ps))
  | .finish totals => normFinish op v rows buf (sumPairs (← fetchPlain v totals op.rows 2))

/-- The bytes that it addresses. -/
def NormBwOp.spans (op : NormBwOp) : List (Word × Nat) :=
  let n := 4 * (op.rows * op.cols)
  let sums := match op.part with
    | .whole => []
    | .push s => [(s, 8 * op.rows)]
    | .join others t => (others ++ [t]).map fun w => (w, 8 * op.rows)
    | .finish t => [(t, 8 * op.rows)]
  [(op.dy, n), (op.gamma, 4 * op.cols), (op.r, 4 * op.rows), (op.dx, n), (op.dgamma, 4 * op.cols)] ++ TRef.spans op.x op.rows op.cols ++
    (if op.meanVar then [(op.mu, 4 * op.rows)] else []) ++ sums

/-- NORM_BACKWARD (R161). -/
def Dev.normBackward (core seq : Nat) (op : NormBwOp) (rsp : TierRsp) (d : Dev) : Dev :=
  d.instr core seq vectorUnit (NormBwOp.spans op) rsp (normBackM op)

def execNormBackward (core seq : Nat) (op : NormBwOp) (rsp : TierRsp) (s : State) : Host.Outcome State Fault Refusal :=
  run (Instr.wf (.normBackward core seq op rsp)) (Dev.normBackward core seq op rsp) s

/-! ### The vocabulary head (R100, R164) -/

/-- Sum of values by 64-element blocks of index: within each block ascending, then over the blocks (R100). -/
def blockSum (xs : List (Nat × W32)) : W32 :=
  let top := xs.foldl (fun n e => max n (e.1 / 64 + 1)) 0
  rowSum (((List.range top).map fun b => (xs.filter fun e => e.1 / 64 = b).map (·.2)).filterMap fun b =>
    if b.isEmpty then none else some (rowSum b))

/-- lse of R100 over values by vocabulary index. -/
def lse (xs : List (Nat × W32)) : W32 :=
  let m := xs.foldl (fun m e => fmax m e.2) infNeg
  fadd m (fln (blockSum (xs.map fun e => (e.1, fexp (fsub e.2 m)))))

/-- A row's logits, and every FP32 value that the accumulators held on the way (R83). -/
def logits (rx rw : TRec) (group : Nat) (x : List Elt) (w : List (List Elt)) : List W32 := w.map fun y => (dot rx rw group x y).1
def logitSteps (rx rw : TRec) (group : Nat) (x : List Elt) (w : List (List Elt)) : List W32 := w.flatMap fun y => (dot rx rw group x y).2

/-- The operands of the vocabulary head. -/
def vocabIn (v : Env) (op : VocabOp) : ClauseM (TRec × List (List Elt) × TRec × List (List Elt)) := do
  let (rx, x) ← fetch v op.x op.rows op.dim true
  let (rw, w) ← fetch v op.w op.vocab op.dim true
  checkDot rx rw op.group
  return (rx, x, rw, w)

/-- The vocabulary-head instruction keeps only lse per row. -/
def vocabM (op : VocabOp) (v : Env) : ClauseM Unit := do
  let (rx, x, rw, w) ← vocabIn v op
  update fun d => d.flagResults v.c v.core v.learning (x.flatMap fun r => logitSteps rx rw op.group r w)
  putF32 v op.lse [x.map fun r => lse (numbered (logits rx rw op.group r w))]

/-- The bytes that the vocabulary head addresses. -/
def VocabOp.spans (op : VocabOp) : List (Word × Nat) :=
  TRef.spans op.x op.rows op.dim ++ TRef.spans op.w op.vocab op.dim ++ [(op.lse, 4 * op.rows)]

/-- VOCAB_HEAD_INSTRUCTION (R164). -/
def Dev.vocabHeadInstruction (core seq : Nat) (op : VocabOp) (rsp : TierRsp) (d : Dev) : Dev :=
  d.instr core seq engines (VocabOp.spans op) rsp (vocabM op)

def execVocabHeadInstruction (core seq : Nat) (op : VocabOp) (rsp : TierRsp) (s : State) : Host.Outcome State Fault Refusal :=
  run (Instr.wf (.vocabHeadInstruction core seq op rsp)) (Dev.vocabHeadInstruction core seq op rsp) s

/-- dz of one row (R164). -/
def dzRow (w lse : W32) (target : Nat) (zs : List W32) : List W32 :=
  (numbered zs).map fun (i, z) => fmul w (fsub (if i = target then one32 else 0#32) (fexp (fsub z lse)))

/-- `sum over i of k_i * rows_i`, in FP32, ascending i. -/
def combine (dim : Nat) (ks : List W32) (rows : List (List W32)) : List W32 :=
  (ks.zip rows).foldl (fun a (k, r) => (a.zip r).map fun (x, y) => fadd x (fmul k y)) (List.replicate dim 0#32)

/-- What the backward half reads: both operands' records and elements, and dz. -/
def vocabBackIn (op : VocabBwOp) (v : Env) : ClauseM ((TRec × List (List Elt)) × (TRec × List (List Elt)) × List (List W32)) := do
  let (rx, x, rw, w) ← vocabIn v op.fwd
  let lses := (← fetchPlain v op.fwd.lse op.fwd.rows 1).map fun l => l.headD 0#32
  let ts ← needBytes v op.target (4 * op.fwd.rows)
  let ws := (← fetchPlain v op.weight op.fwd.rows 1).map fun l => l.headD 0#32
  return ((rx, x), (rw, w), (numbered x).map fun (i, r) =>
    dzRow (ws.getD i 0#32) (lses.getD i 0#32) (fieldAt ts (4 * i) 4) (logits rx rw op.fwd.group r w))

/-- The backward half: both gradients in one pass (R164; log entry 25). -/
def vocabBackM (op : VocabBwOp) (v : Env) : ClauseM Unit := do
  let ((rx, x), (rw, w), dz) ← vocabBackIn op v
  update fun d => d.flagResults v.c v.core v.learning ((x.flatMap fun r => logitSteps rx rw op.fwd.group r w) ++ dz.flatten)
  putF32 v op.dx (dz.map fun z => combine op.fwd.dim z (w.map fun r => r.map (Elt.val rw)))
  putF32 v op.dw ((List.range op.fwd.vocab).map fun i =>
    combine op.fwd.dim (dz.map fun z => z.getD i 0#32) (x.map fun r => r.map (Elt.val rx)))

/-- The bytes that the backward half addresses. -/
def VocabBwOp.spans (op : VocabBwOp) : List (Word × Nat) :=
  VocabOp.spans op.fwd ++ [(op.target, 4 * op.fwd.rows), (op.weight, 4 * op.fwd.rows), (op.dx, 4 * (op.fwd.rows * op.fwd.dim)),
    (op.dw, 4 * (op.fwd.vocab * op.fwd.dim))]

/-- VOCAB_HEAD_BACKWARD (R164). -/
def Dev.vocabHeadBackward (core seq : Nat) (op : VocabBwOp) (rsp : TierRsp) (d : Dev) : Dev :=
  d.instr core seq engines (VocabBwOp.spans op) rsp (vocabBackM op)

def execVocabHeadBackward (core seq : Nat) (op : VocabBwOp) (rsp : TierRsp) (s : State) : Host.Outcome State Fault Refusal :=
  run (Instr.wf (.vocabHeadBackward core seq op rsp)) (Dev.vocabHeadBackward core seq op rsp) s

end Sys2Proof.Machine
end

