-- ==== Sys2Proof/Machine/Choice.lean ====
section
/-! DEFINITION. Token choice (R99 to R102). -/

namespace Sys2Proof.Machine

/-- Insert into a list that a relation orders, behind the elements that it does not follow. -/
def insertBy {α : Type} (before : α → α → Bool) (x : α) : List α → List α
  | [] => [x]
  | y :: ys => if before x y then x :: y :: ys else y :: insertBy before x ys

/-- Order a list. -/
def sortBy {α : Type} (before : α → α → Bool) : List α → List α
  | [] => []
  | x :: xs => insertBy before x (sortBy before xs)

/-- Candidates of a choice: token and value. -/
abbrev Cands := List (Nat × W32)

/-- The order of R99: larger value first, lower token first on ties. -/
def ahead (x y : Nat × W32) : Bool :=
  Ext.lt (f32 y.2) (f32 x.2) || (!Ext.lt (f32 x.2) (f32 y.2) && x.1 < y.1)

/-- The first of some candidates in the order of R99. -/
def best : Cands → Option (Nat × W32)
  | [] => none
  | x :: xs => match best xs with
    | none => some x
    | some y => some (if ahead x y then x else y)

/-- Whether a mask allows a token: `none` is MASK_ID 0xFFFF; a mask shorter than the vocabulary allows nothing beyond it. -/
def maskBit (mask : Option (Nat × List Byte)) (i : Nat) : Bool :=
  match mask with
  | none => true
  | some (n, bs) => i < n && bitOf (bs.getD (i / 8) 0).toNat (i % 8)

/-- The allowed set with its scores: a token without a score, or with a NaN or -infinity one, is not in it. -/
def allowedOf (vocab : Nat) (mask : Option (Nat × List Byte)) (scores : List W32) : Cands :=
  ((List.range (min vocab scores.length)).map fun i => (i, scores.getD i 0#32)).filter fun x =>
    maskBit mask x.1 && !(f32 x.2).isNan && x.2 != infNeg

/-- Keep the `k` first candidates in the order of R99; 0 keeps all. -/
def topK (k : Nat) (xs : Cands) : Cands :=
  if k = 0 then xs else xs.filter fun x => (xs.filter fun y => ahead y x).length < k

/-- The shortest prefix whose running FP32 sum of probabilities reaches a mass. -/
def prefixTo (mass : Ext) (l : W32) : W32 → Cands → Cands
  | _, [] => []
  | sum, x :: xs =>
    let s := fadd sum (fexp (fsub x.2 l))
    if Ext.lt (f32 s) mass then x :: prefixTo mass l s xs else [x]

/-- The nucleus of mass `p / 65,536`; 0 keeps all. -/
def topP (p : Nat) (xs : Cands) : Cands :=
  if p = 0 then xs else
    let kept := prefixTo (.fin false p (-16)) (lse xs) 0#32 (sortBy ahead xs)
    xs.filter fun x => kept.any fun y => y.1 = x.1

/-- gumbel(u) of a draw (R101): `u = (v + 0.5) * 2^-32` is held exactly. -/
def gumbel (v : W32) : W32 := fneg (fln (fneg (lnDyadic (2 * v.toNat + 1) (-33))))

/-- The token and its log-probability, or `none` when the allowed set is empty (R99). `draw i` is the draw at the noise
coordinate of token `i`. -/
def chooseToken (vocab : Nat) (temp : W32) (k p : Nat) (mask : Option (Nat × List Byte)) (scores : List W32)
    (draw : Nat → W32) : Option (Nat × W32) :=
  let allowed := allowedOf vocab mask scores
  if temp = 0#32 then (best allowed).map fun x => (x.1, 0#32) else
    let as := allowed.map fun x => (x.1, fdiv x.2 temp)
    let inf := as.filter fun x => x.2 = infPos
    let kept := if inf.isEmpty then topP p (topK k as) else inf
    (best (kept.map fun x => (x.1, fadd x.2 (gumbel (draw x.1))))).map fun x =>
      (x.1,
       if inf.isEmpty then fsub ((SMap.find kept x.1).getD 0#32) (lse kept)
       else fneg (lnDyadic kept.length 0))

end Sys2Proof.Machine
end

