-- ==== Sys2Proof/Machine/Rollouts.lean ====
section
/-! DEFINITION. The records of rollouts, and how a rollout ends (R90, R91, R92, R107, R113, R141, R142). -/

namespace Sys2Proof.Machine

/-! ### Values left open -/

/-- An open value of `bits` bits (log entry 3). -/
def Dev.freeBits (d : Dev) (bits : Nat) : Nat × Dev := let (v, d) := d.freeVal; (v.toNat % 2 ^ bits, d)

/-! ### Generated records (R90, R107, R141, R142, Table 6.3) -/

/-- A section of a generated record: its TYPE and its elements, 32 bits each; FMT is 0x0 for all five types. -/
structure Section where
  type : Nat
  elems : List Nat
  deriving DecidableEq, Repr

/-- The entry of a section in the directory. -/
def Section.entry (s : Section) : List Byte := leBytes 1 s.type ++ leBytes 3 0 ++ leBytes 4 s.elems.length

/-- The bytes of a section, padded to a multiple of 64. -/
def Section.bytes (s : Section) : List Byte :=
  let bs := s.elems.flatMap (leBytes 4)
  bs ++ List.replicate (alignUp bs.length 64 - bs.length) 0

/-- A payload: the directory and its sections in order. -/
def payloadOf (ss : List Section) : List Byte :=
  leBytes 8 ss.length ++ ss.flatMap Section.entry ++ List.replicate (8 * (7 - ss.length)) 0 ++ ss.flatMap Section.bytes

/-- The header as a rollout fills it: the fields that commit does not write (Table 6.2). -/
def recordHeader (epoch source step llen tokens : Nat) : List Byte :=
  leBytes 4 0 ++ leBytes 4 epoch ++ leBytes 8 source ++ leBytes 8 step ++ leBytes 16 0 ++ leBytes 4 llen ++ leBytes 4 0 ++
  leBytes 4 tokens ++ leBytes 12 0

/-- The world-model epoch of a record: its tokens' common one, else a value the spec leaves open. -/
def Dev.recordEnv (d : Dev) (toks : List GenTok) : Nat × Dev :=
  match toks with
  | [] => (0, d)
  | t :: ts => if ts.all fun u => u.envEpoch = t.envEpoch then (t.envEpoch, d) else d.freeBits 32

/-- Close the open record of a rollout and append it: it waits on the ring for its commit (R136). -/
def Dev.closeRecord (d : Dev) (c seq : Nat) : Dev :=
  match d.rollout c seq with
  | none => d
  | some r =>
    if r.toks.isEmpty then d else
      let env : Bool := match SMap.find (d.ctx c).pools r.decPool with | some p => p.wsEnv != 0xFFFF | none => false
      let (e, d) := if env then d.recordEnv r.toks else (0, d)
      let prompt := (List.range r.promptLen).map fun i => fieldAt r.prompt (4 * i) 4
      let payload := payloadOf
        ((if r.recPrompt then [(⟨1, prompt⟩ : Section)] else []) ++
         ([⟨2, r.toks.map (·.token)⟩, ⟨3, r.toks.map (·.logp.toNat)⟩, ⟨4, r.toks.map (·.reward.toNat)⟩] : List Section) ++
         (if env then [(⟨5, [e]⟩ : Section)] else []))
      let header := recordHeader r.recEpoch r.source r.recStep payload.length r.toks.length
      let d := d.modRing r.ring fun x => { x with waiting := x.waiting ++ [⟨seq, header, payload⟩] }
      d.modRollout c seq fun r => { r with toks := [], recPrompt := false }

/-! ### The rollout's pages (R91, R113, R114) -/

/-- The granules of a range that the device has mapped for keys and values, or for their headers. -/
def Dev.kvGranules (d : Dev) (c base size : Nat) : List Nat :=
  (((d.ctx c).leavesIn (base / pageBytes) (size / pageBytes)).filter fun e => e.2.kind = .kv).map (·.1)

/-- Those of a rollout's decode range, of its prefill range, and of its header range. -/
def Dev.decGranules (d : Dev) (c : Nat) (r : Rollout) : List Nat := d.kvGranules c (d.kvBase c false r.slot) (2 ^ 30)
def Dev.preGranules (d : Dev) (c : Nat) (r : Rollout) : List Nat := d.kvGranules c (d.kvBase c true r.slot) (2 ^ 30)
def Dev.hdrGranules (d : Dev) (c : Nat) (r : Rollout) : List Nat := d.kvGranules c (d.kvHeader c false r.slot 0) (2 ^ 23)

/-- Granules that go leave the MOVEs that still hold them; a MOVE left with none ends. -/
def Dev.forgetMoves (d : Dev) (c : Nat) (ks : List Nat) : Dev :=
  d.each (d.ctx c).moves fun m d =>
    let gone := m.left.filter fun e => ks.contains e.1
    if gone.isEmpty then d else
      (d.releaseMove c { m with left := gone }).turnMove c { m with left := m.left.filter fun e => !ks.contains e.1 }

/-- Free granules of a rollout. -/
def Dev.freeKv (d : Dev) (c : Nat) (ks : List Nat) : Dev := (d.forgetMoves c ks).dropLeaves c ks

/-! ### DONE (R91, R92, Table 4.2) -/

/-- The result word of a START; EPOCH is open while no token has been generated. -/
def Dev.startWord (d : Dev) (tokens reason epoch : Nat) : Nat × Dev :=
  let (e, d) := if tokens = 0 then d.freeBits 32 else (epoch, d)
  (min tokens 0xFFFFFF + reason * 2 ^ 24 + e * 2 ^ 32, d)

/-- The result word of an operation that has no effect (R92). -/
def noEffect : Nat := 2 ^ 64 - 1

/-- Operations that find no effect complete. -/
def Dev.answerAll (d : Dev) (ws : List Waiter) : Dev := d.each ws fun w d => d.complete w Status.ok noEffect

/-- Item 2 of R91: a rollout's pages and its page-table entry (R105, R106). -/
def Dev.freePages (d : Dev) (c : Nat) (r : Rollout) : Dev :=
  d.freeKv c (d.decGranules c r ++ d.preGranules c r ++ d.hdrGranules c r)

/-- Items 3 and 4 of R91: the reservation, the START's completion. -/
def Dev.finishRollout (d : Dev) (c seq : Nat) : Dev :=
  match d.rollout c seq with
  | none => d
  | some r =>
    let (status, reason) := r.ending.getD (Status.ok, 0)
    let d := d.modCtx c fun x => { x with rollouts := x.rollouts.filter fun y => y.seq ≠ seq }
    let d := (d.dec F.genKv_reserved c r.pages).dec F.genStat_live c
    let d := d.each r.poolIds fun p d => d.dec F.genPoolStat_batch c 1 p
    let d := if status = Status.cancelled then d.incSat F.genEnd_cancelled c
      else if status = Status.expired then d.incSat F.genEnd_expired c else d
    let (word, d) := d.startWord r.tokens reason r.epoch
    d.complete r.who status word

/-- A rollout that has reached DONE finishes once its records have committed or been discarded (R91, R136). -/
def Dev.settle (d : Dev) (c seq : Nat) : Dev :=
  match d.rollout c seq with
  | none => d
  | some r =>
    if r.st = .ending && !(d.ring r.ring).waiting.any (fun x => x.seq = seq) then d.finishRollout c seq else d

/-- A prefill that this device runs for a rollout of another ends: pages, reservation, slot (R95, R113). -/
def Dev.endServed (d : Dev) (c seq : Nat) : Dev :=
  match d.rollout c seq with
  | none => d
  | some r =>
    let d := (d.freePages c r).modCtx c fun x => { x with rollouts := x.rollouts.filter fun y => y.seq ≠ seq }
    d.dec F.genKv_reserved c r.pages

/-- The remote prefill of a rollout that ends in PREFILL is given up: its peer is told (R95). -/
def Dev.giveUpPeer (d : Dev) (c : Nat) (r : Rollout) : Dev :=
  match SMap.find (d.ctx c).pools r.decPool with
  | some x =>
    if r.st = .prefill && x.peerRank ≠ 0xFFFF then d.send x.peerRank 0 (.prefillStop x.peerCtx r.seq d.ownRank c) 0 else d
  | none => d

/-- A rollout reaches DONE with a status and a REASON: what waits for it finds no effect, its moves are released, its open
record is appended, its pages and its slot are freed (R106, R113), and the rest of R91 follows. A prefill for a peer ends with a
refusal (R95). -/
def Dev.endRollout (d : Dev) (c seq status reason : Nat) : Dev :=
  match d.rollout c seq with
  | none => d
  | some r =>
    if r.st = .ending then d else
    match r.peer with
    | some (rank, home) => (d.endServed c seq).send rank 0 (.prefillNo home seq) 0
    | none =>
      let d := d.giveUpPeer c r
      let d := d.answerAll (r.cancels ++ r.pauses.map (·.1) ++ r.resumes ++ r.evicts.map (·.who) ++ (r.pausing.map (·.1)).toList)
      let d := if r.st = .pausing || r.st = .paused then d.dec F.genStat_paused c else d
      let mine := (d.ctx c).moves.filter fun m => m.owner = .pause seq || m.owner = .resume seq
      let d := d.each mine fun m d => (d.releaseMove c m).dropMove c m.id
      let d := (d.closeRecord c seq).freePages c r
      let d := d.modRollout c seq fun r =>
        { r with st := .ending, inStep := false, ending := some (status, reason), cancels := [], pauses := [], resumes := [],
                 evicts := [], pausing := none }
      d.settle c seq

end Sys2Proof.Machine
end

