-- ==== Sys2Proof/Machine/Sillage.lean ====
section
/-! DEFINITION. Sillage: rings, records, commits, retirement, host appends and draws; the block compressor (R134 to R149,
R245, R428). -/

namespace Sys2Proof.Machine

/-! ### Records (R141, R142) -/

/-- Replace `n` bytes of a list from an offset. -/
def patch (bs : List Byte) (o : Nat) (new : List Byte) : List Byte := bs.take o ++ new ++ bs.drop (o + new.length)

/-- Bytes of one section, padded: 32-bit words, or what Table 3.1 stores for the elements, whole blocks with one scale byte each (log
entry 34). -/
def sectionBytes (type fmt count : Nat) : Nat :=
  let b := blockSize fmt
  let stored := elemBytes fmt (if b = 0 then count else alignUp count b) + if b = 0 then 0 else ceilDiv count b
  alignUp (if type = 1 || type = 2 || type = 5 then 4 * count else stored) 64

/-- Whether a header and its payload are well formed for an APPEND (Table 6.4, first row). -/
def recordOk (h p : List Byte) : Bool :=
  let kind := bitsOf (fieldAt h 0 1) 0 2
  let digest := bitOf (fieldAt h 0 1) 2
  let n := fieldAt p 0 4
  let entry (i : Nat) : Nat := 8 + 8 * i
  let ok (i : Nat) : Bool :=
    let ty := fieldAt p (entry i) 1
    let fmt := fieldAt p (entry i + 1) 1
    if i < n then 1 ≤ ty && ty ≤ 127 && fmt < 15 && fieldAt p (entry i + 2) 2 = 0 else fieldAt p (entry i) 8 = 0
  let size := ((List.range n).map fun i =>
    sectionBytes (fieldAt p (entry i) 1) (fieldAt p (entry i + 1) 1) (fieldAt p (entry i + 4) 4)).sum
  (kind = 1 || kind = 2) && bitsOf (fieldAt h 0 1) 5 3 = 0 && allZero (slice h 52 12) && 1 ≤ n && n ≤ 7 &&
    fieldAt p 4 4 = 0 && (List.range 7).all ok && fieldAt h 40 4 = 64 + size + (if digest then 64 else 0)

/-- The header with the device's own fields taken as 0: CTX, RING, TIME, INDEX, SLEN, COMP, GONE. -/
def hostHeader (h : List Byte) : List Byte :=
  leBytes 1 (bitsOf (fieldAt h 0 1) 0 3) ++ leBytes 3 0 ++ slice h 4 20 ++ leBytes 16 0 ++ slice h 40 4 ++ leBytes 4 0 ++
  slice h 48 4 ++ leBytes 12 0

/-- Whether the digest unit of a payload is right (R142). -/
def digestOk (h p : List Byte) : Bool :=
  let n := p.length - 64
  allZero (slice p n 32) && digest256 (hostHeader h ++ p.take (n + 32)) = slice p (n + 32) 32

/-- The header as the ring stores it. -/
def storedHeader (h : List Byte) (c ring time index slen : Nat) (comp : Bool) : List Byte :=
  leBytes 1 (bitsOf (fieldAt h 0 1) 0 3 + if comp then 8 else 0) ++ leBytes 1 c ++ leBytes 2 ring ++ slice h 4 20 ++
  leBytes 8 time ++ leBytes 8 index ++ slice h 40 4 ++ leBytes 4 slen ++ slice h 48 4 ++ leBytes 12 0

/-! ### Places in a ring -/

/-- Granules of a ring's range. -/
def Dev.ringGrans (d : Dev) (r : Nat) : Nat := max 1 ((d.ringSpan r).2 / pageBytes)

/-- The pieces of a run of a ring's bytes: granule number in the context's space, offset in it, length. -/
def Dev.ringPieces (d : Dev) (r off len : Nat) : List (Nat × Nat × Nat) :=
  if len = 0 then [] else
    (List.range ((off + len - 1) / pageBytes - off / pageBytes + 1)).map fun j =>
      let p := off / pageBytes + j
      let lo := max off (p * pageBytes)
      ((d.ringSpan r).1 / pageBytes + p % d.ringGrans r, lo % pageBytes, min (off + len) ((p + 1) * pageBytes) - lo)

/-- The ring's current tier (R135). -/
def Dev.ringTier (d : Dev) (r : Nat) : Nat := d.get F.silRingCfg_tier r

/-- The tier of a granule of a ring: its leaf's, or the ring's where it has none yet. -/
def Dev.granTier (d : Dev) (c r g : Nat) : Nat :=
  match SMap.find (d.ctx c).leaves g with
  | some l => l.tier
  | none => d.ringTier r

/-- The leaf of a granule of a ring: the device alone writes it. -/
def ringLeaf (tier frame : Nat) : Leaf :=
  { level := 3, tier := tier, w := false, comp := true, poison := false, moving := false, alloc := true, fallback := false,
    pref := tier, frame := frame, kind := .ring }

/-- Read a run of a ring's bytes as they lie, with the requests they make. -/
def Dev.ringRead (d : Dev) (c r : Nat) (rsp : TierRsp) (off len : Nat) : Except Nat (List Byte) × Dev :=
  (d.ringPieces r off len).foldl (fun (acc : Except Nat (List Byte) × Dev) p =>
    match acc.1 with
    | .error _ => acc
    | .ok bs =>
      match acc.2.request c rsp p.1 with
      | (some st, d) => (.error st, d)
      | (none, d) => let (x, d) := d.peekVa c none (p.1 * pageBytes + p.2.1) p.2.2; (.ok (bs ++ x), d)) (.ok [], d)

/-- Write a run of a ring's bytes over its allocated granules with `put`. -/
def Dev.ringPut (put : Dev → Nat → List Byte → Dev) (d : Dev) (r off : Nat) (bs : List Byte) : Dev :=
  ((d.ringPieces r off bs.length).foldl (fun (acc : Dev × List Byte) p =>
    (put acc.1 (p.1 * pageBytes + p.2.1) (acc.2.take p.2.2), acc.2.drop p.2.2)) (d, bs)).1

/-- Lay a record down as its blocks are to be encoded, before SLEN is known. -/
def Dev.ringLay (d : Dev) (c r off : Nat) (bs : List Byte) : Dev := d.ringPut (fun d va x => d.pokeVa c va x) r off bs

/-- The write of a record, which adds to the watch sums as every write of the context does (R179). -/
def Dev.ringWrite (d : Dev) (c r off : Nat) (bs : List Byte) : Dev := d.ringPut (fun d va x => d.land c va x) r off bs

/-! ### Retirement (R137) -/

/-- Free the granules of a ring that hold no byte of a live record; a MOVE that still holds one releases its reservation. -/
def Dev.freeGrans (d : Dev) (c r : Nat) (gs : List Nat) : Dev :=
  let lo := (d.ringSpan r).1 / pageBytes
  let idle := gs.filter fun g => (d.ring r).bytesIn (d.ringGrans r) (g - lo) = 0 && (SMap.find (d.ctx c).leaves g).isSome
  if idle.isEmpty then d else (d.forgetMoves c idle).dropLeaves c idle

/-- Retire the oldest live record of a ring. -/
def Dev.retireRecord (d : Dev) (r : Nat) : Dev :=
  let c := d.get F.silRingCfg_ctx r
  match (d.ring r).live with
  | [] => d
  | x :: rest =>
    let ps := d.ringPieces r x.off x.len
    let d := d.each ps fun p d => d.uncharge c (d.granTier c r p.1) p.2.2
    let d := d.modRing r fun y => { y with live := rest }
    let d := (d.incMod F.silRingTail_index r).incMod F.silRingCnt_retired r
    let d := d.setReg .silRingUse r (d.reg .silRingUse r - x.len)
    d.freeGrans c r (ps.map (·.1))

/-- What a record of `len` bytes asks of each tier at the ring's next place: bytes to charge and frames to take, those of new table frames
among them. -/
def Dev.ringNeeds (d : Dev) (r len : Nat) : List (Nat × Nat × Nat) :=
  let c := d.get F.silRingCfg_ctx r
  let ps := d.ringPieces r (d.ring r).next len
  let new := (ps.map (·.1)).filter fun g => (SMap.find (d.ctx c).leaves g).isNone
  let ls := new.foldl (fun ls g => SMap.set ls g (ringLeaf (d.ringTier r) 0)) (d.ctx c).leaves
  let tables (t : Nat) : Nat := if t = 0 then d.tableNeed c ls else 0
  [0, 1, 2].map fun t =>
    (t, ((ps.filter fun p => d.granTier c r p.1 = t).map (·.2.2)).sum + tables t * pageBytes,
      (if t = d.ringTier r then new.length else 0) + tables t)

/-- Whether a record fits the limits: CAP and the quota of every tier that would hold new bytes of it (R137). -/
def Dev.ringAllows (d : Dev) (r len : Nat) : Bool :=
  d.reg .silRingUse r + len ≤ d.get F.silRingCfg_cap r * pageBytes &&
    (d.ringNeeds r len).all fun x => x.2.1 = 0 || d.quotaOk (d.get F.silRingCfg_ctx r) x.1 x.2.1

/-- Whether a record finds its frames. -/
def Dev.ringFrames (d : Dev) (r len : Nat) : Bool := (d.ringNeeds r len).all fun x => x.2.2 ≤ d.freeFrames x.1

/-- Whether a record fits a ring now. -/
def Dev.ringFits (d : Dev) (r len : Nat) : Bool := d.ringAllows r len && d.ringFrames r len

/-- TIER_STAT.FULL is set where a record within the limits finds no frame (R244). -/
def Dev.noteRing (d : Dev) (r len : Nat) : Dev := d.noteFull (d.ringAllows r len && !d.ringFrames r len)

/-- Retire records from the oldest until a record fits (FULL 0). -/
def Dev.makeRoom (d : Dev) (r len : Nat) : Nat → Dev
  | 0 => d
  | n + 1 => if d.ringFits r len then d else ((d.noteRing r len).retireRecord r).makeRoom r len n

/-! ### Commit (R136, R137, R144) -/

/-- Give the new granules of a record their frames. -/
def Dev.growRing (d : Dev) (c r : Nat) (gs : List Nat) : Bool × Dev :=
  gs.foldl (fun (acc : Bool × Dev) g =>
    if !acc.1 || (SMap.find (acc.2.ctx c).leaves g).isSome then acc else
      match acc.2.allocFrames (acc.2.ringTier r) 1 with
      | (some f, d) => (true, d.putLeaf c g (ringLeaf (d.ringTier r) f))
      | (none, d) => (false, d)) (true, d)

/-- Stored payload bytes of a record that has been written (R144). -/
def Dev.slenOf (d : Dev) (c r off len : Nat) : Nat × Dev :=
  ((List.range ((off + len + 4095) / 4096 - off / 4096)).foldl (fun (acc : Nat × Dev) j =>
    let b := (off / 4096 + j) * 4096
    match d.ringPieces r b 4096 with
    | p :: _ =>
      let (bytes, d) := acc.2.peekVa c none (p.1 * pageBytes + p.2.1) 4096
      let lines := if acc.2.granTier c r p.1 = 0 then List.replicate 64 64 else blockLines bytes
      let mine := (List.range 64).filter fun i => off ≤ b + 64 * i && b + 64 * i < off + len
      (acc.1 + (mine.map fun i => lines.getD i 0).sum, d)
    | [] => acc) (0, d))

/-- Commit one record to a ring: `none`, or the status that keeps it out (QUOTA: the ring is full for it, or a failed
request of its writes). -/
def Dev.commitRecord (d : Dev) (r : Nat) (h p : List Byte) (rsp : TierRsp) : Option Nat × Dev :=
  let c := d.get F.silRingCfg_ctx r
  let len := 64 + p.length
  let refuses := d.flag F.silRingCfg_full r
  if d.get F.silRingCfg_cap r * pageBytes < len then (some Status.quota, d) else
    let d := if refuses then d else d.makeRoom r len (d.ring r).live.length
    if !d.ringFits r len then (some Status.quota, d.noteRing r len) else
      let off := (d.ring r).next
      let gs := (d.ringPieces r off len).map (·.1)
      let (ok, d) := d.growRing c r gs
      let (bad, d) := gs.foldl (fun (acc : Option Nat × Dev) g =>
        match acc.1 with | some _ => acc | none => acc.2.request c rsp g) (if ok then none else some Status.quota, d)
      match bad with
      | some st => (some st, d.freeGrans c r gs)
      | none =>
        let low := (d.ringPieces r (off + 64) p.length).any fun q => d.granTier c r q.1 ≠ 0
        let index := d.reg .silRingHead r
        let d := d.ringLay c r off (storedHeader h c r d.ns index 0 low ++ p)
        let (slen, d) := d.slenOf c r (off + 64) p.length
        let d := d.ringWrite c r off (storedHeader h c r d.ns index slen low ++ p)
        let d := d.each (d.ringPieces r off len) fun q d => d.charge c (d.granTier c r q.1) q.2.2
        let d := d.modRing r fun x => { x with next := off + len, live := x.live ++ [⟨index, off, len, fieldAt h 4 4⟩] }
        (none, (d.setReg .silRingHead r (index + 1)).setReg .silRingUse r (d.reg .silRingUse r + len))

/-- RECORD_COMMIT: the oldest generated record that waits on a ring commits, or is discarded (R137, R428); SIL_RING_STAT.FULL marks one
discarded under R137, with either FULL (one larger than CAP among them). A rollout that has reached DONE finishes with its last record
(R91). -/
def Dev.recordCommit (ring : Nat) (rsp : TierRsp) (d : Dev) : Dev :=
  match (d.ring ring).waiting with
  | [] => d
  | x :: rest =>
    let c := d.get F.silRingCfg_ctx ring
    let d := d.modRing ring fun y => { y with waiting := rest }
    if !d.flag F.silRingCfg_valid ring then d else
      (match d.commitRecord ring x.header x.payload rsp with
        | (none, d) => d
        | (some st, d) =>
          let d := d.incSat F.silRingStat_gen_drop ring
          if st = Status.quota then d.put F.silRingStat_full ring 1 else d).settle c x.seq

/-! ### CREATE and DESTROY (R134, R139) -/

/-- A ring returns to a ring that does not exist: its storage, charges and registers, and what a MOVE had reserved for it. -/
def Dev.freeRing (d : Dev) (r : Nat) : Dev :=
  let c := d.get F.silRingCfg_ctx r
  let d := d.each (d.ring r).live fun x d => d.each (d.ringPieces r x.off x.len) fun p d => d.uncharge c (d.granTier c r p.1) p.2.2
  let (lo, size) := d.ringSpan r
  let mine := ((d.ctx c).leaves.filter fun e => e.2.kind = .ring && lo ≤ e.1 * pageBytes && e.1 * pageBytes < lo + size).map (·.1)
  (((d.forgetMoves c mine).dropLeaves c mine).setRing r Ring.init).resetRegs (regsOf .ring .context) r

/-- The form of the fields that the SILLAGE operations share: the ring number, and bytes that must be 0. -/
def silForm (bs : List Byte) (zeros : List (Nat × Nat)) : Bool :=
  fieldAt bs 18 2 < 1024 && zeros.all fun z => allZero (slice bs z.1 z.2)

/-- CREATE. -/
def Dev.silCreate (q i : Nat) (d : Dev) : Dev :=
  d.withDesc q i 6 0 fun c w bs d =>
    let f := fieldAt bs 17 1
    let r := fieldAt bs 18 2
    let cap := fieldAt bs 24 8
    let base := fieldAt bs 32 8
    let size := alignUp cap (2 ^ 30)
    let tier := if bitsOf f 1 2 = 0 then 1 else if bitsOf f 1 2 = 1 then 0 else 2
    if !silForm bs [(20, 4), (40, 24)] || 6 ≤ f || cap % pageBytes ≠ 0 || cap = 0 || base % 2 ^ 30 ≠ 0 then
      d.complete w Status.internal 0
    else if d.flag F.silRingCfg_valid r then d.complete w Status.integrity 0
    else if 2 ^ 50 < base + size || (d.ctx c).anyLeaf (base / pageBytes) (size / pageBytes) || d.deviceMeets c base size then
      d.complete w Status.pageFault 0
    else if !d.quotaOk c tier cap || d.noHeart tier then d.complete w Status.quota 0
    else
      let d := d.setReg .silRingBase r base
      let d := d.setReg .silRingCfg r (1 + bitsOf f 0 1 * 2 + tier * 4 + c * 2 ^ 8 + cap / pageBytes * 2 ^ 16)
      (d.setRing r Ring.init).complete w Status.ok 0

/-- DESTROY: deferred while a live rollout names the ring; it waits for records that have not committed. -/
def Dev.silDestroy (q i : Nat) (d : Dev) : Dev :=
  d.withDesc q i 6 1 fun c w bs d =>
    let r := fieldAt bs 18 2
    if !silForm bs [(17, 1), (20, 44)] then d.complete w Status.internal 0
    else if !d.ringOf c r then d.complete w Status.integrity 0
    else if (d.ctx c).rollouts.any fun x => x.ring = r then d.complete w Status.deferred 0
    else if !(d.ring r).waiting.isEmpty then d
    else (d.freeRing r).complete w Status.ok 0

/-! ### APPEND (R145) -/

/-- Whether a record that a ring does not take leaves the APPEND going: with FULL 0 the records are refused one by one (R137,
R145). -/
def Dev.goesOn (d : Dev) (r st : Nat) : Bool := st = Status.quota && !d.flag F.silRingCfg_full r

/-- Whether a record's directory names a section in the format code 0xF (R60). -/
def namesUnknown (p : List Byte) : Bool := (List.range (min 7 (fieldAt p 0 4))).any fun i => fieldAt p (9 + 8 * i) 1 = 0xF

/-- Check and commit the records of an APPEND one by one: how many were accepted, and the status. `end_` is the status so
far: a record that meets code 0xF is refused as a malformed one is, and the APPEND ends with FORMAT_UNKNOWN (R60, R145). -/
def Dev.appendGo (d : Dev) (c r : Nat) (rsp : TierRsp) (src len : Nat) : Nat → Nat → Nat → Nat → (Nat × Nat) × Dev
  | 0, _, acc, end_ => ((acc, end_), d)
  | n + 1, pos, acc, end_ =>
    if len < pos + 64 then ((acc, Status.pageFault), d) else
      let (g, d) := d.readVa c none rsp (src + pos) 64
      match g.bad with
      | some (st, _) => ((acc, st), d)
      | none =>
        let h := g.raw
        let llen := fieldAt h 40 4
        if len < pos + 64 + llen then ((acc, Status.pageFault), d) else
          let (g, d) := d.readVa c none rsp (src + pos + 64) llen
          match g.bad with
          | some (st, _) => ((acc, st), d)
          | none =>
            let p := g.raw
            let next := pos + 64 + llen
            if !recordOk h p then
              (d.incSat F.silRingStat_bad r).appendGo c r rsp src len n next acc
                (if end_ = 0 && namesUnknown p then Status.formatUnknown else end_)
            else if bitOf (fieldAt h 0 1) 2 && !digestOk h p then
              (d.incSat F.silRingStat_digest_bad r).appendGo c r rsp src len n next acc end_
            else
              match d.commitRecord r h p rsp with
              | (none, d) => d.appendGo c r rsp src len n next (acc + 1) end_
              | (some st, d) => if d.goesOn r st then d.appendGo c r rsp src len n next acc (if end_ = 0 then st else end_) else ((acc, st), d)

/-- APPEND. -/
def Dev.silAppend (q i : Nat) (rsp : TierRsp) (d : Dev) : Dev :=
  d.withDesc q i 6 2 fun c w bs d =>
    let r := fieldAt bs 18 2
    let n := fieldAt bs 20 4
    if !silForm bs [(17, 1), (40, 24)] || n = 0 || 65535 < n then d.complete w Status.internal 0
    else if !d.ringOf c r then d.complete w Status.integrity 0
    else
      let ((acc, st), d) := d.appendGo c r rsp (fieldAt bs 24 8) (fieldAt bs 32 8) n 0 0 0
      d.complete w st (acc + (n - acc) * 2 ^ 32)

/-! ### DRAW (R146 to R148) -/

/-- A selected record: a live one, or the INDEX of one that is not live. -/
inductive Pick where
  | live (r : RingRec)
  | gone (index : Nat)
  deriving DecidableEq, Repr

/-- The candidates of modes 0 to 2, in ascending INDEX. -/
def candidates (live : List RingRec) (mode lo hi : Nat) : List RingRec :=
  if mode = 0 then live
  else if mode = 1 then live.drop (live.length - min lo live.length)
  else live.filter fun r => lo ≤ r.epoch && r.epoch ≤ hi

/-- Selection `n` of a DRAW (R147). -/
def drawPick (seed : Word) (ring count m n : Nat) : Nat :=
  let t := BitVec.ofNat 64 (2 ^ 32 + ring)
  let hi := (draw32 seed t count (2 * n)).toNat
  let lo := (draw32 seed t count (2 * n + 1)).toNat
  (hi * 2 ^ 32 + lo) * m / 2 ^ 64

/-- The 64 bytes written for a listed record that is not live. -/
def goneHeader (index : Nat) : List Byte := leBytes 1 16 ++ leBytes 31 0 ++ leBytes 8 index ++ leBytes 24 0

/-- Write the selected records one after another: records written, GONE entries, status. -/
def Dev.drawGo (d : Dev) (c r : Nat) (rsp : TierRsp) (dst len : Nat) : List Pick → Nat → Nat → Nat → (Nat × Nat × Nat) × Dev
  | [], _, n, g => ((n, g, Status.ok), d)
  | x :: xs, pos, n, g =>
    let (res, d) : Except Nat (List Byte) × Dev := match x with
      | .live y => if pos + y.len ≤ len then d.ringRead c r rsp y.off y.len else (.ok (List.replicate y.len 0), d)
      | .gone k => (.ok (goneHeader k), d)
    match res with
    | .error st => ((n, g, st), d)
    | .ok bytes =>
      if len < pos + bytes.length then ((n, g, Status.ok), d) else
        match d.writeVa c rsp (dst + pos) bytes with
        | (some (st, _), _, d) => ((n, g, if st = kvDiscarded then Status.quota else st), d)
        | (none, _, d) =>
          d.drawGo c r rsp dst len xs (pos + bytes.length) (n + 1) (g + match x with | .gone _ => 1 | .live _ => 0)

/-- DRAW: the candidate set is fixed as the live records stand; the seed is the job seed when the device took the descriptor (R224). -/
def Dev.silDraw (q i : Nat) (rsp : TierRsp) (d : Dev) : Dev :=
  d.withDesc q i 6 3 fun c w bs d =>
    let r := fieldAt bs 18 2
    let mode := fieldAt bs 17 1
    let n := fieldAt bs 20 4
    if !silForm bs [(56, 8)] || 3 < mode || n = 0 || 65536 < n then d.complete w Status.internal 0
    else if !d.ringOf c r then d.complete w Status.integrity 0
    else
      let live := (d.ring r).live
      let count := d.get F.silRingCnt_draws r
      let seed : Word := match d.desc q i with | some x => x.seed | none => 0
      let d := d.incMod F.silRingCnt_draws r
      let (picks, d) : Except Nat (List Pick) × Dev :=
        if mode = 3 then
          let (g, d) := d.readVa c none rsp (fieldAt bs 48 8) (8 * n)
          match g.bad with
          | some (st, _) => (.error st, d)
          | none => (.ok ((List.range n).map fun j =>
              let x := fieldAt g.raw (8 * j) 8
              match live.find? fun y => y.index = x with | some y => .live y | none => .gone x), d)
        else
          let cs := candidates live mode (fieldAt bs 40 4) (fieldAt bs 44 4)
          (.ok (if cs.isEmpty then [] else
            (List.range n).filterMap fun j => (cs[drawPick seed r count cs.length j]?).map Pick.live), d)
      match picks with
      | .error st => d.complete w st 0
      | .ok ps =>
        let ((k, g, st), d) := d.drawGo c r rsp (fieldAt bs 24 8) (fieldAt bs 32 8) ps 0 0 0
        d.complete w st (k + g * 2 ^ 32)

/-! ### The commands -/

/-- SIL_CREATE (R134). -/
def execSilCreate (q i : Nat) (s : State) : Host.Outcome State Fault Refusal :=
  run (Instr.wf (.silCreate q i)) (Dev.silCreate q i) s

/-- SIL_DESTROY (R139). -/
def execSilDestroy (q i : Nat) (s : State) : Host.Outcome State Fault Refusal :=
  run (Instr.wf (.silDestroy q i)) (Dev.silDestroy q i) s

/-- SIL_APPEND (R145). -/
def execSilAppend (q i : Nat) (rsp : TierRsp) (s : State) : Host.Outcome State Fault Refusal :=
  run (Instr.wf (.silAppend q i rsp)) (Dev.silAppend q i rsp) s

/-- SIL_DRAW (R146). -/
def execSilDraw (q i : Nat) (rsp : TierRsp) (s : State) : Host.Outcome State Fault Refusal :=
  run (Instr.wf (.silDraw q i rsp)) (Dev.silDraw q i rsp) s

/-- RECORD_COMMIT (R136). -/
def execRecordCommit (ring : Nat) (rsp : TierRsp) (s : State) : Host.Outcome State Fault Refusal :=
  run (Instr.wf (.recordCommit ring rsp)) (Dev.recordCommit ring rsp) s

end Sys2Proof.Machine
end

