-- ==== Sys2Proof/Machine/Generation.lean ====
section
/-! DEFINITION. Generation: pools and the weight sets they name, rollouts, steps, pause and resume, eviction (R88 to R125,
R130 to R133, R194, R196). -/

namespace Sys2Proof.Machine

/-! ### Weight-set windows and latches (R18, R107, R194, R196) -/

/-- The granules of a set's window. -/
def Dev.windowGranules (d : Dev) (w : Nat) : List Nat := granules (d.reg .accSetBase w) (d.reg .accSetSize w)

/-- The leaf of a granule of a window: its frame names the set. -/
def windowLeaf (w : Nat) : Leaf :=
  { level := 3, tier := 0, w := false, comp := false, poison := false, moving := false, alloc := true, fallback := false,
    pref := 0, frame := w, kind := .accord }

/-- Whether a set's window is mapped in a context. -/
def Dev.windowMapped (d : Dev) (c w : Nat) : Bool :=
  match (d.windowGranules w).head? with
  | some g => match SMap.find (d.ctx c).leaves g with
    | some l => l.kind = .accord && l.frame = w
    | none => false
  | none => false

/-- Whether a set's window would lie over something mapped in a context. -/
def Dev.windowHits (d : Dev) (c w : Nat) : Bool :=
  let gs := d.windowGranules w
  (d.ctx c).anyLeaf (gs.headD 0) gs.length || d.deviceMeets c (d.reg .accSetBase w) (d.reg .accSetSize w)

/-- Map a set's window. -/
def Dev.mapWindow (d : Dev) (c w : Nat) : Dev :=
  if d.windowMapped c w then d else
    d.setLeaves c ((d.windowGranules w).foldl (fun ls g => SMap.set ls g (windowLeaf w)) (d.ctx c).leaves)

/-- Unmap a set's window. -/
def Dev.unmapWindow (d : Dev) (c w : Nat) : Dev := if d.windowMapped c w then d.dropLeaves c (d.windowGranules w) else d

/-- The sets that a pool names. -/
def Pool.sets (p : Pool) : List Nat := if p.wsEnv = 0xFFFF then [p.wsPolicy] else [p.wsPolicy, p.wsEnv]

/-- Whether a context may name a set: it exists and its owner's tenant is the context's. -/
def Dev.mayName (d : Dev) (c w : Nat) : Bool :=
  w < 256 && d.flag F.accSetCfg_valid w && d.tenantOf (d.get F.accSetCfg_ctx w) = d.tenantOf c

/-- Whether a pool of a context names a set. -/
def Dev.poolNames (d : Dev) (c w : Nat) : Bool := (d.ctx c).pools.any fun e => e.2.sets.contains w

/-- Unmap the windows that no pool of a context names any more; an owner keeps its own. -/
def Dev.dropWindows (d : Dev) (c : Nat) (ws : List Nat) : Dev :=
  d.each ws fun w d => if d.poolNames c w || d.get F.accSetCfg_ctx w = c then d else d.unmapWindow c w

/-- What a prefetch has latched for a pool's next step becomes the step's own (R49). -/
def WSet.startNext (s : WSet) (c p : Nat) : WSet :=
  let turn (r : Nat × Nat) : Nat × Nat := if r = (c, prefetchKey p) then (c, p) else r
  { s with readers0 := s.readers0.map turn, readers1 := s.readers1.map turn }

/-- A step latches the active bank of each set that its pool names, but where a prefetch has latched one for it (R49, R107). -/
def Dev.latchSets (d : Dev) (c p : Nat) (x : Pool) : Dev :=
  d.each x.sets.dedup fun w d =>
    d.modWset w fun s =>
      let s := s.startNext c p
      if s.readers0.contains (c, p) || s.readers1.contains (c, p) then s else s.latch (d.activeBank w) (c, p)

/-- The step's reads have ended. -/
def Dev.unlatchSets (d : Dev) (c p : Nat) : Dev := d.unlatchAll fun r => r = (c, p)

/-- The epoch of a set for a pool's step: the one that a prefetch latched for it, else the active one (R49). -/
def Dev.stepEpoch (d : Dev) (x : Pool) (w : Nat) : Nat :=
  match x.next.find? fun e => e.1 = w with
  | some e => e.2.2
  | none => d.get F.accEpoch_active w

/-- The epochs that a step latches: policy and world model (R107). -/
def Dev.poolEpochs (d : Dev) (x : Pool) : Nat × Nat :=
  (d.stepEpoch x x.wsPolicy, if x.wsEnv = 0xFFFF then 0 else d.stepEpoch x x.wsEnv)

/-! ### POOL (R93, R112, Table 4.4) -/

/-- A pool of a context. -/
def Dev.poolOf (d : Dev) (c p : Nat) : Option Pool := SMap.find (d.ctx c).pools p

/-- Change a pool. -/
def Dev.modPool (d : Dev) (c p : Nat) (f : Pool → Pool) : Dev :=
  match d.poolOf c p with
  | some x => d.modCtx c fun y => { y with pools := SMap.set y.pools p (f x) }
  | none => d

/-- The form of a POOL. A POOL that deletes states a pool number and nothing else that is checked. DESIGN CHOICE (log entry 73): a field
outside the range that Table 4.4 gives it has the status of a malformed one, INTERNAL; R112 names none. -/
def poolForm (bs : List Byte) : Bool :=
  let pinned := bitOf (fieldAt bs 17 1) 6
  let hpc := fieldAt bs 18 1
  bitsOf (fieldAt bs 17 1) 4 2 < 3 && bitsOf (fieldAt bs 58 1) 4 4 = 0 &&
    (fieldAt bs 20 2 = 0 ||
      (if pinned then 1 ≤ hpc && hpc ≤ 4 else hpc = 0 && fieldAt bs 19 1 = 0) && 1 ≤ fieldAt bs 22 2 && fieldAt bs 22 2 ≤ 4096 &&
        1 ≤ fieldAt bs 48 2 && 1 ≤ fieldAt bs 50 2 && fieldAt bs 50 2 ≤ 1024 && 1 ≤ fieldAt bs 52 2)

/-- What makes a POOL end with INTEGRITY (R93, R194). -/
def Dev.poolWrong (d : Dev) (c : Nat) (bs : List Byte) : Bool :=
  let pinned := bitOf (fieldAt bs 17 1) 6
  let hpc := max 1 (fieldAt bs 18 1)
  let heads := fieldAt bs 19 1 + 1
  let env := fieldAt bs 42 2
  (bitOf (fieldAt bs 17 1) 7 && !pinned) || (pinned && heads % hpc ≠ 0) || (pinned && fieldAt bs 20 2 % max 1 (heads / hpc) ≠ 0) ||
    fieldAt bs 60 4 = 0 || 2 ^ 24 < fieldAt bs 60 4 || !d.mayName c (fieldAt bs 40 2) || (env ≠ 0xFFFF && !d.mayName c env)

/-- The generation cores of a context that no pool but one holds. -/
def Dev.poolFree (d : Dev) (c but : Nat) : List Nat :=
  (d.genCores c).filter fun k => !(d.ctx c).pools.any fun e => e.1 ≠ but && e.2.cores.contains k

/-- Contexts other than one that hold a pinned pool. -/
def Dev.pinnedElsewhere (d : Dev) (c : Nat) : Nat :=
  ((List.range 256).filter fun x => x ≠ c && d.flag F.genStat_pinned x).length

/-- Bring GEN_STAT.PINNED to a context's pools. -/
def Dev.countPinned (d : Dev) (c : Nat) : Dev := d.put F.genStat_pinned c (if (d.ctx c).pools.any fun e => e.2.pinned then 1 else 0)

/-- Whether a live rollout names a pool. -/
def Dev.poolLive (d : Dev) (c p : Nat) : Bool := (d.ctx c).rollouts.any fun r => r.poolIds.contains p

/-- The images of a step program: their addresses, or the status of the failure. -/
def Dev.stepProgram (d : Dev) (c va : Nat) : Except Nat (List Nat) × Dev :=
  if !d.mapped c va 8 then (.error Status.pageFault, d) else
    let (g, d) := d.readVa c none [] va 8
    let n := leNat g.raw
    if !d.mapped c va (8 + 8 * n) then (.error Status.pageFault, d) else
      let (g, d) := d.readVa c none [] (va + 8) (8 * n)
      (.ok ((List.range n).map fun i => fieldAt g.raw (8 * i) 8), d)

/-- The pool that a POOL states. -/
def poolFrom (bs : List Byte) (cores prog : List Nat) : Pool :=
  let cfg := fieldAt bs 17 1
  { role := bitsOf cfg 4 2, pinned := bitOf cfg 6, hpc := fieldAt bs 18 1, nheads := fieldAt bs 19 1 + 1,
    maxBatch := fieldAt bs 22 2, prog := prog, w0 := fieldAt bs 32 4, w1 := fieldAt bs 36 4, wsPolicy := fieldAt bs 40 2,
    wsEnv := fieldAt bs 42 2, endToken := fieldAt bs 44 4, segTokens := fieldAt bs 48 2, tpg := fieldAt bs 50 2,
    ppg := fieldAt bs 52 2, chunk := fieldAt bs 54 2, peerRank := fieldAt bs 56 2, peerPool := bitsOf (fieldAt bs 58 1) 0 4,
    peerCtx := fieldAt bs 59 1, vocab := fieldAt bs 60 4, cores := cores, lost := false, gone := false, step := none,
    stepNo := 0, seed := 0, next := [] }

/-- The pool number of a POOL. -/
def poolId (bs : List Byte) : Nat := bitsOf (fieldAt bs 17 1) 0 4

/-- Delete a pool. -/
def Dev.deletePool (d : Dev) (c p : Nat) : Dev :=
  match d.poolOf c p with
  | none => d
  | some x =>
    let d := (d.modCtx c fun y => { y with pools := SMap.erase y.pools p }).unlatchAll fun r => r = (c, p) || r = (c, prefetchKey p)
    ((d.setReg .genPoolStat c 0 p).dropWindows c x.sets).countPinned c

/-- Create or replace a pool whose checks have passed. -/
def Dev.makePool (d : Dev) (c p : Nat) (x : Pool) (guar : Bool) : Dev :=
  let d := (d.deletePool c p).modCtx c fun y => { y with pools := SMap.set y.pools p x }
  let d := d.each x.sets.dedup fun w d => d.mapWindow c w
  let stat := 1 + x.role * 2 + (if x.pinned then 8 else 0) + (if guar then 16 else 0) + x.cores.length * 2 ^ 24
  (d.setReg .genPoolStat c stat p).countPinned c

/-- Whether the windows of two sets overlap. -/
def Dev.windowsMeet (d : Dev) (v w : Nat) : Bool :=
  let a := d.reg .accSetBase v
  let b := d.reg .accSetBase w
  a < b + d.reg .accSetSize w && b < a + d.reg .accSetSize v

/-- Whether the windows of the sets that a pool newly names cannot be mapped: one overlaps something mapped, or another of them (R196). -/
def Dev.windowsBlocked (d : Dev) (c : Nat) (new : List Nat) : Bool :=
  let new := new.dedup
  (new.filter fun s => !d.windowMapped c s).any fun s => d.windowHits c s || new.any fun t => t ≠ s && d.windowsMeet s t

/-- A context's leaves with the windows of some sets mapped. -/
def Dev.withWindows (d : Dev) (c : Nat) (ws : List Nat) : SMap Leaf :=
  (ws.filter fun w => !d.windowMapped c w).foldl
    (fun ls w => (d.windowGranules w).foldl (fun ls g => SMap.set ls g (windowLeaf w)) ls) (d.ctx c).leaves

/-- POOL creates, replaces or deletes a pool. DESIGN CHOICE (log entry 19): where several refusals of R93 hold, the first of this order
counts: form, live rollouts, INTEGRITY, QUOTA, the step program, the windows. -/
def Dev.pool (q i : Nat) (d : Dev) : Dev :=
  d.withDesc q i 4 4 fun c w bs d =>
    let p := poolId bs
    let n := fieldAt bs 20 2
    let free := d.poolFree c p
    if !poolForm bs then d.complete w Status.internal 0
    else if d.poolLive c p then d.complete w Status.deferred 0
    else if n = 0 then (d.deletePool c p).complete w Status.ok 0
    else if d.poolWrong c bs then d.complete w Status.integrity 0
    else if free.length < n || (bitOf (fieldAt bs 17 1) 6 && 16 ≤ d.pinnedElsewhere c) then d.complete w Status.quota 0
    else
      match d.stepProgram c (fieldAt bs 24 8) with
      | (.error st, d) => d.complete w st 0
      | (.ok prog, d) =>
        let x := poolFrom bs (free.take n) prog
        let kept := match d.poolOf c p with | some y => y.sets | none => []
        let ls := d.withWindows c x.sets
        if d.windowsBlocked c (x.sets.filter fun s => !kept.contains s) then d.complete w Status.pageFault 0
        else if !d.tablesFit c ls 0 then (d.noteFull (d.tablesStarved c ls 0)).complete w Status.quota 0
        else (d.makePool c p x (bitOf (fieldAt bs 17 1) 7)).complete w Status.ok 0

/-! ### START (R97, R99, R112, R113, R118, R125, R140, R199) -/

/-- The form of a START. -/
def startForm (bs : List Byte) : Bool :=
  let temp : W32 := BitVec.ofNat 32 (fieldAt bs 44 4)
  let inside (n : Nat) : Bool := 1 ≤ n && n ≤ 0xFFFFFF
  fieldAt bs 17 1 < 2 && fieldAt bs 19 1 = 0 && fieldAt bs 23 1 = 0 && inside (fieldAt bs 24 4) && inside (fieldAt bs 28 4) &&
    (fieldAt bs 52 2 < 64 || fieldAt bs 52 2 = 0xFFFF) && !(f32 temp).bad && !(f32 temp).neg

/-- The lowest KV slot that no live rollout of a context holds. -/
def Dev.lowSlot (d : Dev) (c : Nat) : Nat :=
  let held := ((d.ctx c).rollouts.filter (·.holdsSlot)).map (·.slot)
  ((List.range 65535).find? fun s => !held.contains s).getD 65535

/-- The highest self-throttle level among some cores, in sixteenths. -/
def Dev.topLevel (d : Dev) (cores : List Nat) : Nat := 
  cores.foldl (fun n k => max n (bitsOf (d.reg .pwrCoreThr 0 (k / 16)) (4 * (k % 16)) 4)) 0

/-- Whether a START's pools take it: both exist with their roles (a remote prefill pool needs none here), the layouts
agree, and no set they name has gone. -/
def Dev.startPools (d : Dev) (c dec pre : Nat) : Option Pool :=
  match d.poolOf c dec with
  | none => none
  | some x =>
    let okDec := (x.role = 1 || x.role = 2) && !x.gone
    if x.peerRank ≠ 0xFFFF then if okDec && (dec ≠ pre || x.role = 2) then some x else none
    else match d.poolOf c pre with
      | none => none
      | some y =>
        if okDec && (y.role = 0 || y.role = 2) && !y.gone && (dec ≠ pre || x.role = 2) && x.tpg = y.tpg && x.ppg = y.ppg then some x
        else none

/-- The reason for which admission fails, if any (R97, R118). -/
def Dev.admission (d : Dev) (c dec : Nat) (x : Pool) (len maxNew deadline : Nat) (hard : Bool) : Option Nat :=
  let live := (d.ctx c).rollouts.filter fun r => r.decPool = dec && r.peer.isNone
  let pages := ceilDiv (len + maxNew) x.tpg * x.ppg
  let b := live.length + 1
  let dls := (deadline :: live.map (·.deadline)).filter (· ≠ 0)
  let w := ceilDiv ((x.w0 + b * x.w1) * 16) (16 - d.topLevel x.cores)
  let guar := d.flag F.genPoolStat_guar c dec && !x.lost
  if d.get F.genKv_quota_pages c < d.get F.genKv_reserved c + pages || 65536 / x.ppg * x.tpg < len + maxNew then some 4
  else if x.maxBatch < b || dls.any (fun dl => ceilDiv (13 * dl) 10 < w) || (hard && !guar) || 65535 ≤ (d.ctx c).rollouts.length then some 5
  else none

/-- The rollout that a START states. -/
def rolloutFrom (bs : List Byte) (w : Waiter) (remote : Bool) (slot pages : Nat) (prompt : List Byte) : Rollout :=
  let dec := bitsOf (fieldAt bs 18 1) 0 4
  { seq := fieldAt bs 20 3, peer := none, who := w, st := .prefill, slot := slot, decPool := dec,
    prePool := if remote then dec else bitsOf (fieldAt bs 18 1) 4 4, hardDl := bitOf (fieldAt bs 17 1) 0,
    promptLen := fieldAt bs 24 4, maxNew := fieldAt bs 28 4, prompt := prompt, deadline := fieldAt bs 40 4,
    temp := BitVec.ofNat 32 (fieldAt bs 44 4), topK := fieldAt bs 48 2, topP := fieldAt bs 50 2, maskId := fieldAt bs 52 2,
    ring := fieldAt bs 54 2, source := fieldAt bs 56 8, pages := pages, filled := 0, tokens := 0, last := 0, inStep := false,
    stepLo := 0, stepHi := 0, epoch := 0, envEpoch := 0, toks := [], recStep := 0, recEpoch := 0, recPrompt := true,
    ending := none, cancels := [], pauses := [], resumes := [], evicts := [], pausing := none, expiry := none, freed := [] }

/-- Admit a rollout: slot, reservation, counts; a remote prefill is asked for over the fabric (R95). -/
def Dev.takeIn (d : Dev) (c : Nat) (w : Waiter) (bs : List Byte) (x : Pool) (prompt : List Byte) : Dev :=
  let remote : Bool := x.peerRank != 0xFFFF
  let pages := ceilDiv (fieldAt bs 24 4 + fieldAt bs 28 4) x.tpg * x.ppg
  let r := rolloutFrom bs w remote (d.lowSlot c) pages prompt
  let d := (d.accept w).modCtx c fun y => { y with rollouts := y.rollouts ++ [r] }
  let d := (d.incMod F.genKv_reserved c pages).incMod F.genStat_live c
  let d := d.each r.poolIds fun p d => d.incMod F.genPoolStat_batch c 1 p
  if remote then d.send x.peerRank 0 (.prefillAsk x.peerCtx x.peerPool d.ownRank c r.seq x.tpg x.ppg prompt) prompt.length else d

/-- START: refused, deferred, or admitted to PREFILL. DESIGN CHOICE (log entry 73): a START refused with INTERNAL, PAGE_FAULT or
INTEGRITY has the result word 0; Table 4.2 has no REASON for it. -/
def Dev.start (q i : Nat) (d : Dev) : Dev :=
  d.withDesc q i 4 0 fun c w bs d =>
    let seq := fieldAt bs 20 3
    let ring := fieldAt bs 54 2
    let dec := bitsOf (fieldAt bs 18 1) 0 4
    let len := fieldAt bs 24 4
    if !startForm bs || (d.rollout c seq).isSome then d.complete w Status.internal 0
    else if !d.mapped c (fieldAt bs 32 8) (4 * len) then d.complete w Status.pageFault 0
    else if 1024 ≤ ring || !d.ringOf c ring then d.complete w Status.integrity 0
    else
      match d.startPools c dec (bitsOf (fieldAt bs 18 1) 4 4) with
      | none => d.complete w Status.integrity 0
      | some x =>
        match d.admission c dec x len (fieldAt bs 28 4) (fieldAt bs 40 4) (bitOf (fieldAt bs 17 1) 0) with
        | some reason =>
          let d := d.incSat (if reason = 4 then F.genDefer_by_quota else F.genDefer_by_time) c
          let (word, d) := d.startWord 0 reason 0
          d.complete w Status.deferred word
        | none =>
          let (g, d) := d.readVa c none [] (fieldAt bs 32 8) (4 * len)
          d.takeIn c w bs x g.raw

/-! ### MASK (R102) -/

/-- MASK copies a bit vector into a mask slot. DESIGN CHOICE (log entry 73): one whose bit vector cannot be read completes with the
read's status and leaves the slot as it was; R102 does not say. -/
def Dev.mask (q i : Nat) (d : Dev) : Dev :=
  d.withDesc q i 4 5 fun c w bs d =>
    let id := fieldAt bs 18 2
    let n := fieldAt bs 20 4
    let va := fieldAt bs 24 8
    if 64 ≤ id || n = 0 || 2 ^ 20 < n || va % 64 ≠ 0 || fieldAt bs 17 1 ≠ 0 || !allZero (slice bs 32 32) then
      d.complete w Status.internal 0
    else
      let (g, d) := d.readVa c none [] va (ceilDiv n 8)
      match g.bad with
      | some (st, _) => d.complete w st 0
      | none => (d.modCtx c fun x => { x with masks := SMap.set x.masks id (n, g.raw) }).complete w Status.ok 0

/-! ### Steps (R18, R89, R94, R102, R124, R143, R224) -/

/-- The cores on which a pool may start a step: none that a pending CORES request names (R23). -/
def Dev.stepCores (d : Dev) (c : Nat) (x : Pool) : List Nat := x.cores.filter fun k => !(d.ctx c).stopping.contains k

/-- The first positions and the ends of a batch table's entry. -/
structure BatchRow where
  seq : Nat
  slot : Nat
  lo : Nat
  hi : Nat
  deriving DecidableEq, Repr

/-- The bytes of a batch table, with the reward array of +0.0 after it (Table 5.4, R143). -/
def batchBytes (rows : List BatchRow) : List Byte :=
  leBytes 16 rows.length ++ (rows.flatMap fun r => leBytes 4 r.seq ++ leBytes 4 r.slot ++ leBytes 4 r.lo ++ leBytes 4 r.hi) ++
  List.replicate (4 * rows.length) 0

/-- The device writes bytes of its own at an address of Table 12.2 of a context. -/
def Dev.devicePut (d : Dev) (c : Nat) (w : Word) (bs : List Byte) : Dev :=
  match Addr.of w.toNat with
  | .va a => (d.writeVa c [] a bs).2.2
  | .ls k off => if d.ownsCore c k && off + bs.length ≤ storeBytes then d.lsWrite k off bs else d
  | .bad => d

/-- The device reads bytes of its own. -/
def Dev.deviceGet (d : Dev) (c : Nat) (w : Word) (n : Nat) : List Byte × Dev :=
  match Addr.of w.toNat with
  | .va a => d.peekVa c none a n
  | .ls k off => (if d.ownsCore c k && off + n ≤ storeBytes then d.lsRead k off n else List.replicate n 0, d)
  | .bad => (List.replicate n 0, d)

/-- Add the step clauses of a program, in its order, with GEN set; an image that fails its checks faults the context
(R57, R94). -/
def Dev.addSteps (d : Dev) (c p : Nat) (cores : List Nat) (arg : Nat) (seed : Word) : List (Nat × Nat) → Dev
  | [] => d
  | (n, va) :: t =>
    match d.loadImage c va with
    | (.error st, d) => d.faultCtx c st 0 3 va
    | (.ok h, d) =>
      (d.addClause c fun id => clauseOf id (d.ctx c).takes (.step c p n) none h cores.length 0 true false 0 0 [] [] arg cores seed).addSteps
        c p cores arg seed t

/-- Begin a step of a pool: latches, the batch table, the step clauses. -/
def Dev.beginStep (d : Dev) (c p : Nat) (x : Pool) (rows : List BatchRow) (decode : Bool) (table : Word) : Dev :=
  let cores := d.stepCores c x
  let seed : Word := BitVec.ofNat 64 (d.reg .rngSeed c)
  let seqs := rows.map (·.seq)
  let dls := if decode then (seqs.filterMap fun s => (d.rollout c s).map (·.deadline)).filter (· ≠ 0) else []
  let run : StepRun := ⟨d.ns, seqs, seqs, dls.foldl (fun m v => if m = 0 then v else min m v) 0, decode, table, false, cores⟩
  let d := d.modPool c p fun y => { y with step := some run, stepNo := y.stepNo + 1, seed := seed, next := [] }
  let d := d.latchSets c p x
  let d := d.each rows fun r d => d.modRollout c r.seq fun y => { y with inStep := true, stepLo := r.lo, stepHi := r.hi }
  let d := d.devicePut c table (batchBytes rows)
  d.addSteps c p cores table.toNat seed (numbered x.prog)

/-- Whether a pool can start a step: its context runs, no step of it is in progress, and it has a core to run on. -/
def Dev.canStep (d : Dev) (c : Nat) (x : Pool) : Bool :=
  d.ctxState c = CtxSt.active && x.step.isNone && !(d.stepCores c x).isEmpty

/-- PREFILL_STEP: up to PREFILL_CHUNK prompt tokens of a rollout. -/
def Dev.prefillStep (c seq : Nat) (table : Word) (d : Dev) : Dev :=
  match d.rollout c seq with
  | none => d
  | some r =>
    match d.poolOf c r.prePool, d.poolOf c r.decPool with
    | some x, some y =>
      if r.st = .prefill && !r.inStep && r.filled < r.promptLen && (r.peer.isSome || y.peerRank = 0xFFFF) && d.canStep c x then
        if x.gone || y.gone then d.endRollout c seq Status.ctxTornDown 7
        else
          d.beginStep c r.prePool x [⟨seq, r.slot, r.filled, r.filled + min x.chunk (r.promptLen - r.filled)⟩] false table
      else d
    | _, _ => d

/-- The RUNNING rollouts of a pool in ascending slot order. -/
def Dev.batchOf (d : Dev) (c p : Nat) : List Rollout :=
  sortBy (fun a b => a.slot < b.slot) ((d.ctx c).rollouts.filter fun r => r.decPool = p && r.st = .running && !r.inStep)

/-- The contents of a rollout's mask slot; a slot never written allows nothing. -/
def Dev.maskOf (d : Dev) (c : Nat) (r : Rollout) : Option (Nat × List Byte) :=
  if r.maskId = 0xFFFF then none else some (SMap.get (d.ctx c).masks (0, []) r.maskId)

/-- The token-choice clause for one rollout: its token and log-probability join its open record. -/
def Dev.chooseFor (d : Dev) (c : Nat) (x : Pool) (scores : List SeqScores) (seq : Nat) : Dev :=
  match d.rollout c seq with
  | none => d
  | some r =>
    let (epoch, env) := d.poolEpochs x
    let d := if !r.toks.isEmpty && r.recEpoch ≠ epoch then d.closeRecord c seq else d
    let z := match scores.find? fun s => s.seq = seq with | some s => s.scores | none => []
    let seed : Word := BitVec.ofNat 64 (d.reg .rngSeed c)
    let choice := chooseToken x.vocab r.temp r.topK r.topP (d.maskOf c r) z fun i =>
      draw32 seed (BitVec.ofNat 64 (c * 2 ^ 24 + seq)) (r.promptLen + r.tokens) i
    d.modRollout c seq fun r =>
      let r := { r with epoch := epoch, envEpoch := env }
      match choice with
      | none => { r with ending := some (Status.cancelled, 2) }
      | some (t, lp) =>
        { r with toks := r.toks ++ [⟨t, lp, 0#32, env⟩], recStep := if r.toks.isEmpty then r.tokens else r.recStep,
                 recEpoch := epoch, last := t, tokens := r.tokens + 1 }

/-- DECODE_STEP: one pass of a pool's step program over its RUNNING rollouts, with the scores that the program gives. -/
def Dev.decodeStep (c p : Nat) (table : Word) (scores : List SeqScores) (d : Dev) : Dev :=
  match d.poolOf c p with
  | none => d
  | some x =>
    let batch := d.batchOf c p
    if x.role ≠ 0 && !batch.isEmpty && d.canStep c x then
      if x.gone then d.each batch fun r d => d.endRollout c r.seq Status.ctxTornDown 7
      else
        let rows := batch.map fun r => (⟨r.seq, r.slot, r.promptLen + r.tokens, r.promptLen + r.tokens + 1⟩ : BatchRow)
        let d := d.beginStep c p x rows true table
        d.each batch fun r d => d.chooseFor c x scores r.seq
    else d

/-! ### Shipping the prompt (R95, R125) -/

/-- Copy one page of the prefill range to the same page of the decode range, with what its header holds. -/
def Dev.shipPage (d : Dev) (c : Nat) (r : Rollout) (page : Nat) : Bool × Dev :=
  let src := d.kvBase c true r.slot + page * pageBytes
  let dst := d.kvBase c false r.slot + page * pageBytes
  let (h, d) := d.peekVa c none (d.kvHeader c true r.slot page) 64
  let (bs, d) := d.peekVa c none src pageBytes
  let (ok, d) := if ((d.ctx c).leafAt (dst / pageBytes)).isSome then (true, d)
    else d.kvTouch c dst (some ⟨bitsOf (fieldAt h 0 1) 0 4, fieldAt h 16 2, fieldAt h 24 8⟩)
  if ok then
    let d := (d.land c dst bs).pokeVa c (d.kvHeader c false r.slot page + 12) (slice h 12 2)
    (true, d.freeKv c [src / pageBytes])
  else (false, d)

/-- Ship pages until one finds no frame. -/
def Dev.shipGo (d : Dev) (c : Nat) (r : Rollout) : List Nat → Dev
  | [] => d
  | p :: ps => match d.shipPage c r p with
    | (true, d) => d.shipGo c r ps
    | (false, d) => d

/-- The pages of a rollout's prefill range that hold keys and values of the groups from `lo` to before `hi`. -/
def Dev.groupPages (d : Dev) (c : Nat) (r : Rollout) (ppg lo hi : Nat) : List Nat :=
  let b := d.kvBase c true r.slot / pageBytes
  ((d.preGranules c r).map (· - b)).filter fun p => lo * ppg ≤ p && p < hi * ppg

/-- The groups that a prompt's first `n` positions complete: the last group of the prompt may be short. -/
def groupsDone (promptLen tpg n : Nat) : Nat := if promptLen ≤ n then ceilDiv promptLen (max 1 tpg) else n / max 1 tpg

/-- Copy the groups that a prefill step has completed to the decode range, and free their prefill frames (R125). -/
def Dev.shipGroups (d : Dev) (c : Nat) (r : Rollout) (x : Pool) (n : Nat) : Dev :=
  d.shipGo c r (d.groupPages c r x.ppg (groupsDone r.promptLen x.tpg r.filled) (groupsDone r.promptLen x.tpg n))

/-- Ship what is left of the prompt's pages between two pools of the context; the prefill side's frames return to the KV pool. -/
def Dev.shipPrompt (d : Dev) (c : Nat) (r : Rollout) : Dev :=
  let b := d.kvBase c true r.slot / pageBytes
  let d := d.shipGo c r ((d.preGranules c r).map (· - b))
  let hdr := d.kvGranules c (d.kvHeader c true r.slot 0) (2 ^ 22)
  d.freeKv c (d.preGranules c r ++ hdr)

/-- PROMPT_SHIPPED: the last prompt page has completed at the decode pool. -/
def Dev.promptShipped (c seq : Nat) (d : Dev) : Dev :=
  match d.rollout c seq with
  | none => d
  | some r =>
    let remote : Bool := match d.poolOf c r.decPool with | some x => x.peerRank != 0xFFFF | none => false
    if r.st = .prefill && !r.inStep && d.working c && r.filled = r.promptLen && r.peer.isNone then
      let d := if remote || r.prePool = r.decPool then d else d.shipPrompt c r
      match d.rollout c seq with
      | some r =>
        match r.ending with
        | some (st, reason) => d.endRollout c seq st reason
        | none => d.modRollout c seq fun r => { r with st := .running, filled := r.promptLen }
      | none => d
    else d

/-- REMOTE_PREFILL_REFUSED: the peer has no room for the prompt, or another layout. -/
def Dev.remotePrefillRefused (c seq : Nat) (d : Dev) : Dev :=
  match d.rollout c seq with
  | none => d
  | some r =>
    let remote : Bool := match d.poolOf c r.decPool with | some x => x.peerRank != 0xFFFF | none => false
    if r.st = .prefill && remote && d.working c then d.endRollout c seq Status.deferred 6 else d

/-! ### Remote prefill (R95, R113, R125) -/

/-- What makes a peer refuse a prefill: no such pool for it, another layout, no room for the prompt's pages, or a SEQ_ID that is live in
its context (log entry 74). -/
def Dev.prefillRefused (d : Dev) (c p seq tpg ppg pages : Nat) : Bool :=
  match d.poolOf c p with
  | none => true
  | some x =>
    !(x.role = 0 || x.role = 2) || x.gone || x.tpg ≠ tpg || x.ppg ≠ ppg || (d.rollout c seq).isSome || 65535 ≤ (d.ctx c).rollouts.length ||
      d.get F.genKv_quota_pages c < d.get F.genKv_reserved c + pages

/-- The prefill that a peer runs for another device's rollout: a slot of its own, the prompt, and whom it ships to. -/
def servedRollout (seq rank home p slot pages : Nat) (prompt : List Byte) : Rollout :=
  { seq := seq, peer := some (rank, home), who := ⟨4096, 0, 0⟩, st := .prefill, slot := slot, decPool := p, prePool := p, hardDl := false,
    promptLen := prompt.length / 4, maxNew := 0, prompt := prompt, deadline := 0, temp := 0#32, topK := 0, topP := 0, maskId := 0xFFFF,
    ring := 0xFFFF, source := 0, pages := pages, filled := 0, tokens := 0, last := 0, inStep := false, stepLo := 0, stepHi := 0,
    epoch := 0, envEpoch := 0, toks := [], recStep := 0, recEpoch := 0, recPrompt := false, ending := none, cancels := [], pauses := [],
    resumes := [], evicts := [], pausing := none, expiry := none, freed := [] }

/-- A prefill request of another device arrives: a slot and the prompt's pages are reserved, or the request is refused. -/
def Dev.prefillAsked (d : Dev) (c p rank home seq tpg ppg : Nat) (prompt : List Byte) : Dev :=
  let pages := ceilDiv (prompt.length / 4) (max 1 tpg) * ppg
  if d.ctxState c ≠ CtxSt.active || prompt.length < 4 || d.prefillRefused c p seq tpg ppg pages then
    d.send rank 0 (.prefillNo home seq) 0
  else
    (d.modCtx c fun y => { y with rollouts := y.rollouts ++ [servedRollout seq rank home p (d.lowSlot c) pages prompt] }).incMod
      F.genKv_reserved c pages

/-- The device of a rollout gives its remote prefill up. -/
def Dev.prefillStopped (d : Dev) (c seq rank home : Nat) : Dev :=
  match d.rollout c seq with
  | some r => if r.peer = some (rank, home) then d.endServed c seq else d
  | none => d

/-- Send the groups that a prefill step has completed to the device of the rollout, and the end of the prompt. -/
def Dev.shipRemote (d : Dev) (c : Nat) (r : Rollout) (x : Pool) (n : Nat) : Dev :=
  match r.peer with
  | none => d
  | some (rank, home) =>
    let d := d.each (d.groupPages c r x.ppg (groupsDone r.promptLen x.tpg r.filled) (groupsDone r.promptLen x.tpg n)) fun page d =>
      let (h, d) := d.peekVa c none (d.kvHeader c true r.slot page) 64
      let (bs, d) := d.peekVa c none (d.kvBase c true r.slot + page * pageBytes) pageBytes
      d.send rank 0 (.kvPage home r.seq page h bs) pageBytes
    if r.promptLen ≤ n then d.send rank 0 (.kvDone home r.seq) 0 else d

/-- The pool of a rollout that waits for a remote prefill. -/
def Dev.remotePool (d : Dev) (c : Nat) (r : Rollout) : Option Pool :=
  match d.poolOf c r.decPool with
  | some x => if r.st = .prefill && r.peer.isNone && x.peerRank ≠ 0xFFFF then some x else none
  | none => none

/-- A prompt page from the peer lands in the decode range, on a frame of the KV pool, and is acknowledged. -/
def Dev.kvPageArrive (d : Dev) (c seq page : Nat) (h bs : List Byte) : Dev :=
  match d.rollout c seq with
  | none => d
  | some r =>
    match d.remotePool c r with
    | none => d
    | some x =>
      let dst := d.kvBase c false r.slot + page * pageBytes
      let (ok, d) := if ((d.ctx c).leafAt (dst / pageBytes)).isSome then (true, d)
        else d.kvTouch c dst (some ⟨bitsOf (fieldAt h 0 1) 0 4, fieldAt h 16 2, fieldAt h 24 8⟩)
      let d := if ok then (d.land c dst bs).pokeVa c (d.kvHeader c false r.slot page + 12) (slice h 12 2) else d
      d.send x.peerRank 0 (.kvAck x.peerCtx seq page) 0

/-- The last page of the prompt has been sent and has landed before this. -/
def Dev.kvDoneArrive (d : Dev) (c seq : Nat) : Dev :=
  match d.rollout c seq with
  | some r => if (d.remotePool c r).isSome then d.modRollout c seq fun r => { r with filled := r.promptLen } else d
  | none => d

/-- A shipped page has completed at the decode device: its prefill frame is freed, and with the last one the slot (R95, R113). -/
def Dev.kvAckArrive (d : Dev) (c seq page : Nat) : Dev :=
  match d.rollout c seq with
  | some r =>
    if r.peer.isSome then
      let d := d.freeKv c [d.kvBase c true r.slot / pageBytes + page]
      if r.promptLen ≤ r.filled && (d.preGranules c r).isEmpty then d.endServed c seq else d
    else d
  | none => d

/-! ### Pause and resume (R103 to R106, R239, R242) -/

/-- Whether a MOVE in progress holds part of a rollout's decode range (R238). -/
def Dev.rangeHeld (d : Dev) (c : Nat) (r : Rollout) : Bool :=
  d.moveHolds c (d.kvBase c false r.slot / pageBytes) (2 ^ 30 / pageBytes)

/-- The leaves of a rollout's data pages. -/
def Dev.decLeaves (d : Dev) (c : Nat) (r : Rollout) : List (Nat × Leaf) :=
  ((d.ctx c).leavesIn (d.kvBase c false r.slot / pageBytes) (2 ^ 30 / pageBytes)).filter fun e => e.2.kind = .kv

/-- A PAUSE applies: places for every page in the heart note are reserved and the move begins, or it completes with
QUOTA and the rollout stays RUNNING. -/
def Dev.applyPause (d : Dev) (c seq : Nat) (w : Waiter) (ttl : Nat) : Dev :=
  match d.rollout c seq with
  | none => d
  | some r =>
    match (if d.noHeart 1 then (none, d) else d.reserveAll c 1 [1] (d.decLeaves c r) []) with
    | (none, tried) => d.refuseQuota tried w
    | (some left, d) =>
      let d := d.answerAll (r.pauses.filterMap fun p => if p.1 = w then none else some p.1)
      let d := (d.modRollout c seq fun r => { r with st := .pausing, pausing := some (w, ttl), pauses := [] }).incMod F.genStat_paused c
      d.startMove c (.pause seq) (d.kvBase c false r.slot / pageBytes) (2 ^ 30 / pageBytes) 1 left

/-- A RESUME applies to a PAUSED rollout: the move back to the top note begins. A KV page takes its frame from the
context's KV pool. -/
def Dev.applyResume (d : Dev) (c seq : Nat) (w : Waiter) : Dev :=
  match d.rollout c seq with
  | none => d
  | some r =>
    match d.reserveAll c 0 [0] (d.decLeaves c r) [] with
    | (none, tried) => d.refuseQuota tried w
    | (some left, d) =>
      let d := (d.modRollout c seq fun r => { r with st := .resuming, resumes := [w] }).dec F.genStat_paused c
      d.startMove c (.resume seq) (d.kvBase c false r.slot / pageBytes) (2 ^ 30 / pageBytes) 0 left

/-! ### Eviction (R130 to R133) -/

/-- The page groups of a rollout that hold pages: group number and granules, ascending. DESIGN CHOICE (log entry 73): the newest PROTECT
groups are counted among these; R130 does not say whether a group that an earlier EVICT freed counts. -/
def Dev.groupsOf (d : Dev) (c : Nat) (r : Rollout) (ppg : Nat) : List (Nat × List Nat) :=
  let b := d.kvBase c false r.slot / pageBytes
  let ks := (d.decLeaves c r).map (·.1)
  ((ks.map fun k => (k - b) / max 1 ppg).dedup).map fun g => (g, ks.filter fun k => (k - b) / max 1 ppg = g)

/-- A group's score: the lowest SCORE among its pages. -/
def Dev.groupScore (d : Dev) (c : Nat) (r : Rollout) (ks : List Nat) : Nat :=
  let b := d.kvBase c false r.slot / pageBytes
  ks.foldl (fun n k => min n (leNat (d.peekVa c none (d.kvHeader c false r.slot (k - b) + 14) 2).1)) 0xFFFF

/-- Take groups until they hold `k` pages. -/
def takePages (k : Nat) : List (Nat × Nat × List Nat) → List (Nat × Nat × List Nat)
  | [] => []
  | x :: xs => if k ≤ x.2.2.length then [x] else x :: takePages (k - x.2.2.length) xs

/-- The groups that an EVICT selects: score, number and granules of each (R130). -/
def Dev.selectGroups (d : Dev) (c : Nat) (r : Rollout) (e : EvictReq) : List (Nat × Nat × List Nat) :=
  match d.poolOf c r.decPool with
  | none => []
  | some p =>
    let gs := d.groupsOf c r p.ppg
    let next := (r.promptLen + r.tokens) / max 1 p.tpg
    let newest := gs.drop (gs.length - e.protect)
    let inTop (ks : List Nat) : Bool := ks.all fun k => match SMap.find (d.ctx c).leaves k with | some l => l.tier = 0 | none => false
    let cands := (gs.filter fun g => !newest.contains g && g.1 ≠ next && (e.action = 0 || inTop g.2)).map
      fun g => (d.groupScore c r g.2, g.1, g.2)
    takePages e.k (sortBy (fun a b => a.1 < b.1 || (a.1 = b.1 && a.2.1 < b.2.1)) (cands.filter fun x => x.1 ≠ 0xFFFF))

/-- An EVICT applies (R130, R131). -/
def Dev.applyEvict (d : Dev) (c seq : Nat) (e : EvictReq) : Dev :=
  match d.rollout c seq with
  | none => d
  | some r =>
    let sel := d.selectGroups c r e
    let ks := sel.flatMap (·.2.2)
    let top := sel.foldl (fun n x => max n x.1) 0
    let word := evictWord ks.length sel.length top
    if e.action = 1 && d.noHeart 1 then d.complete e.who Status.quota 0
    else if sel.isEmpty then d.complete e.who Status.ok word
    else if e.action = 0 then
      let d := (d.freeKv c ks).modRollout c seq fun r => { r with freed := r.freed ++ sel.map (·.2.1) }
      (d.incSat F.kvEvictStat_freed c ks.length).complete e.who Status.ok word
    else
      match d.reserveAll c 1 [1] ((d.ctx c).leaves.filter fun x => ks.contains x.1) [] with
      | (none, tried) => d.refuseQuota tried e.who
      | (some left, d) =>
        let lo := ks.foldl min (ks.headD 0)
        let hi := ks.foldl max 0
        d.startMove c (.evict e.who seq ks.length sel.length top) lo (hi + 1 - lo) 1 left

/-- The EVICTs that wait for a rollout apply in the order they were taken; one whose move overlaps a MOVE in progress
goes on waiting, and those after it apply (R132, R238). -/
def Dev.applyEvicts (d : Dev) (c seq : Nat) : List EvictReq → Dev
  | [] => d
  | e :: es =>
    let held : Bool := match d.rollout c seq with | some r => e.action = 1 && d.rangeHeld c r | none => false
    if held then d.applyEvicts c seq es else
      ((d.modRollout c seq fun r => { r with evicts := r.evicts.filter (· ≠ e) }).applyEvict c seq e).applyEvicts c seq es

/-- EVICT. DESIGN CHOICE (log entry 73): a K above the 65,536 of Table 5.7 completes with INTERNAL, as a K of 0 does; an EVICT taken for
a rollout in RESUMING waits for its next decode step boundary, as in RUNNING. R132 and R133 name neither. -/
def Dev.evict (q i : Nat) (d : Dev) : Dev :=
  d.withDesc q i 9 256 fun c w bs d =>
    let e : EvictReq := ⟨w, fieldAt bs 17 1, fieldAt bs 18 2, fieldAt bs 24 4⟩
    let seq := fieldAt bs 20 3
    if fieldAt bs 16 1 ≠ 0 || 1 < e.action || fieldAt bs 23 1 ≠ 0 || e.k = 0 || 65536 < e.k || !allZero (slice bs 28 36) then
      d.complete w Status.internal 0
    else
      match d.rollout c seq with
      | none => d.complete w Status.ok noEffect
      | some r =>
        let pinned : Bool := match d.poolOf c r.decPool with | some p => p.pinned | none => false
        if r.st = .ending then d.complete w Status.ok noEffect
        else if pinned then d.complete w Status.integrity 0
        else if r.st = .paused then
          if e.action = 1 && d.rangeHeld c r then d else (d.accept w).applyEvict c seq e
        else (d.accept w).modRollout c seq fun r => { r with evicts := r.evicts ++ [e] }

/-! ### Step boundaries (R90, R98, R103, R120, R143) -/

/-- Set TOKENS in the headers of the pages of every group that a step appended to (R120). -/
def Dev.setTokens (d : Dev) (c : Nat) (r : Rollout) (pre : Bool) (p : Pool) (lo hi : Nat) : Dev :=
  if hi ≤ lo then d else
    let tpg := max 1 p.tpg
    d.each ((List.range ((hi - 1) / tpg - lo / tpg + 1)).map (lo / tpg + ·)) fun g d =>
      d.each (List.range p.ppg) fun i d =>
        let page := g * p.ppg + i
        if (SMap.find (d.ctx c).leaves (d.kvBase c pre r.slot / pageBytes + page)).isSome then
          d.pokeVa c (d.kvHeader c pre r.slot page + 12) (leBytes 2 (min tpg (hi - g * tpg)))
        else d

/-- The last clause of a step has completed: its bank latches end, and a decode step that exceeded the least deadline of
its batch table counts as a miss (R98). -/
def Dev.closeStep (d : Dev) (c p : Nat) (run : StepRun) : Dev :=
  let d := (d.unlatchSets c p).modPool c p fun y => { y with step := some { run with closed := true } }
  let len := d.ns - run.start
  if run.least ≠ 0 && run.least < len then
    (d.incSat F.genDlStat_misses c).put F.genDlStat_last_over_ns c (satAdd 32 0 (len - run.least))
  else d

/-- A rollout leaves its pool's step; the last one ends it. -/
def Dev.leaveStep (d : Dev) (c p seq : Nat) : Dev :=
  d.modPool c p fun y => match y.step with
    | some run =>
      let rest := run.seqs.filter (· ≠ seq)
      { y with step := if rest.isEmpty then none else some { run with seqs := rest } }
    | none => y

/-- The reward that the step's program left for a rollout (R143). -/
def Dev.rewardOf (d : Dev) (c : Nat) (run : StepRun) (seq : Nat) : W32 × Dev :=
  let n := run.batch.length
  let i := run.batch.findIdx (· = seq)
  let (bs, d) := d.deviceGet c (run.table + BitVec.ofNat 64 (16 + 16 * n + 4 * i)) 4
  (BitVec.ofNat 32 (leNat bs), d)

/-- The token of a decode step takes its reward; a token whose append found no frame is not the rollout's (R123). The
rollout's own end follows from it (Table 4.1). -/
def Dev.decodeResult (d : Dev) (c seq : Nat) (x : Pool) (reward : W32) : Dev :=
  d.modRollout c seq fun r =>
    if r.ending = some (Status.quota, 4) then { r with toks := r.toks.dropLast, tokens := r.tokens - 1 }
    else if r.ending.isSome then r
    else
      { r with toks := r.toks.dropLast ++ (r.toks.getLast?.toList.map fun t => { t with reward := reward }),
               ending := if r.last = x.endToken && x.endToken ≠ 0xFFFFFFFF || r.maxNew ≤ r.tokens then some (Status.ok, 0) else none }

/-- The PAUSEs that wait apply in the order they were taken: one that QUOTA refuses leaves the rollout RUNNING for the next (R103, R104).
A PAUSE whose range a MOVE in progress holds waits (R238). -/
def Dev.applyPauses (d : Dev) (c seq : Nat) : List (Waiter × Nat) → Dev
  | [] => d
  | (w, ttl) :: rest =>
    match d.rollout c seq with
    | none => d
    | some r =>
      if r.st ≠ .running || d.rangeHeld c r then d
      else ((d.modRollout c seq fun r => { r with pauses := rest }).applyPause c seq w ttl).applyPauses c seq rest

/-- What a rollout has taken since its previous boundary, in the order of R103, then R132: the EVICTs taken in RUNNING apply whether or not a
PAUSE has applied before them. -/
def Dev.boundaryActs (d : Dev) (c seq : Nat) (decode : Bool) : Dev :=
  match d.rollout c seq with
  | none => d
  | some r =>
    match r.ending, r.cancels with
    | some (st, reason), _ => d.endRollout c seq st reason
    | none, w :: rest =>
      let d := d.modRollout c seq fun r => { r with cancels := rest }
      (d.complete w Status.ok 0).endRollout c seq Status.cancelled 1
    | none, [] =>
      if d.ctxState c = CtxSt.detached then d.endRollout c seq Status.hostDetached 7
      else if !decode then d
      else
        let d := d.applyPauses c seq r.pauses
        match d.rollout c seq with
        | some r => if r.st = .running || r.st = .pausing then d.applyEvicts c seq r.evicts else d
        | none => d

/-- A rollout passes the boundary of a step of its pool: TOKENS, the reward and the record, or the prompt's groups that it completed, then
what waits for it. -/
def Dev.passBoundary (d : Dev) (c seq : Nat) (r : Rollout) (p : Nat) (x : Pool) (run : StepRun) : Dev :=
  let d := if run.closed then d else d.closeStep c p run
  let d := (d.leaveStep c p seq).modRollout c seq fun r => { r with inStep := false, filled := if run.decode then r.filled else r.stepHi }
  let d := d.setTokens c r (!run.decode && r.preRange) x r.stepLo r.stepHi
  let d := if run.decode then
      let (reward, d) := d.rewardOf c run seq
      let d := d.decodeResult c seq x reward
      match d.rollout c seq with
      | some r => if x.segTokens ≤ r.toks.length then d.closeRecord c seq else d
      | none => d
    else if r.peer.isSome then d.shipRemote c r x r.stepHi
    else if r.preRange then d.shipGroups c r x r.stepHi
    else d
  d.boundaryActs c seq run.decode

/-- The pool whose step a rollout takes part in: its prefill pool until its prompt has shipped. -/
def Rollout.stepPool (r : Rollout) : Nat := if r.st = .prefill then r.prePool else r.decPool

/-- Whether a clause of a pool's step is waiting or placed. -/
def Dev.stepBusy (d : Dev) (c p : Nat) : Bool :=
  (d.ctx c).clauses.any fun y => match y.ref with | .step _ p' _ => p' = p | .desc .. => false

/-- STEP_BOUNDARY of a rollout: the last clause of its step has completed. -/
def Dev.stepBoundary (c seq : Nat) (d : Dev) : Dev :=
  match d.rollout c seq with
  | none => d
  | some r =>
    match d.poolOf c r.stepPool, (d.poolOf c r.stepPool).bind (·.step) with
    | some x, some run =>
      if !r.inStep || d.stepBusy c r.stepPool || !run.seqs.contains seq || !d.working c then d
      else d.passBoundary c seq r r.stepPool x run
    | _, _ => d

/-! ### CANCEL, PAUSE, RESUME (R92, R103 to R106) -/

/-- The form that CANCEL, PAUSE and RESUME share; PAUSE alone uses bytes 24 to 27. -/
def seqForm (bs : List Byte) (ttl : Bool) : Bool :=
  fieldAt bs 17 3 = 0 && fieldAt bs 23 1 = 0 && allZero (slice bs (if ttl then 28 else 24) (if ttl then 36 else 40))

/-- CANCEL: at once where no step is in progress to wait for, else at the step boundary. -/
def Dev.cancel (q i : Nat) (d : Dev) : Dev :=
  d.withDesc q i 4 1 fun c w bs d =>
    let seq := fieldAt bs 20 3
    if !seqForm bs false then d.complete w Status.internal 0 else
      match d.rollout c seq with
      | none => d.complete w Status.ok noEffect
      | some r =>
        let now := (d.complete w Status.ok 0).endRollout c seq Status.cancelled 1
        let later := (d.accept w).modRollout c seq fun r => { r with cancels := r.cancels ++ [w] }
        match r.st with
        | .prefill => if r.inStep then later else now
        | .running => later
        | .pausing => now
        | .paused => now
        | .resuming => d.complete w Status.ok noEffect
        | .ending => d.complete w Status.ok noEffect

/-- PAUSE: it waits for the rollout's next decode step boundary. -/
def Dev.pause (q i : Nat) (d : Dev) : Dev :=
  d.withDesc q i 4 2 fun c w bs d =>
    let seq := fieldAt bs 20 3
    let ttl := fieldAt bs 24 4
    if !seqForm bs true || ttl < 1000 || 3600000000 < ttl then d.complete w Status.internal 0 else
      match d.rollout c seq with
      | none => d.complete w Status.ok noEffect
      | some r =>
        if r.st = .prefill || r.st = .running then
          (d.accept w).modRollout c seq fun r => { r with pauses := r.pauses ++ [(w, ttl)] }
        else d.complete w Status.ok noEffect

/-- RESUME: it waits in PAUSING, applies in PAUSED where the device took it before the expiry, and has no effect else. A RESUME whose
range a MOVE in progress holds waits (R238), and TTL_EXPIRE waits for it (R105). -/
def Dev.resume (q i : Nat) (d : Dev) : Dev :=
  d.withDesc q i 4 3 fun c w bs d =>
    let seq := fieldAt bs 20 3
    if !seqForm bs false then d.complete w Status.internal 0 else
      match d.rollout c seq with
      | none => d.complete w Status.ok noEffect
      | some r =>
        if r.st = .pausing then (d.accept w).modRollout c seq fun r => { r with resumes := r.resumes ++ [w] }
        else if r.st = .paused && (match d.desc q i with | some x => x.time < r.expiry.getD 0 | none => false) then
          if d.rangeHeld c r then d else (d.accept w).applyResume c seq w
        else d.complete w Status.ok noEffect

/-- The move of a rollout in PAUSING or RESUMING, when every page stands in its place. -/
def Dev.doneMove (d : Dev) (c : Nat) (owner : MoveOwner) : Option Move :=
  (d.ctx c).moves.find? fun m => m.owner = owner && m.left.isEmpty

/-- PAUSE_MOVE_DONE: the rollout is PAUSED; its time to live starts at its first entry; EVICT and RESUME that waited apply. -/
def Dev.pauseMoveDone (c seq : Nat) (d : Dev) : Dev :=
  match d.rollout c seq, d.doneMove c (.pause seq) with
  | some r, some m =>
    if r.st = .pausing && d.working c then
      let ttl := match r.pausing with | some (_, t) => t | none => 0
      let d := d.dropMove c m.id
      let d := match r.pausing with | some (w, _) => d.complete w Status.ok 0 | none => d
      let d := d.modRollout c seq fun r => { r with st := .paused, pausing := none, resumes := [], expiry := some (d.ns + 1000 * ttl) }
      let d := d.applyEvicts c seq r.evicts
      match r.resumes with
      | w :: rest => (d.answerAll rest).applyResume c seq w
      | [] => d
    else d
  | _, _ => d

/-- RESUME_MOVE_DONE: the rollout is RUNNING again. -/
def Dev.resumeMoveDone (c seq : Nat) (d : Dev) : Dev :=
  match d.rollout c seq, d.doneMove c (.resume seq) with
  | some r, some m =>
    if r.st = .resuming && d.working c then
      let d := d.each r.resumes fun w d => d.complete w Status.ok 0
      (d.dropMove c m.id).modRollout c seq fun r => { r with st := .running, resumes := [], expiry := none }
    else d
  | _, _ => d

/-- Whether a RESUME of a rollout that the device took before a time is still to apply (R105). -/
def Dev.resumeTaken (d : Dev) (c seq before : Nat) : Bool :=
  (d.queuesOf c).any fun q => (d.queue q).descs.any fun x =>
    !x.accepted && fieldAt x.bytes 0 1 = 4 && fieldAt x.bytes 16 1 = 3 && seqForm x.bytes false && fieldAt x.bytes 20 3 = seq && x.time < before

/-- TTL_EXPIRE: a PAUSED rollout whose time to live has ended. -/
def Dev.ttlExpire (c seq : Nat) (d : Dev) : Dev :=
  match d.rollout c seq with
  | some r =>
    if r.st = .paused && d.working c && r.expiry.any (fun t => t ≤ d.ns && !d.resumeTaken c seq t) then d.endRollout c seq Status.expired 3 else d
  | none => d

/-! ### The generation full stop (R23, R46) -/

/-- GENERATION_FULL_STOP: no rollout step is in progress on the generation cores that a pending request names: their
queued handles are discarded and their sequencers leave STEP_WAIT. -/
def Dev.generationFullStop (c : Nat) (d : Dev) : Dev :=
  let ks := (d.ctx c).stopping.filter fun k => d.ownsCore c k && d.genRole k
  if ks.isEmpty || !ks.all d.coreStopped || !d.working c then d else
    ((((d.discardHandles ks).clearHalts ks).endStepWait ks).issueHeld ks).removeSlow c ks

/-! ### KV registers (R115, R242, KV_POOL) -/

/-- KV_BASE_WRITE: KV_VBASE, KV_PVBASE or KV_HVBASE, ignored while a rollout is live. -/
def Dev.kvBaseWrite (fn c which : Nat) (value : Word) (d : Dev) : Dev :=
  if d.ctxWritable fn c && d.get F.genStat_live c = 0 then
    if which = 0 then d.put F.kvVbase_base c (bitsOf value.toNat 30 34)
    else if which = 1 then d.put F.kvPvbase_base c (bitsOf value.toNat 30 34)
    else d.put F.kvHvbase_base c (bitsOf value.toNat 23 41)
  else d

/-- KV_POOL_WRITE: an increase that the context's top-note quota or the free frames cannot cover is ignored. -/
def Dev.kvPoolWrite (fn c pages : Nat) (d : Dev) : Dev :=
  if d.ctxWritable fn c then
    let old := d.get F.kvPool_pages c
    let fits := d.quotaOk c 0 ((pages - old) * pageBytes)
    let room : Bool := pages - old ≤ d.freeFrames 0
    if old < pages && (!fits || !room) then (d.noteFull (fits && !room)).put F.kvStat_pages_rej c 1
    else
      let d := (d.charge c 0 ((pages - old) * pageBytes)).uncharge c 0 ((old - pages) * pageBytes)
      (d.put F.kvPool_pages c pages).kvCount c
  else d

/-! ### The commands -/

/-- START (R97). -/
def execStart (q i : Nat) (s : State) : Host.Outcome State Fault Refusal :=
  run (Instr.wf (.start q i)) (Dev.start q i) s

/-- CANCEL (R106). -/
def execCancel (q i : Nat) (s : State) : Host.Outcome State Fault Refusal :=
  run (Instr.wf (.cancel q i)) (Dev.cancel q i) s

/-- PAUSE (R104). -/
def execPause (q i : Nat) (s : State) : Host.Outcome State Fault Refusal :=
  run (Instr.wf (.pause q i)) (Dev.pause q i) s

/-- RESUME (R105). -/
def execResume (q i : Nat) (s : State) : Host.Outcome State Fault Refusal :=
  run (Instr.wf (.resume q i)) (Dev.resume q i) s

/-- POOL (R93). -/
def execPool (q i : Nat) (s : State) : Host.Outcome State Fault Refusal :=
  run (Instr.wf (.pool q i)) (Dev.pool q i) s

/-- MASK (R102). -/
def execMask (q i : Nat) (s : State) : Host.Outcome State Fault Refusal :=
  run (Instr.wf (.mask q i)) (Dev.mask q i) s

/-- PREFILL_STEP (R89). -/
def execPrefillStep (ctx seq : Nat) (table : Word) (s : State) : Host.Outcome State Fault Refusal :=
  run (Instr.wf (.prefillStep ctx seq table)) (Dev.prefillStep ctx seq table) s

/-- DECODE_STEP (R89). -/
def execDecodeStep (ctx pool : Nat) (table : Word) (scores : List SeqScores) (s : State) : Host.Outcome State Fault Refusal :=
  run (Instr.wf (.decodeStep ctx pool table scores)) (Dev.decodeStep ctx pool table scores) s

/-- STEP_BOUNDARY (R103). -/
def execStepBoundary (ctx seq : Nat) (s : State) : Host.Outcome State Fault Refusal :=
  run (Instr.wf (.stepBoundary ctx seq)) (Dev.stepBoundary ctx seq) s

/-- PROMPT_SHIPPED (R95). -/
def execPromptShipped (ctx seq : Nat) (s : State) : Host.Outcome State Fault Refusal :=
  run (Instr.wf (.promptShipped ctx seq)) (Dev.promptShipped ctx seq) s

/-- REMOTE_PREFILL_REFUSED (R95). -/
def execRemotePrefillRefused (ctx seq : Nat) (s : State) : Host.Outcome State Fault Refusal :=
  run (Instr.wf (.remotePrefillRefused ctx seq)) (Dev.remotePrefillRefused ctx seq) s

/-- PAUSE_MOVE_DONE (R104). -/
def execPauseMoveDone (ctx seq : Nat) (s : State) : Host.Outcome State Fault Refusal :=
  run (Instr.wf (.pauseMoveDone ctx seq)) (Dev.pauseMoveDone ctx seq) s

/-- RESUME_MOVE_DONE (R105). -/
def execResumeMoveDone (ctx seq : Nat) (s : State) : Host.Outcome State Fault Refusal :=
  run (Instr.wf (.resumeMoveDone ctx seq)) (Dev.resumeMoveDone ctx seq) s

/-- TTL_EXPIRE (R105). -/
def execTtlExpire (ctx seq : Nat) (s : State) : Host.Outcome State Fault Refusal :=
  run (Instr.wf (.ttlExpire ctx seq)) (Dev.ttlExpire ctx seq) s

/-- EVICT (R133). -/
def execEvict (q i : Nat) (s : State) : Host.Outcome State Fault Refusal :=
  run (Instr.wf (.evict q i)) (Dev.evict q i) s

/-- KV_BASE_WRITE (R115). -/
def execKvBaseWrite (fn ctx which : Nat) (value : Word) (s : State) : Host.Outcome State Fault Refusal :=
  run (Instr.wf (.kvBaseWrite fn ctx which value)) (Dev.kvBaseWrite fn ctx which value) s

/-- KV_POOL_WRITE (R241). -/
def execKvPoolWrite (fn ctx pages : Nat) (s : State) : Host.Outcome State Fault Refusal :=
  run (Instr.wf (.kvPoolWrite fn ctx pages)) (Dev.kvPoolWrite fn ctx pages) s

/-- GENERATION_FULL_STOP (R23). -/
def execGenerationFullStop (ctx : Nat) (s : State) : Host.Outcome State Fault Refusal :=
  run (Instr.wf (.generationFullStop ctx)) (Dev.generationFullStop ctx) s

end Sys2Proof.Machine
end

