-- ==== Sys2Proof/Machine/Accord.lean ====
section
/-! DEFINITION. Accord: weight sets, publishes, flips, shares and detachment (R194 to R216). -/

namespace Sys2Proof.Machine

/-! ### States and banks -/

/-- The state numbers of ACC_SET_STAT. -/
def setSteady : Nat := 0
def setHeld : Nat := 1
def setAssembling : Nat := 2

/-- The shards of a set. -/
def Dev.shardsOf (d : Dev) (w : Nat) : Nat := (d.wset w).table.length

/-- Whether a step that latched the inactive bank is still in progress (R204). -/
def Dev.inactiveRead (d : Dev) (w : Nat) : Bool :=
  let s := d.wset w
  if d.activeBank w = 0 then !s.readers1.isEmpty else !s.readers0.isEmpty

/-- The top-note address of the inactive bank. -/
def Dev.inactiveAddr (d : Dev) (w : Nat) : Nat := d.bankAddr w (1 - d.activeBank w)

/-- The tenant that owns a set. -/
def Dev.setTenant (d : Dev) (w : Nat) : Nat := d.tenantOf (d.get F.accSetCfg_ctx w)

/-- The existing sets bound to a group and a group-wide tag. -/
def Dev.boundSets (d : Dev) (g gset : Nat) : List Nat :=
  (List.range 256).filter fun w =>
    d.flag F.accSetCfg_valid w && !d.flag F.accSetCfg_local w && d.get F.accSetCfg_group w = g && d.get F.accSetCfg_gset w = gset

/-- The entries of a shard table: offset in 64-byte units, and length in bytes. -/
def shardTable (bs : List Byte) (n : Nat) : List (Nat × Nat) :=
  (List.range n).map fun i => (bitsOf (fieldAt bs (8 * i) 8) 0 32, bitsOf (fieldAt bs (8 * i) 8) 32 30)

/-- The checks of a shard table of a bank of `size` bytes (R197). -/
def tableGo : List (Nat × Nat) → Nat → Nat → Bool
  | [], at_, size => at_ = size
  | (o, n) :: t, at_, size => 64 * o = at_ && n % 64 = 0 && 64 ≤ n && n ≤ 2 ^ 30 - 64 && tableGo t (at_ + n) size
def tableOk (bs : List Byte) (n size : Nat) : Bool :=
  (List.range n).all (fun i => bitsOf (fieldAt bs (8 * i) 8) 62 2 = 0) && tableGo (shardTable bs n) 0 size

/-! ### Marks and flips (R205, R206, R212, R213) -/

/-- The AWAITs of a set complete. -/
def Dev.endAwaits (d : Dev) (w status result : Nat) : Dev :=
  let ws := (d.wset w).awaits
  (d.modWset w fun s => { s with awaits := [] }).each ws fun a d => d.complete a status result

/-- Drop an assembly: landed shards and held flits. -/
def Dev.dropAssembly (d : Dev) (w : Nat) : Dev :=
  ((d.modWset w fun s => { s with asm := [], held := [] }).put F.accSetStat_state w setSteady).put F.accSetStat_landed w 0

/-- A set gives up an epoch and is LAGGING. -/
def Dev.abandonEpoch (d : Dev) (w epoch : Nat) : Dev :=
  let d := (d.dropAssembly w).put F.accEpoch_floor w epoch
  let d := (d.put F.accSetStat_lagging w 1).incSat F.accSetCnt_lags w
  d.endAwaits w Status.lagging epoch

/-- The four words of ACC_DIGEST. -/
def Dev.putDigest (d : Dev) (w : Nat) (dg : List Byte) : Dev :=
  d.each [0, 1, 2, 3] fun i d => d.setReg .accDigest w (fieldAt dg (8 * i) 8) i

/-- The flip of a set to the epoch under assembly. -/
def Dev.flip (d : Dev) (w : Nat) : Dev :=
  let s := d.wset w
  let e := d.get F.accSetStat_asm w
  let dg := digest256 ((List.range s.table.length).flatMap fun i => match SMap.find s.asm i with | some a => a.digest | none => [])
  let d := d.dropAssembly w
  let d := (d.put F.accSetStat_bank w (1 - d.activeBank w)).put F.accSetStat_lagging w 0
  let d := (d.put F.accEpoch_active w e).put F.accEpoch_floor w e
  let d := ((d.incMod F.accSetCnt_flips w).setReg .accFlipTime w d.ns).putDigest w dg
  d.endAwaits w Status.ok e

/-! ### Landing (R203 to R205) -/

/-- A data flit lands in the inactive bank; one that does not match the shard table marks its shard. -/
def Dev.landData (d : Dev) (w : Nat) (f : AccFlit) : Dev :=
  let s := d.wset w
  let a := SMap.get s.asm ⟨0, false, false, []⟩ f.shard
  let ok (n : Nat) : Bool := 192 * f.offset < n && f.len = min 192 (n - 192 * f.offset) && f.data.length = f.len
  let put (a : ShardAsm) (d : Dev) : Dev := d.modWset w fun s => { s with asm := SMap.set s.asm f.shard a }
  if a.verified then d else
    match s.table[f.shard]? with
    | some (o, n) =>
      if ok n then
        (d.physWrite (d.setTenant w) 0 (d.inactiveAddr w + 64 * o + 192 * f.offset) f.data) |> put { a with flits := a.flits + 1 }
      else put { a with flits := a.flits + 1, bad := true } d
    | none => put { a with flits := a.flits + 1, bad := true } d

/-- An END flit: the shard is verified, or the set gives the epoch up. The last verified shard flips the set. -/
def Dev.landEnd (d : Dev) (w : Nat) (f : AccFlit) : Dev :=
  let s := d.wset w
  let e := d.get F.accSetStat_asm w
  let a := SMap.get s.asm ⟨0, false, false, []⟩ f.shard
  if a.verified then d else
    match s.table[f.shard]? with
    | none => (d.incSat F.accSetErr_bad w).abandonEpoch w e
    | some (o, n) =>
      if a.bad || a.flits ≠ f.offset || f.len ≠ 32 then (d.incSat F.accSetErr_bad w).abandonEpoch w e
      else
        let (bs, d) := d.physRead (d.setTenant w) 0 (d.inactiveAddr w + 64 * o) n
        if digest256 bs ≠ f.data then (d.incSat F.accSetErr_digest_bad w).abandonEpoch w e
        else
          let d := d.modWset w fun s => { s with asm := SMap.set s.asm f.shard { a with verified := true, digest := f.data } }
          let d := d.incMod F.accSetStat_landed w
          if d.get F.accSetStat_landed w = s.table.length then d.flip w else d

/-- A flit of an epoch that a set does not take: STALE counts each shard once. -/
def Dev.stale (d : Dev) (w : Nat) (f : AccFlit) : Dev :=
  let s := d.wset w
  if s.staleSeen.contains (f.epoch, f.shard) then d else
    (d.setWset w { s with staleSeen := s.staleSeen ++ [(f.epoch, f.shard)] }).incSat F.accSetErr_stale w

/-- An assembly of an epoch begins. -/
def Dev.beginAssembly (d : Dev) (w epoch : Nat) : Dev :=
  let d := (d.dropAssembly w).put F.accSetStat_asm w epoch
  d.put F.accSetStat_state w (if d.inactiveRead w then setHeld else setAssembling)

/-- A flit of the epoch under assembly: it lands, or waits while steps read the bank. -/
def Dev.takeFlit (d : Dev) (w fdie : Nat) (f : AccFlit) : Dev :=
  let d := d.modWset w fun s => { s with asmTime := d.ns }
  if d.get F.accSetStat_state w = setHeld then d.modWset w fun s => { s with held := s.held ++ [(fdie, f)] }
  else if f.kind = 0 then d.landData w f else d.landEnd w f

/-- A data or END flit reaches a set (Table 9.1). -/
def Dev.acceptFlit (d : Dev) (fdie : Nat) (f : AccFlit) (w : Nat) : Dev :=
  let floor := d.get F.accEpoch_floor w
  let busy : Bool := d.get F.accSetStat_state w != setSteady
  let s := d.get F.accSetStat_asm w
  if f.epoch ≤ floor || (busy && f.epoch < s) then d.stale w f
  else if busy && f.epoch = s then d.takeFlit w fdie f
  else
    let d := if busy then (d.put F.accEpoch_floor w s).incSat F.accSetErr_abandoned w else d
    (d.beginAssembly w f.epoch).takeFlit w fdie f

/-! ### Shares and the pause (R209 to R211) -/

/-- The cap of a share on one F-die, in flits of 256 bytes. -/
def Dev.shareCap (d : Dev) (g : Nat) : Nat :=
  let cap := d.get F.accGrpCfg_cap g
  (if cap = 0 then 8 else cap) * 4096

/-- Whether a flit is a data or END flit of a publish. -/
def ofPublish (g gset epoch : Nat) (f : AccFlit) : Bool := f.kind ≠ 2 && f.group = g && f.gset = gset && f.epoch = epoch
def flitOf (test : AccFlit → Bool) (x : Egress) : Bool := match x.msg with | .acc f => test f | _ => false

/-- The share of a publish on one F-die, in flits: those that wait to land here, or those staged for an edge. -/
def Dev.accShare (d : Dev) (g gset epoch : Nat) (edge : Option Nat) (die : Nat) : Nat :=
  match edge with
  | none => (d.boundSets g gset).foldl (fun n w => max n (((d.wset w).held.filter fun h => h.1 = die && h.2.epoch = epoch).length)) 0
  | some p => (((d.port p).egress.filter fun x => x.die = die && flitOf (ofPublish g gset epoch) x).map (·.staged)).sum

/-- Whether a share stands at its cap on either F-die. -/
def Dev.shareAtCap (d : Dev) (g gset epoch : Nat) (edge : Option Nat) : Bool :=
  [0, 1].any fun die => d.shareCap g ≤ d.accShare g gset epoch edge die

/-- The publishes of which this device holds flits, or notes a share. -/
def Dev.publishesHere (d : Dev) : List (Nat × Nat × Nat) :=
  ((d.shares.map fun s => (s.1, s.2.1, s.2.2.1)) ++
   (d.sets.flatMap fun e => e.2.held.map fun h => (h.2.group, h.2.gset, h.2.epoch)) ++
   d.waiting.filterMap fun x => match x.msg with | .acc f => some (f.group, f.gset, f.epoch) | _ => none).eraseDups

/-- Bring PAUSED of a group to the shares at their caps; PAUSES counts each time it becomes 1. -/
def Dev.countPaused (d : Dev) (g : Nat) : Dev :=
  let now : Bool := d.shares.any fun s => s.1 = g
  let d := if now && !d.flag F.accGrpStat_paused g then d.incSat F.accGrpStat_pauses g else d
  d.put F.accGrpStat_paused g (if now then 1 else 0)

/-- Note the shares that stand at their caps, and since when; the pool's status follows what waits to land. -/
def Dev.watchAccord (d : Dev) : Dev :=
  let now := d.publishesHere.flatMap fun e =>
    ((none :: (List.range 32).map some).filter (d.shareAtCap e.1 e.2.1 e.2.2)).map fun edge =>
      let old := d.shares.find? fun s => s.1 = e.1 && s.2.1 = e.2.1 && s.2.2.1 = e.2.2 && s.2.2.2.1 = edge
      (e.1, e.2.1, e.2.2, edge, (old.map (·.2.2.2.2)).getD d.ns)
  let d := if now = d.shares then d else
    let gs := ((d.shares ++ now).map (·.1)).eraseDups
    { d with shares := now }.each gs fun g d => d.countPaused g
  (d.countPool 0).countPool 1

/-- Every local set of a publish gives its epoch up, and is LAGGING (R211). -/
def Dev.abandonPublish (d : Dev) (g gset epoch : Nat) : Dev :=
  (d.each (d.boundSets g gset) fun w d =>
    let busy : Bool := d.get F.accSetStat_state w != setSteady
    let s := d.get F.accSetStat_asm w
    if epoch ≤ d.get F.accEpoch_floor w || (busy && epoch < s) then d
    else (if busy && s < epoch then d.incSat F.accSetErr_abandoned w else d).abandonEpoch w epoch).watchAccord

/-! ### The tree of a publish (R203, R211, R212) -/

/-- An edge by which a publish leaves this device; the edges of its older epochs are forgotten. -/
def Dev.noteEdge (d : Dev) (f : AccFlit) (p : Nat) : Dev :=
  { d with treeEdges := (d.treeEdges.filter fun e => !(e.1 = f.group && e.2.1 = f.gset && e.2.2.1 ≤ f.epoch && e.2.2.2 = p)) ++
             [(f.group, f.gset, f.epoch, p)] }

/-- A flit of a publish leaves toward some members, by each port once, but not by an edge that has been detached. -/
def Dev.accTree (d : Dev) (dests : List Nat) (f : AccFlit) : Dev :=
  let ports := ((dests.filter (· ≠ d.ownRank)).filterMap d.routePort).eraseDups.filter fun p =>
    !d.cutEdges.contains (f.group, f.gset, f.epoch, p)
  d.each ports fun p d => (d.enqueue p (flitsOf p 0xFFFF f.group (.acc f) 192)).noteEdge f p

/-- An edge is detached from a publish: its flits are freed, and nothing more of it leaves there. -/
def Dev.detachEdge (d : Dev) (g gset epoch p : Nat) : Dev :=
  if d.cutEdges.contains (g, gset, epoch, p) then d else
    let d := { d with cutEdges := d.cutEdges ++ [(g, gset, epoch, p)] }
    let d := d.dropWaiting fun q x => q = p && flitOf (ofPublish g gset epoch) x
    (d.incSat F.accGrpStat_detaches g).watchAccord

/-- Whether this device still has a part in a publish: a SEND of it, an assembly, or flits that wait to leave. -/
def Dev.publishing (d : Dev) (g gset epoch : Nat) : Bool :=
  (d.sends.any fun s => !d.flag F.accSetCfg_local s.set && d.get F.accSetCfg_group s.set = g && d.get F.accSetCfg_gset s.set = gset &&
    s.epoch = epoch) ||
  ((d.boundSets g gset).any fun w => d.get F.accSetStat_state w ≠ setSteady && d.get F.accSetStat_asm w = epoch) ||
  d.waiting.any (flitOf (ofPublish g gset epoch))

/-! ### Arrivals -/

/-- A DETACH flit: the sets below the edge give the epoch up. -/
def Dev.detachFlitArrive (f : AccFlit) (d : Dev) : Dev := if f.kind = 2 then d.abandonPublish f.group f.gset f.epoch else d

/-- An Accord flit arrives at a port, P0 to P15 on F-die 0 (R272). A reserved KIND is discarded. -/
def Dev.accordFlitArrive (port : Nat) (f : AccFlit) (d : Dev) : Dev :=
  if f.kind = 2 then d.detachFlitArrive f
  else if 2 < f.kind then d
  else (d.each (d.boundSets f.group f.gset) fun w d => d.acceptFlit (if port < 16 then 0 else 1) f w).watchAccord

/-- BANK_RELEASE: the last step that reads the inactive bank has reached its boundary, and the held flits land. -/
def Dev.bankRelease (w : Nat) (d : Dev) : Dev :=
  if d.flag F.accSetCfg_valid w && d.get F.accSetStat_state w = setHeld && !d.inactiveRead w then
    let held := (d.wset w).held
    let d := (d.modWset w fun s => { s with held := [] }).put F.accSetStat_state w setAssembling
    (d.each held fun h d => d.acceptFlit h.1 h.2 w).watchAccord
  else d

/-- SHARE_DETACH: a share has stood at its cap beyond STALL_US, and still does. A landing share's sets give the epoch up; an edge is
detached, and a DETACH flit goes down it. -/
def Dev.shareDetach (g gset epoch : Nat) (edge : Option Nat) (d : Dev) : Dev :=
  let stall := 1000 * max 1 (d.get F.accGrpCfg_stall_us g)
  let late : Bool := d.shares.any fun s => s.1 = g && s.2.1 = gset && s.2.2.1 = epoch && s.2.2.2.1 = edge && s.2.2.2.2 + stall < d.ns
  if !late || !d.shareAtCap g gset epoch edge then d else
    match edge with
    | none => (d.abandonPublish g gset epoch).incSat F.accGrpStat_detaches g
    | some p =>
      let d := d.detachEdge g gset epoch p
      d.enqueue p (flitsOf p 0xFFFF g (.acc ⟨2, g, gset, epoch, 0, 0, 0, d.groupRank g, []⟩) 0)

/-- ASM_TMO: an assembly has received no flit of its epoch for ASM_TMO. -/
def Dev.asmTmo (w : Nat) (d : Dev) : Dev :=
  let s := d.wset w
  if d.flag F.accSetCfg_valid w && d.get F.accSetStat_state w ≠ setSteady && s.asmTime + 10 ^ 6 * s.tmoMs ≤ d.ns then
    (d.abandonEpoch w (d.get F.accSetStat_asm w)).watchAccord
  else d

/-! ### CREATE (R195 to R198) -/

/-- The lowest run of free top-note frames for a bank (log entry 21). -/
def Dev.bankRun (d : Dev) (n : Nat) : Option Nat :=
  if d.freeFrames 0 < n then none else
    let s := fitGo n 1 0 (d.blocked 0)
    if s + n ≤ topFrames then some s else none

/-- The form of a PUBLISH (Table 9.4, INTERNAL). -/
def publishForm (bs : List Byte) : Bool :=
  let op := fieldAt bs 16 1
  let n := fieldAt bs 22 2
  fieldAt bs 18 2 < 256 && allZero (slice bs 62 2) &&
    (if op = 0 then
       (fieldAt bs 17 1 < 64 || fieldAt bs 17 1 = 0xFF) && 1 ≤ n && n ≤ 4096 && fieldAt bs 24 8 % 2 ^ 30 = 0 &&
         fieldAt bs 32 8 % 64 = 0 && 0 < fieldAt bs 32 8 && fieldAt bs 32 8 ≤ 2 ^ 36
     else
       fieldAt bs 17 1 = 0 && allZero (slice bs 20 2) && allZero (slice bs 24 16) && allZero (slice bs 48 8) && allZero (slice bs 60 2) &&
         (if op = 1 then 1 ≤ n && n ≤ 4096 else n = 0 && allZero (slice bs 40 8) && allZero (slice bs 56 4)))

/-- Make a set whose checks have passed and whose source was read. -/
def Dev.makeSet (d : Dev) (c w : Nat) (bs img : List Byte) (table : List (Nat × Nat)) (f0 f1 : Nat) : Dev :=
  let size := fieldAt bs 32 8
  let n := ceilDiv size pageBytes
  let group := fieldAt bs 17 1
  let isLocal : Bool := group == 0xFF
  let epoch := fieldAt bs 56 4
  let tmo := fieldAt bs 60 2
  let d := ((d.takeFrames 0 f0 n).takeFrames 0 f1 n).charge c 0 (2 * size)
  let d := d.physWrite (d.tenantOf c) 0 (f0 * pageBytes) img
  let d := d.setWset w { WSet.init with bank0 := f0 * pageBytes, bank1 := f1 * pageBytes, table := table, tmoMs := if tmo = 0 then 100 else tmo }
  let d := d.setReg .accSetCfg w
    (1 + c * 2 ^ 8 + (if isLocal then 2 ^ 22 else group * 2 ^ 16) + fieldAt bs 20 2 * 2 ^ 32 + (table.length - 1) * 2 ^ 48)
  let d := (d.setReg .accEpoch w (epoch + epoch * 2 ^ 32)).setReg .accSetStat w 0
  let d := ((d.setReg .accFlipTime w d.ns).setReg .accSetBase w (fieldAt bs 24 8)).setReg .accSetSize w size
  let d := d.putDigest w (digest256 (table.flatMap fun e => digest256 (slice img (64 * e.1) e.2)))
  d.mapWindow c w

/-- CREATE. -/
def Dev.wsCreate (q i : Nat) (rsp : TierRsp) (d : Dev) : Dev :=
  d.withDesc q i 5 0 fun c w bs d =>
    let s := fieldAt bs 18 2
    let n := fieldAt bs 22 2
    let vbase := fieldAt bs 24 8
    let size := fieldAt bs 32 8
    let gs := granules vbase size
    let ls := gs.foldl (fun ls g => SMap.set ls g (windowLeaf s)) (d.ctx c).leaves
    if !publishForm bs then d.complete w Status.internal 0
    else if d.flag F.accSetCfg_valid s then d.complete w Status.integrity 0
    else if !d.mapped c (fieldAt bs 48 8) size || !d.mapped c (fieldAt bs 40 8) (8 * n) || 2 ^ 50 < vbase + size ||
        (d.ctx c).anyLeaf (gs.headD 0) gs.length || d.deviceMeets c vbase size then d.complete w Status.pageFault 0
    else
      let (t, d) := d.readVa c none rsp (fieldAt bs 40 8) (8 * n)
      match t.bad with
      | some (st, _) => d.complete w st 0
      | none =>
        let f := ceilDiv size pageBytes
        if !tableOk t.raw n size then d.complete w Status.integrity 0
        else if !d.quotaOk c 0 (2 * size) || !d.tablesFit c ls (2 * size) then d.complete w Status.quota 0
        else
          match d.bankRun f with
          | none => (d.put F.tierStat_full 0 1).complete w Status.quota 0
          | some f0 =>
            match (d.setUsed 0 (SMap.set (d.used 0) f0 f)).bankRun f with
            | none => (d.put F.tierStat_full 0 1).complete w Status.quota 0
            | some f1 =>
              let (img, d) := d.readVa c none rsp (fieldAt bs 48 8) size
              match img.bad with
              | some (st, _) => d.complete w st 0
              | none => (d.makeSet c s bs img.raw (shardTable t.raw n) f0 f1).complete w Status.ok 0

/-! ### DESTROY (R199) -/

/-- Whether a set is one of a context's. -/
def Dev.ownsSet (d : Dev) (c w : Nat) : Bool := d.flag F.accSetCfg_valid w && d.get F.accSetCfg_ctx w = c

/-- The set ends: AWAITs complete, windows go, pools that name it know, banks and quota are released, the number is free. -/
def Dev.endSet (d : Dev) (w status : Nat) : Dev :=
  let c := d.get F.accSetCfg_ctx w
  let s := d.wset w
  let d := d.endAwaits w status 0
  let d := d.each (List.range 256) fun x d =>
    if (d.ctx x).pools.any fun e => e.2.sets.contains w then
      d.modCtx x fun y => { y with pools := y.pools.map fun e => (e.1, if e.2.sets.contains w then { e.2 with gone := true } else e.2) }
    else d
  let d := d.each (List.range 256) fun x d => if d.flag F.ctxCfg_valid x then d.unmapWindow x w else d
  let d := ((d.giveFrames 0 (s.bank0 / pageBytes)).giveFrames 0 (s.bank1 / pageBytes)).uncharge c 0 (2 * d.reg .accSetSize w)
  ((d.setWset w WSet.init).resetRegs (regsOf .set .context) w).watchAccord

/-- DESTROY: deferred while a pool of any context names the set. -/
def Dev.wsDestroy (q i : Nat) (d : Dev) : Dev :=
  d.withDesc q i 5 2 fun c w bs d =>
    let s := fieldAt bs 18 2
    if !publishForm bs then d.complete w Status.internal 0
    else if !d.ownsSet c s then d.complete w Status.integrity 0
    else if (List.range 256).any fun x => d.poolNames x s then d.complete w Status.deferred 0
    else (d.endSet s Status.integrity).complete w Status.ok 0

/-! ### AWAIT and SEND (R201, R207, R216) -/

/-- AWAIT waits for the set's next flip or LAGGING mark. -/
def Dev.await (q i : Nat) (d : Dev) : Dev :=
  d.withDesc q i 5 3 fun c w bs d =>
    let s := fieldAt bs 18 2
    if !publishForm bs then d.complete w Status.internal 0
    else if !d.ownsSet c s then d.complete w Status.integrity 0
    else (d.accept w).modWset s fun x => { x with awaits := x.awaits ++ [w] }

/-- The flits of a shard: data in offset order, then the END flit with the digest. -/
def shardFlits (g gset epoch shard rank : Nat) (bs : List Byte) : List AccFlit :=
  let parts := chunksOf 192 bs
  ((List.range parts.length).map fun i =>
    let p := parts.getD i []
    (⟨0, g, gset, epoch, shard, p.length, i, rank, p⟩ : AccFlit)) ++
  [⟨1, g, gset, epoch, shard, 32, parts.length, rank, digest256 bs⟩]

/-- The sets that a flit of a set without a group reaches: those of GROUP 0xFF with its tag, in its tenant (log entry 52). -/
def Dev.localSets (d : Dev) (w : Nat) : List Nat :=
  (List.range 256).filter fun x =>
    d.flag F.accSetCfg_valid x && d.flag F.accSetCfg_local x && d.get F.accSetCfg_gset x = d.get F.accSetCfg_gset w &&
      d.setTenant x = d.setTenant w

/-- One flit of a publish leaves this device, and lands in its own sets by loopback. -/
def Dev.publishFlit (d : Dev) (w : Nat) (f : AccFlit) : Dev :=
  if d.flag F.accSetCfg_local w then d.each (d.localSets w) fun x d => d.acceptFlit 0 f x
  else (d.accTree (d.peersOf f.group) f).each (d.boundSets f.group f.gset) fun x d => d.acceptFlit 0 f x

/-- Whether a pause of its publish keeps a flit of a SEND from being injected (R210). -/
def Dev.holdsFlit (d : Dev) (w : Nat) (f : AccFlit) : Bool :=
  !d.flag F.accSetCfg_local w && d.shares.any fun s => s.1 = f.group && s.2.1 = f.gset && s.2.2.1 = f.epoch

/-- Inject the flits of a SEND in order, up to the first that a pause holds: what is left. -/
def Dev.inject (d : Dev) (w : Nat) : List AccFlit → List AccFlit × Dev
  | [] => ([], d)
  | f :: fs => if d.holdsFlit w f then (f :: fs, d) else ((d.publishFlit w f).watchAccord).inject w fs

/-- Read the listed shards until one cannot be read: its status, the shards read, and their flits. -/
def Dev.readShards (d : Dev) (c w epoch : Nat) (rsp : TierRsp) : List (Nat × Nat) → Option Nat × List Nat × List AccFlit × Dev
  | [] => (none, [], [], d)
  | (shard, a) :: t =>
    let len := (((d.wset w).table[shard]?).map (·.2)).getD 0
    match d.readVa c none rsp a len with
    | (g, d) =>
      match g.bad with
      | some (st, _) => (some st, [], [], d)
      | none =>
        let group := d.get F.accSetCfg_group w
        let fs := shardFlits group (d.get F.accSetCfg_gset w) epoch shard (d.groupRank group) g.raw
        match d.readShards c w epoch rsp t with
        | (st, ns, more, d) => (st, shard :: ns, fs ++ more, d)

/-- SEND: the shards that can be read are sent, as far as no pause holds them. -/
def Dev.sendSet (q i : Nat) (rsp : TierRsp) (d : Dev) : Dev :=
  d.withDesc q i 5 1 fun c w bs d =>
    let s := fieldAt bs 18 2
    let n := fieldAt bs 22 2
    let epoch := fieldAt bs 56 4
    if !publishForm bs then d.complete w Status.internal 0
    else if !d.ownsSet c s || (epoch = 0xFFFFFFFF && d.get F.accEpoch_active s = 0xFFFFFFFF) then d.complete w Status.integrity 0
    else if !d.mapped c (fieldAt bs 40 8) (16 * n) then d.complete w Status.pageFault 0
    else
      let (t, d) := d.readVa c none rsp (fieldAt bs 40 8) (16 * n)
      match t.bad with
      | some (st, _) => d.complete w st 0
      | none =>
        let list := (List.range n).map fun k => (fieldAt t.raw (16 * k) 2, fieldAt t.raw (16 * k + 8) 8)
        if (List.range n).any fun k => !allZero (slice t.raw (16 * k + 2) 6) then d.complete w Status.internal 0
        else if list.any fun e => d.shardsOf s ≤ e.1 then d.complete w Status.integrity 0
        else if list.any fun e => !d.mapped c e.2 ((((d.wset s).table[e.1]?).map (·.2)).getD 0) then d.complete w Status.pageFault 0
        else
          let (st, shards, fs, d) := d.readShards c s epoch rsp list
          let (rest, d) := (d.accept w).inject s fs
          { d with sends := d.sends ++ [⟨w, s, epoch, shards, st.getD 0, rest⟩] }

/-- The SENDs that a pause held go on as far as they can. -/
def Dev.resumeSends (d : Dev) : Dev :=
  d.each (d.sends.filter fun x => !x.rest.isEmpty) fun x d =>
    let (rest, d) := d.inject x.set x.rest
    { d with sends := d.sends.map fun y => if y.who = x.who then { y with rest := rest } else y }

/-- Whether some flit of a SEND has not left this device, nor been discarded with its edge (R207). -/
def Dev.stillSending (d : Dev) (x : Sending) : Bool :=
  !x.rest.isEmpty || (!d.flag F.accSetCfg_local x.set &&
    let g := d.get F.accSetCfg_group x.set
    d.waiting.any (flitOf fun f => ofPublish g (d.get F.accSetCfg_gset x.set) x.epoch f && f.srcRank = d.groupRank g && x.shards.contains f.shard))

/-- The edges of a SEND's publish that have been detached here. -/
def Dev.edgesCut (d : Dev) (x : Sending) : Nat :=
  if d.flag F.accSetCfg_local x.set then 0 else
    (d.cutEdges.filter fun e =>
      e.1 = d.get F.accSetCfg_group x.set && e.2.1 = d.get F.accSetCfg_gset x.set && e.2.2.1 = x.epoch).length

/-- SEND_COMPLETE: every flit was accepted, or its edge detached; a SEND that met an unreadable shard ends with that status. -/
def Dev.sendComplete (q i : Nat) (d : Dev) : Dev :=
  match d.sends.find? fun s => s.who.q = q && s.who.idx = i with
  | none => d
  | some x =>
    if d.stillSending x then d else
      ({ d with sends := d.sends.filter fun y => y.who ≠ x.who }).complete x.who x.status (x.shards.length + d.edgesCut x % 2 ^ 16 * 2 ^ 32)

/-! ### The commands -/

/-- WS_CREATE (R198). -/
def execWsCreate (q i : Nat) (rsp : TierRsp) (s : State) : Host.Outcome State Fault Refusal :=
  run (Instr.wf (.wsCreate q i rsp)) (Dev.wsCreate q i rsp) s

/-- SEND (R201). -/
def execSend (q i : Nat) (rsp : TierRsp) (s : State) : Host.Outcome State Fault Refusal :=
  run (Instr.wf (.send q i rsp)) (Dev.sendSet q i rsp) s

/-- SEND_COMPLETE (R207). -/
def execSendComplete (q i : Nat) (s : State) : Host.Outcome State Fault Refusal :=
  run (Instr.wf (.sendComplete q i)) (Dev.sendComplete q i) s

/-- WS_DESTROY (R199). -/
def execWsDestroy (q i : Nat) (s : State) : Host.Outcome State Fault Refusal :=
  run (Instr.wf (.wsDestroy q i)) (Dev.wsDestroy q i) s

/-- AWAIT (R216). -/
def execAwait (q i : Nat) (s : State) : Host.Outcome State Fault Refusal :=
  run (Instr.wf (.await q i)) (Dev.await q i) s

/-- ACCORD_FLIT_ARRIVE (R200). -/
def execAccordFlitArrive (port : Nat) (flit : AccFlit) (s : State) : Host.Outcome State Fault Refusal :=
  run (Instr.wf (.accordFlitArrive port flit)) (Dev.accordFlitArrive port flit) s

/-- BANK_RELEASE (R204). -/
def execBankRelease (set : Nat) (s : State) : Host.Outcome State Fault Refusal :=
  run (Instr.wf (.bankRelease set)) (Dev.bankRelease set) s

/-- SHARE_DETACH (R211). -/
def execShareDetach (group gset epoch : Nat) (edge : Option Nat) (s : State) : Host.Outcome State Fault Refusal :=
  run (Instr.wf (.shareDetach group gset epoch edge)) (Dev.shareDetach group gset epoch edge) s

/-- DETACH_FLIT_ARRIVE (R211). -/
def execDetachFlitArrive (flit : AccFlit) (s : State) : Host.Outcome State Fault Refusal :=
  run (Instr.wf (.detachFlitArrive flit)) (Dev.detachFlitArrive flit) s

/-- ASM_TMO (R212). -/
def execAsmTmo (set : Nat) (s : State) : Host.Outcome State Fault Refusal :=
  run (Instr.wf (.asmTmo set)) (Dev.asmTmo set) s

end Sys2Proof.Machine
end

