-- ==== Sys2Proof/Machine/Attention.lean ====
section
/-! DEFINITION. KV layout records, appends, and the attention instruction with its backward half (R116 to R129, R162,
R163). -/

namespace Sys2Proof.Machine

/-! ### The layout record (R116, R117) -/

/-- A KV layout record (Table 5.1). -/
structure KvLayout where
  addr : Nat
  fmt : Nat
  dcode : Nat
  layers : Nat
  heads : Nat
  tpg : Nat
  ppg : Nat
  tsref : Nat
  clean : Bool
  deriving DecidableEq, Repr

/-- Read a record from its bytes. -/
def KvLayout.ofBytes (addr : Nat) (bs : List Byte) : KvLayout :=
  { addr := addr, fmt := fieldAt bs 0 1 % 16, dcode := fieldAt bs 1 1, layers := fieldAt bs 2 2, heads := fieldAt bs 4 2,
    tpg := fieldAt bs 6 2, ppg := fieldAt bs 8 4, tsref := fieldAt bs 16 8,
    clean := fieldAt bs 0 1 / 16 = 0 && fieldAt bs 12 4 = 0 && allZero (slice bs 24 40) }

/-- The head dimension D. -/
def KvLayout.dim (l : KvLayout) : Nat := 64 * 2 ^ l.dcode
/-- Bytes of one key or value row, and of its block scales. -/
def KvLayout.rowb (l : KvLayout) : Nat := l.dim * elemBits l.fmt / 8
def KvLayout.scb (l : KvLayout) : Nat := if blockSize l.fmt = 0 then 0 else l.dim / blockSize l.fmt
/-- The K part of a stripe, a stripe, a group, and the pages of a group. -/
def KvLayout.part (l : KvLayout) : Nat := l.tpg * (l.rowb + l.scb)
def KvLayout.stripe (l : KvLayout) : Nat := ceilDiv (2 * l.part) 64 * 64
def KvLayout.groupBytes (l : KvLayout) : Nat := l.layers * l.heads * l.stripe
def KvLayout.pages (l : KvLayout) : Nat := ceilDiv l.groupBytes pageBytes

/-- Offset in a range of a row of position `pos`: key or value, elements or scales (R117). -/
def KvLayout.rowAt (l : KvLayout) (layer head pos : Nat) (value scale : Bool) : Nat :=
  let g := pos / l.tpg
  let t := pos % l.tpg
  g * l.ppg * pageBytes + (layer * l.heads + head) * l.stripe + (if value then l.part else 0) +
    (if scale then l.tpg * l.rowb + t * l.scb else t * l.rowb)

/-- The first block-scale byte that page `p` of a group holds, as an offset in the page; 0xFFFF if none (Table 5.3). -/
def KvLayout.scaleLoc (l : KvLayout) (p : Nat) : Nat :=
  let lo := p * pageBytes
  let hi := lo + pageBytes
  let first := lo / max l.stripe 1
  let cands := (List.range (pageBytes / max l.stripe 1 + 2)).flatMap fun i =>
    let s := first + i
    if l.layers * l.heads ≤ s then [] else [(s * l.stripe + l.tpg * l.rowb, l.tpg * l.scb), (s * l.stripe + l.part + l.tpg * l.rowb, l.tpg * l.scb)]
  match cands.find? fun c => max c.1 lo < min (c.1 + c.2) hi with
  | some c => max c.1 lo - lo
  | none => 0xFFFF

/-- The pool whose step the clause belongs to. -/
def Env.pool (v : Env) (d : Dev) : Option Pool :=
  match v.reader with
  | some (ctx, p) => SMap.find (d.ctx ctx).pools p
  | none => none

/-- Read and check a layout record: its format first, then the rest (R116). -/
def readLayout (v : Env) (w : Word) : ClauseM KvLayout := do
  let bs ← needBytes v w 64
  let l := KvLayout.ofBytes w.toNat bs
  if l.fmt = 0 || l.fmt = 0xF then trap Status.formatUnknown 0
  let fits := match v.pool (← get) with
    | some p => p.tpg = l.tpg && p.ppg = l.ppg
    | none => true
  if w.toNat % 64 ≠ 0 || !l.clean || 2 < l.dcode || l.layers = 0 || 256 < l.layers || l.heads = 0 || 256 < l.heads ||
      l.tpg = 0 || 1024 < l.tpg || l.ppg ≠ l.pages || !fits then trap Status.integrity 0
  return l

/-- A tensor scale of a layer: keys or values (TSREF). -/
def layerScale (v : Env) (l : KvLayout) (layer : Nat) (value : Bool) : ClauseM W32 := do
  if isScaledPlain l.fmt || isFb l.fmt then
    return BitVec.ofNat 32 (leNat (← needBytes v (BitVec.ofNat 64 (l.tsref + 4 * (2 * layer + if value then 1 else 0))) 4))
  else return one32

/-- The record that stands for a key or value row: blocks along the row, the layer's tensor scale. -/
def rowRec (fmt : Nat) (ts : W32) : TRec :=
  { fmt := fmt, rnd := 0, satOvf := false, nonsat := false, axis := if blockSize fmt = 0 then 0 else 1, ts := ts, scaleRef := 0, reserved := 0 }

/-! ### Appending (R121 to R123) -/

/-- What a fresh page's header takes from the layout (Table 5.3). -/
def KvLayout.hdrInfo (l : KvLayout) (base va : Nat) : HdrInfo := ⟨l.fmt, l.scaleLoc ((va - base) / pageBytes % max l.ppg 1), l.addr⟩

/-- Map the pages of an append, in order, on their first write (R122): false as soon as one finds no frame (R123). -/
def touchAll (v : Env) (l : KvLayout) (base : Nat) : List Nat → ClauseM Bool
  | [] => return true
  | va :: vas => do
    let d ← get
    if ((d.ctx v.c).leafAt (va / pageBytes)).isSome || !(d.kvPlace v.c va).isSome then touchAll v l base vas
    else
      let (ok, d) := d.kvTouch v.c va (some (l.hdrInfo base va))
      set d
      if ok then touchAll v l base vas else return false

/-- One appended row with its block scales. Where a page that it needs finds no frame the whole append is discarded (R123). -/
def appendRow (v : Env) (l : KvLayout) (base : Nat) (op : KvAppendOp) : ClauseM Unit := do
  let ts ← layerScale v l op.layer op.value
  let r := convRow l.fmt false ts none (op.row.map fun x => (f32 x, Round.nearest))
  update fun d => d.flagConv v.c v.core v.learning false r.sat r.badIn
  let runs := [(base + l.rowAt op.layer op.head op.pos op.value false, packElems l.fmt r.elems)] ++
    if blockSize l.fmt = 0 then [] else
      [(base + l.rowAt op.layer op.head op.pos op.value true, r.scales.map fun s => BitVec.ofNat 8 s)]
  let parts := runs.flatMap fun e => pieces e.1 e.2
  if ← touchAll v l base (parts.map (·.1)) then parts.forM fun p => storePiece v none p.1 p.2

/-- The output path of a K or of a V projection appends one row (R121). -/
def kvAppendM (op : KvAppendOp) (v : Env) : ClauseM Unit := do
  let l ← readLayout v op.layout
  if l.layers ≤ op.layer || l.heads ≤ op.head || op.row.length ≠ l.dim || 65536 / max l.ppg 1 * l.tpg ≤ op.pos then
    trap Status.integrity 0
  appendRow v l ((← get).kvBase v.c op.pre op.slot) op

/-- KV_APPEND_WRITE (R121). -/
def Dev.kvAppendWrite (core seq : Nat) (op : KvAppendOp) (rsp : TierRsp) (d : Dev) : Dev :=
  d.instr core seq engines [(op.layout, 64)] rsp (kvAppendM op)

def execKvAppendWrite (core seq : Nat) (op : KvAppendOp) (rsp : TierRsp) (s : State) : Host.Outcome State Fault Refusal :=
  run (Instr.wf (.kvAppendWrite core seq op rsp)) (Dev.kvAppendWrite core seq op rsp) s

/-! ### Keys and values of an attention instruction -/

/-- One key position: its key and value rows, whether any byte of them lies in the heart note, whether its group was
freed by eviction. -/
structure KeyRow where
  k : List Elt
  v : List Elt
  heart : Bool
  freed : Bool
  deriving DecidableEq, Repr

/-- A run of query rows that share keys: first token position, number of positions, and the keys of each head. -/
structure KeySet where
  pos : Nat
  count : Nat
  len : Nat
  heads : List (List KeyRow)
  deriving DecidableEq, Repr

/-- What an attention instruction works on: the key and value records, and the runs in batch order. -/
structure KeyInput where
  rk : TRec
  rv : TRec
  dim : Nat
  nh : Nat
  sets : List KeySet
  deriving DecidableEq, Repr

/-- Elements of a row from its element and scale bytes. -/
def rowElts (r : TRec) (dim : Nat) (bs ss : List (Option Byte)) : List Elt :=
  (List.range dim).map fun j =>
    let s := if blockSize r.fmt = 0 then some (Ext.ofNat 1) else
      match ss.getD (j / blockSize r.fmt) none with
      | some b => some (scaleVal r.fmt b.toNat)
      | none => none
    match optElem r.fmt bs j, s with
    | some e, some s => ⟨decodeElem r.fmt e, s⟩
    | _, _ => ⟨.nan, .ofNat 1⟩

/-- Whether some granule of a virtual range lies in the heart note (Table 5.6). -/
def Dev.inHeart (d : Dev) (c va n : Nat) : Bool :=
  (granules va n).any fun g =>
    match (d.ctx c).leafAt g with
    | some (_, l) => l.alloc && l.tier = 1
    | none => false

/-- One key position of a rollout's range. A page header with format code 0xF faults the context (R60). -/
def pagedKey (v : Env) (l : KvLayout) (rk rv : TRec) (base hdr layer head : Nat) (freed : List Nat) (j : Nat) : ClauseM KeyRow := do
  if freed.contains (j / l.tpg) then return ⟨[], [], false, true⟩
  for page in (granules (l.rowAt layer head j false false) (l.rowb)) ++ granules (l.rowAt layer head j true false) l.rowb do
    if bitsOf (leNat (← needBytes v (BitVec.ofNat 64 (hdr + 64 * page)) 1)) 0 4 = 0xF then trap Status.formatUnknown 0
  let at' (value scale : Bool) : Nat := base + l.rowAt layer head j value scale
  let kb ← getBytes v (BitVec.ofNat 64 (at' false false)) l.rowb
  let ks ← getBytes v (BitVec.ofNat 64 (at' false true)) l.scb
  let vb ← getBytes v (BitVec.ofNat 64 (at' true false)) l.rowb
  let vs ← getBytes v (BitVec.ofNat 64 (at' true true)) l.scb
  let d ← get
  let hot (value scale : Bool) (n : Nat) : Bool := d.inHeart v.c (at' value scale) n
  return ⟨rowElts rk l.dim kb ks, rowElts rv l.dim vb vs,
    hot false false l.rowb || hot true false l.rowb || hot false true l.scb || hot true true l.scb, false⟩

/-- One entry of the batch table: its keys of the instruction's heads (Table 5.4). -/
def pagedSet (v : Env) (l : KvLayout) (rk rv : TRec) (layer head0 nh : Nat) (e : List Byte) : ClauseM KeySet := do
  let d ← get
  let seq := fieldAt e 0 3
  let pre := match d.rollout v.c seq with | some r => r.st = .prefill && r.preRange | none => false
  let pos := fieldAt e 8 4
  let len := fieldAt e 12 4
  let freed := match d.rollout v.c seq with | some r => r.freed | none => []
  let base := d.kvBase v.c pre (fieldAt e 4 2)
  let hdr := d.kvHeader v.c pre (fieldAt e 4 2) 0
  let heads ← (List.range nh).mapM fun h => (List.range len).mapM fun j => pagedKey v l rk rv base hdr layer (head0 + h) freed j
  return ⟨pos, len - pos, len, heads⟩

/-- Read what an attention instruction works on (Table 5.5, R162). -/
def readKeys (v : Env) (kv : AttnKV) : ClauseM KeyInput := do
  match kv with
  | .paged batch layout layer head0 nh =>
    let l ← readLayout v layout
    let count := leNat (← needBytes v batch 16)
    if l.layers ≤ layer || l.heads < head0 + nh || nh = 0 || 4096 < count then trap Status.integrity 0
    let rk := rowRec l.fmt (← layerScale v l layer false)
    let rv := rowRec l.fmt (← layerScale v l layer true)
    let sets ← (List.range count).mapM fun i => do
      let e ← needBytes v (batch + BitVec.ofNat 64 (16 * (i + 1))) 16
      pagedSet v l rk rv layer head0 nh e
    return ⟨rk, rv, l.dim, nh, sets⟩
  | .dense k vv heads rows len dim =>
    let (rk, ks) ← fetch v k (heads * len) dim true
    let (rv, vs) ← fetch v vv (heads * len) dim true
    if (blockSize rk.fmt ≠ 0 && rk.axis ≠ 1) || (blockSize rv.fmt ≠ 0 && rv.axis ≠ 1) || len < rows then trap Status.integrity 0
    let d ← get
    let hot (t : TRef) (r : TRec) (j : Nat) : Bool :=
      let n := elemBytes r.fmt (padTo dim (blockSize r.fmt))
      match Addr.of t.addr.toNat with
      | .va a => d.inHeart v.c (a + j * n) n
      | _ => false
    let keys := (List.range (heads * len)).map fun j =>
      (⟨ks.getD j [], vs.getD j [], hot k rk j || hot vv rv j, false⟩ : KeyRow)
    return ⟨rk, rv, dim, heads, [⟨len - rows, rows, len, chunksOf len keys⟩]⟩

/-! ### One query row (R127, R128) -/

/-- The masks of Table 5.5 at one query position. -/
def maskAllows (m : AttnMask) (bits : Nat) (qpos j : Nat) : Bool :=
  match m with
  | .causal => j ≤ qpos
  | .window win => j ≤ qpos && qpos < j + win
  | .tile _ => j ≤ qpos && bitOf bits j
  | .all => true

/-- A score: the dot product times SMS. -/
def score (rq rk : TRec) (group : Nat) (sms : W32) (q k : List Elt) : W32 := fmul (dot rq rk group q k).1 sms

/-- The FP32 values on the way to a score: those of the accumulator, y and the score (R83). -/
def scoreSteps (rq rk : TRec) (group : Nat) (sms : W32) (q k : List Elt) : List W32 :=
  (dot rq rk group q k).2 ++ [score rq rk group sms q k]

/-- The format in which probabilities enter the P.V product. -/
def probFmt (pfp8 : Bool) : Nat := if pfp8 then 3 else 1

/-- A probability as the product takes it. -/
def prob (pfp8 : Bool) (x : W32) : Ext := decodeElem (probFmt pfp8) (convert (probFmt pfp8) false .nearest (f32 x)).bits

/-- The product of probabilities with one column of values: one at a time where a factor is BF16, else by groups (R74,
R75); the tensor scale is applied at the end. An MX operand fixes the groups at 32 (R73). -/
def pvDot (pfp8 : Bool) (rv : TRec) (group : Nat) (ps : List Ext) (vs : List Elt) : W32 :=
  let items := (ps.zip vs).map fun (p, x) => Ext.mul p (Ext.mul (wide rv x) (outside rv x))
  let acc := if !pfp8 || rv.fmt = 1 then items.foldl (fun a p => toF32 (Ext.add (f32 a) p)) 0#32
    else (chunksOf (if isMx rv.fmt then 32 else group) items).foldl (fun a g => fadd a (groupTerm g (.ofNat 1))) 0#32
  fmul acc (if isScaledPlain rv.fmt || isFb rv.fmt then fmul one32 rv.ts else one32)

/-- The running maximum, sum and accumulators of a row. -/
structure Soft where
  m : W32
  l : W32
  acc : List W32
  deriving DecidableEq, Repr

/-- One block of key positions. -/
def softBlock (pfp8 : Bool) (rv : TRec) (group dim : Nat) (s : Soft) (ks : List (W32 × KeyRow)) : Soft :=
  let ks := ks.filter fun e => e.1 ≠ infNeg
  if ks.isEmpty then s else
    let top := ks.foldl (fun m e => fmax m e.1) infNeg
    let mNew := fmax s.m top
    let c := fexp (fsub s.m mNew)
    let ps := ks.map fun e => prob pfp8 (fexp (fsub e.1 mNew))
    let l := fadd (fmul s.l c) (fsum 0#32 (ps.map toF32))
    let acc := (List.range dim).map fun i =>
      fadd (fmul (s.acc.getD i 0#32) c) (pvDot pfp8 rv group ps (ks.map fun e => e.2.v.getD i ⟨.zero false, .ofNat 1⟩))
    ⟨mNew, l, acc⟩

/-- A row's output: O, LSE, STAT; and the FP32 values that its accumulators held (R83). -/
structure RowOut where
  o : List W32
  lse : W32
  stat : Nat
  steps : List W32
  deriving DecidableEq, Repr

/-- Output of a row with no key left (R128). -/
def emptyRow (dim extra : Nat) : RowOut := ⟨List.replicate dim 0#32, infNeg, 1 + extra, []⟩

/-- The group size of products that carry none (log entry 22). -/
def freeGroup : Nat := if Sys2Proof.Config.productGroup % 3 = 0 then 32 else if Sys2Proof.Config.productGroup % 3 = 1 then 64 else 128

/-- The kept keys of a row with their scores, by ascending position. -/
def keptScores (op : AttnOp) (inp : KeyInput) (rq : TRec) (q : List Elt) (qpos bits : Nat) (keys : List KeyRow) : List (Nat × W32 × KeyRow) :=
  ((List.range keys.length).zip keys).filterMap fun (j, k) =>
    if maskAllows op.mask bits qpos j && !k.freed then some (j, score rq inp.rk freeGroup op.sms q k.k, k) else none

/-- One query row (R127). -/
def attendRow (op : AttnOp) (inp : KeyInput) (rq : TRec) (q : List Elt) (qpos bits : Nat) (keys : List KeyRow) : RowOut :=
  let skipped := ((List.range keys.length).zip keys).any fun (j, k) => maskAllows op.mask bits qpos j && k.freed
  let kept := keptScores op inp rq q qpos bits keys
  let extra := (if skipped then 2 else 0) + (if kept.any (·.2.2.heart) then 4 else 0)
  if kept.any fun e => (f32 e.2.1).isNan || e.2.1 = infPos then ⟨List.replicate inp.dim qnan, qnan, 8 + extra, [qnan]⟩
  else
    let s := (List.range (ceilDiv keys.length 64)).foldl (fun s b =>
      softBlock op.pfp8 inp.rv freeGroup inp.dim s
        ((kept.filter fun e => e.1 / 64 = b).map fun e => (e.2.1, e.2.2))) ⟨infNeg, 0#32, List.replicate inp.dim 0#32⟩
    if (f32 s.l).isZero then emptyRow inp.dim extra
    else ⟨s.acc.map fun a => fdiv a s.l, fadd s.m (fln s.l), extra,
      (kept.flatMap fun e => scoreSteps rq inp.rk freeGroup op.sms q e.2.2.k) ++ s.l :: s.acc⟩

/-- The query rows of an instruction, in order: batch entry, position, key-value head, query head (log entry 24): set,
position, row of the mask tile, head. -/
def queryRows (inp : KeyInput) (gq : Nat) : List (KeySet × Nat × Nat × Nat) :=
  (inp.sets.foldl (fun (r : List (KeySet × Nat × Nat × Nat) × Nat) s =>
    (r.1 ++ (List.range s.count).flatMap fun p =>
      (List.range inp.nh).flatMap fun h => List.replicate gq (s, s.pos + p, r.2 + p, h), r.2 + s.count)) ([], 0)).1

/-- The rows of a bit tile (R155): one number for each query position. -/
def readTile (v : Env) (m : AttnMask) (rows cols : Nat) : ClauseM (List Nat) := do
  match m with
  | .tile a =>
    let per := ceilDiv cols 64 * 8
    let bs ← needBytes v a (rows * per)
    return (List.range rows).map fun i => leNat ((bs.drop (i * per)).take per)
  | _ => return List.replicate rows 0

/-- Check the plain operands of Table 5.5. -/
def checkAttn (op : AttnOp) : ClauseM Unit := do
  let win := match op.mask with | .window w => w | _ => 1
  if op.gq = 0 || 16 < op.gq || win = 0 || 2 ^ 24 < win then trap Status.integrity 0

/-- The rows of an attention instruction with their masks, as forward and backward both need them. -/
def attnRows (v : Env) (op : AttnOp) : ClauseM (KeyInput × TRec × List ((KeySet × Nat × Nat × Nat) × List Elt × Nat)) := do
  checkAttn op
  let inp ← readKeys v op.kv
  let rows := queryRows inp op.gq
  let (rq, qs) ← fetch v op.q rows.length inp.dim true
  if blockSize rq.fmt ≠ 0 && rq.axis ≠ 1 then trap Status.integrity 0
  let tile ← readTile v op.mask ((inp.sets.map (·.count)).sum) ((inp.sets.map (·.len)).foldl max 0)
  return (inp, rq, (rows.zip qs).map fun (r, q) => (r, q, tile.getD r.2.2.1 0))

/-- The attention instruction (R126 to R129). -/
def attentionM (op : AttnOp) (v : Env) : ClauseM Unit := do
  let (inp, rq, rows) ← attnRows v op
  let ro := TRec.ofWords op.o.recLo.toNat op.o.recHi.toNat
  checkRec ro false true
  let rds ← rounds v ro 1 op.tensor op.row0 op.col0 rows.length inp.dim
  let outs := rows.map fun ((s, qpos, _, h), q, bits) => attendRow op inp rq q qpos bits (s.heads.getD h [])
  let live := outs.filter fun o => !bitOf o.stat 0
  update fun d => d.flagResults v.c v.core v.learning (live.flatMap fun o => o.lse :: o.o ++ o.steps)
  update fun d => d.incSat F.kvStat_empty_rows v.c (outs.filter fun o => bitOf o.stat 0).length
  writeOut v ro op.o.addr rds (outs.map (·.o)) inp.dim
  putBytes v op.lse (f32Bytes (outs.map (·.lse)))
  putBytes v op.stat (outs.map fun o => BitVec.ofNat 8 o.stat)

/-- The bytes of an attention instruction whose place its operands fix: those of dense keys and values, the tile, the layout and the
batch table's count; rows, and what lies in KV pages, follow from the table. -/
def AttnOp.spans (op : AttnOp) : List (Word × Nat) :=
  (match op.kv with
   | .paged batch layout _ _ _ => [(batch, 16), (layout, 64), (op.q.addr, 1), (op.o.addr, 1), (op.lse, 4), (op.stat, 1)]
   | .dense k v heads rows len dim =>
     let n := heads * rows * op.gq
     TRef.spans k (heads * len) dim ++ TRef.spans v (heads * len) dim ++ TRef.spans op.q n dim ++ TRef.spans op.o n dim ++ [(op.lse, 4 * n), (op.stat, n)]) ++
  match op.mask with
  | .tile a => [(a, 8)]
  | .causal => []
  | .window _ => []
  | .all => []

/-- ATTENTION_INSTRUCTION (R127). -/
def Dev.attentionInstruction (core seq : Nat) (op : AttnOp) (rsp : TierRsp) (d : Dev) : Dev :=
  d.instr core seq engines (AttnOp.spans op) rsp (attentionM op)

def execAttentionInstruction (core seq : Nat) (op : AttnOp) (rsp : TierRsp) (s : State) : Host.Outcome State Fault Refusal :=
  run (Instr.wf (.attentionInstruction core seq op rsp)) (Dev.attentionInstruction core seq op rsp) s

/-! ### Backward (R162, R163) -/

/-- The gradients of the keys and values of one head of one run, by position. -/
structure KvGrad where
  dk : List (List W32)
  dv : List (List W32)
  deriving DecidableEq, Repr

/-- `a + k * b`, element by element in FP32. -/
def axpy (a : List W32) (k : W32) (b : List W32) : List W32 := (a.zip b).map fun (x, y) => fadd x (fmul k y)

/-- The kept query row i: its d_i, then each kept key in ascending position. -/
def backRow (op : AttnOp) (inp : KeyInput) (rq rdo : TRec) (q dO : List Elt) (o : List W32) (lse : W32) (qpos bits : Nat)
    (keys : List KeyRow) (g : KvGrad) : List W32 × KvGrad :=
  let dOv := dO.map (Elt.val rdo)
  let di := (dOv.zip o).foldl (fun a (x, y) => fadd a (fmul x y)) 0#32
  let qv := q.map (Elt.val rq)
  ((keptScores op inp rq q qpos bits keys).filter fun e => e.2.1 ≠ infNeg).foldl (fun (r : List W32 × KvGrad) (j, s, k) =>
    let p := toF32 (prob op.pfp8 (fexp (fsub s lse)))
    let dp := (dot rdo inp.rv freeGroup dO k.v).1
    let ds := fmul (fmul p (fsub dp di)) op.sms
    (axpy r.1 ds (k.k.map (Elt.val inp.rk)),
      ⟨r.2.dk.set j (axpy (r.2.dk.getD j []) ds qv), r.2.dv.set j (axpy (r.2.dv.getD j []) p dOv)⟩))
    (List.replicate inp.dim 0#32, g)

/-- Gradients of one run and head before any row. -/
def KvGrad.zero (len dim : Nat) : KvGrad :=
  ⟨List.replicate len (List.replicate dim 0#32), List.replicate len (List.replicate dim 0#32)⟩

/-- What the attention backward instruction works on: the forward rows, dO, O, LSE and STAT. -/
structure BackInput where
  inp : KeyInput
  rq : TRec
  rows : List ((KeySet × Nat × Nat × Nat) × List Elt × Nat)
  rdo : TRec
  dOs : List (List Elt)
  os : List (List W32)
  lses : List W32
  stats : List Byte
  deriving DecidableEq, Repr

/-- Read it. -/
def attnBackIn (op : AttnBwOp) (v : Env) : ClauseM BackInput := do
  let (inp, rq, rows) ← attnRows v op.fwd
  let (rdo, dOs) ← fetch v op.dO rows.length inp.dim true
  if blockSize rdo.fmt ≠ 0 && rdo.axis ≠ 1 then trap Status.integrity 0
  let os ← fetchF32 v op.fwd.o rows.length inp.dim
  let lses := (← fetchPlain v op.fwd.lse rows.length 1).map fun l => l.headD 0#32
  let stats ← needBytes v op.fwd.stat rows.length
  return ⟨inp, rq, rows, rdo, dOs, os, lses, stats⟩

/-- The gradients of every query row in order, and those of the keys and values of every run and head. -/
def backGrads (op : AttnBwOp) (x : BackInput) : List (List W32) × List (List KvGrad) :=
  let start := x.inp.sets.map fun s => List.replicate x.inp.nh (KvGrad.zero s.len x.inp.dim)
  let setOf : List Nat := (List.range x.inp.sets.length).flatMap fun i =>
    List.replicate ((x.inp.sets.map (·.count)).getD i 0 * x.inp.nh * op.fwd.gq) i
  ((List.range x.rows.length).zip x.rows).foldl (fun (r : List (List W32) × List (List KvGrad)) (i, (s, qpos, _, h), q, bits) =>
    let st := (x.stats.getD i 0).toNat
    if bitOf st 0 then (r.1 ++ [List.replicate x.inp.dim 0#32], r.2)
    else
      let n := setOf.getD i 0
      let gs := r.2.getD n []
      let (dq, g) := backRow op.fwd x.inp x.rq x.rdo q (x.dOs.getD i []) (x.os.getD i []) (x.lses.getD i 0#32) qpos bits
        (s.heads.getD h []) (gs.getD h (KvGrad.zero s.len x.inp.dim))
      (r.1 ++ [if bitOf st 3 then List.replicate x.inp.dim qnan else dq], r.2.set n (gs.set h g))) ([], start)

/-- The FP32 values of the accumulators behind a backward instruction's rows (R83). -/
def backSteps (op : AttnBwOp) (x : BackInput) : List W32 :=
  (numbered x.rows).flatMap fun (i, (s, qpos, _, h), q, bits) =>
    if bitOf (x.stats.getD i 0).toNat 0 then [] else
      (keptScores op.fwd x.inp x.rq q qpos bits (s.heads.getD h [])).flatMap fun e =>
        scoreSteps x.rq x.inp.rk freeGroup op.fwd.sms q e.2.2.k ++ (dot x.rdo x.inp.rv freeGroup (x.dOs.getD i []) e.2.2.v).2

/-- The conversions of the probabilities behind a backward instruction's rows, in the format of PFMT (R65, R162). -/
def backProbs (op : AttnBwOp) (x : BackInput) : List Conv :=
  (numbered x.rows).flatMap fun (i, (s, qpos, _, h), q, bits) =>
    if bitOf (x.stats.getD i 0).toNat 0 then [] else
      ((keptScores op.fwd x.inp x.rq q qpos bits (s.heads.getD h [])).filter fun e => e.2.1 ≠ infNeg).map fun e =>
        convert (probFmt op.fwd.pfp8) false .nearest (f32 (fexp (fsub e.2.1 (x.lses.getD i 0#32))))

/-- The attention backward instruction. The gradients of keys and values are written run by run, head by head, position
by position (log entry 24). -/
def attentionBackM (op : AttnBwOp) (v : Env) : ClauseM Unit := do
  let x ← attnBackIn op v
  update fun d => (d.flagResults v.c v.core v.learning (backSteps op x)).flagConv v.c v.core v.learning false
    ((backProbs op x).any (·.sat)) ((backProbs op x).any (·.badIn))
  putF32 v op.dq (backGrads op x).1
  putF32 v op.dk ((backGrads op x).2.flatten.flatMap (·.dk))
  putF32 v op.dv ((backGrads op x).2.flatten.flatMap (·.dv))

/-- ATTENTION_BACKWARD (R162). -/
def Dev.attentionBackward (core seq : Nat) (op : AttnBwOp) (rsp : TierRsp) (d : Dev) : Dev :=
  d.instr core seq engines (AttnOp.spans op.fwd) rsp (attentionBackM op)

def execAttentionBackward (core seq : Nat) (op : AttnBwOp) (rsp : TierRsp) (s : State) : Host.Outcome State Fault Refusal :=
  run (Instr.wf (.attentionBackward core seq op rsp)) (Dev.attentionBackward core seq op rsp) s

end Sys2Proof.Machine
end

