-- ==== Sys2Proof/Machine/Update.lean ====
section
/-! DEFINITION. Update units: the UPD instruction and its checks, watch ranges, reductions, the rules SGDM, ADAM, FACT and
PREC, copies, completion handles (R170 to R193). -/

namespace Sys2Proof.Machine

/-! ### The descriptor (Table 8.1) -/

/-- A decoded update descriptor. -/
structure UDesc where
  op : Nat
  cfg : Nat
  pb : Nat
  units : Nat
  rows : Nat
  cols : Nat
  w : Nat
  m : Nat
  v : Nat
  g : Nat
  list : Nat
  cnt : Nat
  nlist : Nat
  lr : W32
  b1 : W32
  b2 : W32
  eps : W32
  wd : W32
  chain : Nat
  tag : Nat
  grec : TRec
  c1rec : TRec
  c1 : Nat
  c2rec : TRec
  c2 : Nat
  deriving DecidableEq, Repr

/-- Read a descriptor. -/
def UDesc.of (bs : List Byte) : UDesc :=
  let n (o k : Nat) : Nat := fieldAt bs o k
  let f (o : Nat) : W32 := BitVec.ofNat 32 (n o 4)
  let t (o : Nat) : TRec := TRec.ofWords (n o 8) (n (o + 8) 8)
  ⟨n 0 1, n 1 1, n 2 1, n 4 4, n 8 4, n 12 4, n 16 8, n 24 8, n 32 8, n 40 8, n 48 8, n 56 8, n 64 4, f 68, f 72, f 76, f 80, f 84,
   n 88 2, n 90 1, t 96, t 112, n 128 8, t 136, n 152 8⟩

def UDesc.rule (u : UDesc) : Nat := bitsOf u.cfg 0 3
def UDesc.emb (u : UDesc) : Bool := bitOf u.cfg 3
def UDesc.sbf16 (u : UDesc) : Bool := bitOf u.cfg 4
def UDesc.fact (u : UDesc) : Bool := u.op = 0 && u.rule = 2
def UDesc.prec (u : UDesc) : Bool := u.op = 0 && u.rule = 3
/-- The edge of a PREC tile. -/
def UDesc.edge (u : UDesc) : Nat := 32 * 2 ^ u.pb
/-- The units named, in ascending order. -/
def UDesc.unitList (u : UDesc) : List Nat := (List.range 32).filter (bitOf u.units)
/-- Whether a moment is read and stored: B1 is not 0. -/
def UDesc.moment (u : UDesc) : Bool := !(f32 u.b1).isZero
/-- Elements of the region. -/
def UDesc.elems (u : UDesc) : Nat := u.rows * u.cols
/-- Bytes of an element of optimizer state. -/
def UDesc.stateBytes (u : UDesc) : Nat := if u.sbf16 then 2 else 4
/-- Rows of the gradient tensor: compact for EMB (R186). -/
def UDesc.gradRows (u : UDesc) : Nat := if u.emb then u.nlist else u.rows
/-- Bytes from a REDUCE source to its scale array (R180). -/
def UDesc.scaleOffset (u : UDesc) : Nat := roundUp (elemBytes u.grec.fmt u.elems) 64

/-- Whether an FP32 number lies in [0, 1). -/
def inUnit (a : W32) : Bool :=
  match f32 a with
  | .fin s m e => (!s || m = 0) && Ext.lt (.fin s m e) (.ofNat 1)
  | _ => false

/-! ### Checks at acceptance (Table 8.2) -/

/-- The fields that the operation does not use are 0 (R173). -/
def UDesc.unusedZero (u : UDesc) (bs : List Byte) : Bool :=
  let z (o n : Nat) : Bool := allZero (slice bs o n)
  let app : Bool := u.op = 0
  let adamLike : Bool := app && (u.rule = 1 || u.rule = 2)
  (u.op ≠ 2 || (z 8 8 && z 96 16)) && z 3 1 && z 91 5 && z 160 32 && bitsOf u.cfg 5 3 = 0 && bitsOf u.tag 3 5 = 0 && (app || u.cfg = 0) && (u.prec || u.pb = 0) &&
  (app || (z 16 24 && z 56 8 && z 68 20 && z 112 48)) &&
  (!app || u.moment || u.m = 0) && (adamLike || u.prec || u.v = 0) && (adamLike || (z 76 8)) &&
  ((app && u.emb) || u.op = 3 || (z 48 8 && u.nlist = 0)) &&
  (u.c1 ≠ 0 || z 112 16) && (u.c2 ≠ 0 || z 136 16)

/-- Whether a copy record is one that R188 takes; code 0xF is not judged here. -/
def copyOk (a : Nat) (r : TRec) : Bool :=
  a = 0 || r.fmt = 0xF || (r.okR69 true && r.rnd = 0 && r.fmt ≠ 0 && (blockSize r.fmt = 0 || r.axis = 1))

/-- The first row of Table 8.2, but for the sequencer, the kind of context and the list of EMB. -/
def UDesc.formOk (u : UDesc) (bs : List Byte) : Bool :=
  let adamLike : Bool := u.op = 0 && (u.rule = 1 || u.rule = 2)
  let blocks : Bool := blockSize u.grec.fmt ≠ 0
  u.op ≤ 3 && u.rule ≤ 3 && u.pb ≤ 2 && u.unusedZero bs && u.units ≠ 0 && (u.op ≠ 1 || u.unitList.length = 1) &&
  (u.op = 2 || 1 ≤ u.rows) && u.rows ≤ 2 ^ 31 && u.cols % 32 = 0 && (u.chain < 1024 || u.chain = 0xFFFF) &&
  (u.op ≠ 0 || (inUnit u.b1 && !fbad u.lr && !fbad u.wd)) &&
  (!adamLike || (inUnit u.b2 && !fbad u.eps && ((f32 u.eps).isZero || !(f32 u.eps).neg))) &&
  (!u.prec || (u.rows ≤ 1024 && u.cols ≤ 1024 && u.rows % u.edge = 0 && u.cols % u.edge = 0)) &&
  (!u.emb || (u.rule ≤ 1 && 1 ≤ u.nlist && u.nlist ≤ u.rows)) && (u.op ≠ 3 || (2 ≤ u.nlist && u.nlist ≤ 8)) &&
  (u.op = 2 || u.grec.fmt = 0xF ||
    (u.grec.okR69 (u.op = 3) && (u.op ≠ 1 || !blocks) &&
      !(u.op = 3 && (u.grec.rnd = 1 || (blocks && u.grec.axis ≠ 1))))) &&
  copyOk u.c1 u.c1rec && copyOk u.c2 u.c2rec

/-- The ranges that a descriptor names, each with whether it is written (third row of Table 8.2). -/
def UDesc.spans (u : UDesc) : List (Nat × Nat × Bool) :=
  let n := u.elems
  let copy (a : Nat) (r : TRec) : List (Nat × Nat × Bool) :=
    if a = 0 then [] else [(a, elemBytes r.fmt n, true), (r.scaleRef, r.blocks u.rows u.cols, true)]
  let grad (wr : Bool) : List (Nat × Nat × Bool) :=
    [(u.g, elemBytes u.grec.fmt (u.grec.count u.gradRows u.cols), wr), (u.grec.scaleRef, u.grec.blocks u.gradRows u.cols, wr)]
  if u.op = 0 then
    [(u.w, 4 * n, true), (u.cnt, 4 * (if u.emb then u.rows else 1), true)] ++ grad false ++
    (if u.moment then [(u.m, u.stateBytes * n, true)] else []) ++
    (if u.rule = 1 then [(u.v, u.stateBytes * n, true)] else if u.rule = 2 then [(u.v, 4 * (u.rows + u.cols), true)]
     else if u.rule = 3 then [(u.v, 4 * u.edge * (u.rows + u.cols), false)] else []) ++
    (if u.emb then [(u.list, 4 * u.nlist, false)] else []) ++ copy u.c1 u.c1rec ++ copy u.c2 u.c2rec
  else if u.op = 3 then (u.list, 8 * u.nlist, false) :: grad true
  else []

/-- The first range that is not mapped, or not writable where it must be. -/
def Dev.badSpan (d : Dev) (c : Nat) (ss : List (Nat × Nat × Bool)) : Option Nat :=
  (ss.find? fun s => s.2.1 ≠ 0 && !(if s.2.2 then d.writable c s.1 s.2.1 else d.mapped c s.1 s.2.1)).map (·.1)

/-- What refuses a UPD: a status and an address. -/
def Dev.updCheck (d : Dev) (c seq : Nat) (bs : List Byte) : Option (Nat × Nat) :=
  let u := UDesc.of bs
  if seq ≠ 2 || d.kindOf c = 0 || !u.formOk bs || u.unitList.any d.power.unitOut.contains then some (Status.integrity, 0)
  else if u.grec.fmt = 0xF || (u.c1 ≠ 0 && u.c1rec.fmt = 0xF) || (u.c2 ≠ 0 && u.c2rec.fmt = 0xF) then some (Status.formatUnknown, 0)
  else (d.badSpan c u.spans).map fun va => (Status.pageFault, va)

/-! ### The units' queues (R172, R192) -/

/-- Accepted descriptors that name a unit. -/
def Dev.unitQueue (d : Dev) (u : Nat) : Nat :=
  d.ctxs.foldl (fun n e => n + (e.2.upds.filter fun x => x.next.any fun k => k.1 = u).length) 0

/-- Bring a unit's status to its queue and its watch ranges. -/
def Dev.showUnit (d : Dev) (u : Nat) : Dev :=
  let n := d.unitQueue u
  let held : Bool := n ≠ 0 || d.ctxs.any fun e => e.2.watches.any fun w => w.unit = u
  (d.put F.updUnitStat_queued u (min 255 n)).put F.updUnitStat_held u (if held then 1 else 0)

/-- Bring every unit's status up to date. -/
def Dev.showUnits (d : Dev) : Dev := d.each (List.range 32) fun u d => d.showUnit u

/-! ### A unit's reads and writes -/

/-- Bytes of a range that stand in the top note. -/
def Dev.topBytes (d : Dev) (c va n : Nat) : Nat :=
  (pieces va (List.replicate n 0)).foldl (fun t p =>
    match (d.ctx c).leafAt (p.1 / pageBytes) with
    | some (_, l) => if (l.tier = 0 || l.kind = .accord) && l.alloc then t + p.2.length else t
    | none => t) 0

/-- Read bytes for a unit (`none`: between chunks); a failure throws its status and address. -/
def unitRead (c : Nat) (unit : Option Nat) (rsp : TierRsp) (va n : Nat) : ClauseM (List Byte) := do
  let d ← get
  let (g, d) := d.readVa c none rsp va n
  match g.bad with
  | some e =>
    set d
    throw e
  | none =>
    set (match unit with | some u => d.incMod F.updUnitBytes_bytes u (d.topBytes c va n) | none => d)
    return g.raw

/-- Write bytes for a unit; a write that the KV rules discard is lost (R123). -/
def unitWrite (c : Nat) (unit : Option Nat) (rsp : TierRsp) (va : Nat) (bs : List Byte) : ClauseM Unit := do
  let d ← get
  let (bad, _, d) := d.writeVa c rsp va bs
  set (match unit with | some u => d.incMod F.updUnitBytes_bytes u (d.topBytes c va bs.length) | none => d)
  match bad with
  | some e => if e.1 = kvDiscarded then return () else throw e
  | none => return ()

/-- What a chunk works with: its context, descriptor, unit and the answers to its requests. -/
structure UEnv where
  c : Nat
  u : UDesc
  unit : Option Nat
  rsp : TierRsp

def UEnv.read (v : UEnv) (va n : Nat) : ClauseM (List Byte) := unitRead v.c v.unit v.rsp va n
def UEnv.write (v : UEnv) (va : Nat) (bs : List Byte) : ClauseM Unit := unitWrite v.c v.unit v.rsp va bs

/-- Read `n` FP32 words from element `i` of an array. -/
def UEnv.words (v : UEnv) (a i n : Nat) : ClauseM (List W32) := do
  let bs ← v.read (a + 4 * i) (4 * n)
  return (List.range n).map fun k => BitVec.ofNat 32 (fieldAt bs (4 * k) 4)

/-- Read optimizer state, widened from BF16 under SBF16 (R181). -/
def UEnv.state (v : UEnv) (a i n : Nat) : ClauseM (List W32) := do
  if v.u.sbf16 then
    let bs ← v.read (a + 2 * i) (2 * n)
    return (List.range n).map fun k => BitVec.ofNat 32 (fieldAt bs (2 * k) 2 * 2 ^ 16)
  else v.words a i n

/-- Write optimizer state, rounded to BF16 under SBF16: a conversion in mode SAT, since no record selects another (R65). -/
def UEnv.putState (v : UEnv) (a i : Nat) (ws : List W32) : ClauseM Unit :=
  if v.u.sbf16 then do
    let cs := ws.map fun w => convert 1 false .nearest (f32 w)
    modify fun d => d.flagConv v.c 0 false false (cs.any (·.sat)) (cs.any (·.badIn))
    v.write (a + 2 * i) (cs.flatMap fun x => leBytes 2 x.bits)
  else v.write (a + 4 * i) (f32Bytes ws)

/-- The exact value of element `(i, j)` of a tensor of `rows` rows at an address (R67, R178). -/
def UEnv.exact (v : UEnv) (r : TRec) (a scales rows i j : Nat) : ClauseM Ext := do
  let b := elemBits r.fmt
  let lo := r.index rows v.u.cols i j * b
  let bs ← v.read (a + lo / 8) (ceilDiv (lo % 8 + b) 8)
  let sc ← if blockSize r.fmt = 0 then pure 0 else do
    let s ← v.read (scales + r.block rows v.u.cols i j) 1
    pure (leNat s)
  return decodeScaled r.fmt r.ts sc (bitsOf (leNat bs) (lo % 8) b)

/-- An element widened to FP32. -/
def UEnv.elem (v : UEnv) (r : TRec) (a scales rows i j : Nat) : ClauseM W32 := do
  let x ← v.exact r a scales rows i j
  return toF32 x

/-- The gradients at some elements of the gradient tensor: the exact value times FACTOR, rounded once (R177). -/
def UEnv.grads (v : UEnv) (factor : W32) (at_ : List (Nat × Nat)) : ClauseM (List W32) :=
  at_.mapM fun p => do
    let x ← v.exact v.u.grec v.u.g v.u.grec.scaleRef v.u.gradRows p.1 p.2
    return toF32 (Ext.mul x (f32 factor))

/-! ### The rules (R181 to R184) -/

/-- Powers of a bias correction: `b ^ t` by squaring, most significant bit of `t` first. -/
def biasPow (b : W32) (t : Nat) : W32 :=
  ((List.range (bitLen t)).reverse).foldl (fun p i =>
    let p := fmul p p
    if bitOf t i then fmul p b else p) one32

/-- 1 − b^t. -/
def biasCorr (b : W32) (t : Nat) : W32 := fsub one32 (biasPow b t)

/-- A count as it is written back: T + 1, which saturates (R187). -/
def nextCount (t : Nat) : Nat := min (2 ^ 32 - 1) (t + 1)

/-- The new moment of SGDM. -/
def sgdmMoment (u : UDesc) (m g : W32) : W32 := if u.moment then fadd (fmul u.b1 m) g else g

/-- The new first moment of ADAM. -/
def adamMoment (u : UDesc) (m g : W32) : W32 := fadd (fmul u.b1 m) (fmul (fsub one32 u.b1) g)

/-- The new second moment of ADAM. -/
def adamSquare (u : UDesc) (v g : W32) : W32 := fadd (fmul u.b2 v) (fmul (fmul (fsub one32 u.b2) g) g)

/-- The direction from moments and the corrections of t. -/
def direction (u : UDesc) (m v c1 c2 : W32) : W32 := fdiv (fdiv m c1) (fadd (fsqrt (fdiv v c2)) u.eps)

/-- The common step: w − lr × (u + wd × w). -/
def stepWeight (u : UDesc) (w dir : W32) : W32 := fsub w (fmul u.lr (fadd dir (fmul u.wd w)))

/-- Write a run of values, converted under R81, that starts at element `i` of a tensor (R180, R188). -/
def UEnv.putRun (v : UEnv) (a : Nat) (r : TRec) (i : Nat) (ws : List W32) : ClauseM Unit := do
  let run := convRow r.fmt r.nonsat r.ts none (ws.map fun w => (f32 w, Round.nearest))
  modify fun d => d.flagConv v.c 0 false false run.sat run.badIn
  v.write (a + i * elemBits r.fmt / 8) (packElems r.fmt run.elems)
  if blockSize r.fmt ≠ 0 then
    v.write (r.scaleRef + i / blockSize r.fmt) (run.scales.map fun s => BitVec.ofNat 8 s)

/-- Write one copy of a run of new weights, where it has an address. -/
def UEnv.copy (v : UEnv) (a : Nat) (r : TRec) (i : Nat) (ws : List W32) : ClauseM Unit := if a ≠ 0 then v.putRun a r i ws else pure ()

/-- Write new weights with their copies. -/
def UEnv.putWeights (v : UEnv) (i : Nat) (ws : List W32) : ClauseM Unit := do
  v.write (v.u.w + 4 * i) (f32Bytes ws)
  v.copy v.u.c1 v.u.c1rec i ws
  v.copy v.u.c2 v.u.c2rec i ws

/-- One run of consecutive elements under SGDM or ADAM: its first element in W, its gradients, t. -/
def UEnv.plainRun (v : UEnv) (i t : Nat) (gs : List W32) : ClauseM Unit := do
  let u := v.u
  let n := gs.length
  let ws ← v.words u.w i n
  let ms ← if u.moment then v.state u.m i n else pure (List.replicate n 0)
  if u.rule = 0 then
    let new := (ms.zip gs).map fun p => sgdmMoment u p.1 p.2
    v.putWeights i ((ws.zip new).map fun p => stepWeight u p.1 p.2)
    if u.moment then v.putState u.m i new
  else
    let vs ← v.state u.v i n
    let c1 := biasCorr u.b1 t
    let c2 := biasCorr u.b2 t
    let m1 := (ms.zip gs).map fun p => adamMoment u p.1 p.2
    let v1 := (vs.zip gs).map fun p => adamSquare u p.1 p.2
    v.putWeights i ((ws.zip (m1.zip v1)).map fun p => stepWeight u p.1 (direction u p.2.1 p.2.2 c1 c2))
    if u.moment then v.putState u.m i m1
    v.putState u.v i v1

/-- Pass B of FACT over one run (R183): `rs` is the sum of the row statistics. -/
def UEnv.factRun (v : UEnv) (i t : Nat) (rs : W32) (gs : List W32) : ClauseM Unit := do
  let u := v.u
  let n := gs.length
  let ws ← v.words u.w i n
  let ms ← if u.moment then v.state u.m i n else pure (List.replicate n 0)
  let r ← v.words u.v (i / u.cols) (ceilDiv (i % u.cols + n) u.cols)
  let cs ← v.words u.v u.rows u.cols
  let c1 := biasCorr u.b1 t
  let c2 := biasCorr u.b2 t
  let mean := fdiv rs (toF32 (.ofNat u.rows))
  let m1 := (ms.zip gs).map fun p => if u.moment then adamMoment u p.1 p.2 else p.2
  let dirs := (List.range n).map fun k =>
    let vv := fdiv (fmul (r.getD ((i % u.cols + k) / u.cols) 0) (cs.getD ((i + k) % u.cols) 0)) mean
    if u.moment then direction u (m1.getD k 0) vv c1 c2
    else fdiv (gs.getD k 0) (fadd (fsqrt (fdiv vv c2)) u.eps)
  v.putWeights i ((ws.zip dirs).map fun p => stepWeight u p.1 p.2)
  if u.moment then v.putState u.m i m1

/-- A product of square FP32 matrices: ascending k, rounded at each addition (R184). -/
def squareProduct (n : Nat) (a b : List (List W32)) : List (List W32) :=
  (List.range n).map fun i => (List.range n).map fun j =>
    let ps := (List.range n).map fun k => fmul ((a.getD i []).getD k 0) ((b.getD k []).getD j 0)
    fsum (ps.headD 0) ps.tail

/-- One PREC tile (R184). -/
def UEnv.tile (v : UEnv) (k : Nat) (factor : W32) : ClauseM Unit := do
  let u := v.u
  let p := u.edge
  let per := u.cols / p
  let a := k / per
  let b := k % per
  let starts := (List.range p).map fun r => (a * p + r) * u.cols + b * p
  let gs ← starts.mapM fun i => v.grads factor ((List.range p).map fun j => (i / u.cols, i % u.cols + j))
  let ms ← if u.moment then starts.mapM fun i => v.state u.m i p else pure []
  let m1 := if u.moment then (ms.zip gs).map fun q => (q.1.zip q.2).map fun e => sgdmMoment u e.1 e.2 else gs
  let left ← (List.range p).mapM fun r => v.words u.v (a * p * p + r * p) p
  let right ← (List.range p).mapM fun r => v.words u.v ((u.rows / p) * p * p + b * p * p + r * p) p
  let dirs := squareProduct p left (squareProduct p m1 right)
  let ws ← starts.mapM fun i => v.words u.w i p
  let rows := (List.range p).map fun r => (starts.getD r 0, (ws.getD r []).zip (dirs.getD r []))
  for e in rows do
    v.putWeights e.1 (e.2.map fun q => stepWeight u q.1 q.2)
  if u.moment then
    for r in List.range p do
      v.putState u.m (starts.getD r 0) (m1.getD r [])

/-! ### Chunks (R174) -/

/-- Elements of a dense chunk. -/
def denseChunk : Nat := 8192

/-- The number of chunks of a descriptor. -/
def UDesc.chunks (u : UDesc) : Nat :=
  if u.op = 0 && u.emb then u.nlist
  else if u.prec then (u.rows / u.edge) * (u.cols / u.edge)
  else if u.op = 0 || u.op = 3 then ceilDiv u.elems denseChunk
  else 0

/-- Rows and columns of the elements `[i, i + n)` of a row-major tensor. -/
def coords (cols i n : Nat) : List (Nat × Nat) := (List.range n).map fun k => ((i + k) / cols, (i + k) % cols)

/-- Add an exact square to a partial; `none` stays `none`. -/
def addPartial (m : SMap (Option Nat)) (k : Nat) (g : W32) : SMap (Option Nat) :=
  SMap.set m k (match SMap.get m (some 0) k, sqUnits g with
    | some a, some b => some (a + b)
    | _, _ => none)

/-- One chunk of a REDUCE: the sources are added in list order (R180). -/
def UEnv.reduceChunk (v : UEnv) (srcs : List Nat) (i n : Nat) : ClauseM Unit := do
  let u := v.u
  let r := u.grec
  let sums ← (coords u.cols i n).mapM fun p => do
    let xs ← srcs.mapM fun s => v.elem r s (s + u.scaleOffset) u.rows p.1 p.2
    return fsum (xs.headD 0) xs.tail
  v.putRun u.g r i sums

/-- Run chunk `k` of a descriptor: the descriptor after it (FACT's partials grow). -/
def UEnv.chunk (v : UEnv) (x : Upd) (factor : W32) (k : Nat) : ClauseM Upd := do
  let u := v.u
  let i := k * denseChunk
  let n := min denseChunk (u.elems - i)
  if u.op = 3 then
    v.reduceChunk x.srcs i n
    return x
  else if u.prec then
    v.tile k factor
    return x
  else if u.emb then
    let row := x.list.getD k 0
    let t := x.counts.getD k 0 + 1
    let gs ← v.grads factor (coords u.cols (k * u.cols) u.cols)
    v.plainRun (row * u.cols) t gs
    v.write (u.cnt + 4 * row) (leBytes 4 (nextCount (x.counts.getD k 0)))
    return x
  else
    let at_ := coords u.cols i n
    let gs ← v.grads factor at_
    let t := x.counts.headD 0 + 1
    if u.rule ≠ 2 then
      v.plainRun i t gs
      return x
    else if x.passB then
      v.factRun i t x.rs gs
      return x
    else
      return { x with rowSq := (at_.zip gs).foldl (fun m e => addPartial m e.1.1 e.2) x.rowSq,
                      colSq := (at_.zip gs).foldl (fun m e => addPartial m e.1.2 e.2) x.colSq }

/-! ### The life of a descriptor -/

/-- Change an accepted descriptor. -/
def Dev.modUpd (d : Dev) (c id : Nat) (f : Upd → Upd) : Dev :=
  d.modCtx c fun x => { x with upds := x.upds.map fun y => if y.id = id then f y else y }

/-- Run a meaning on an accepted descriptor of a context whose work goes on. -/
def Dev.withUpd (d : Dev) (c id : Nat) (f : Upd → UDesc → Dev → Dev) : Dev :=
  match (d.ctx c).upds.find? fun x => x.id = id with
  | some x => if d.working c then f x (UDesc.of x.bytes) d else d
  | none => d

/-- Begin a descriptor of an operation that has not begun. -/
def Dev.begin (d : Dev) (c id op : Nat) (f : Upd → UDesc → Dev → Dev) : Dev :=
  d.withUpd c id fun x u d =>
    if u.op = op && !x.begun then f x u (d.modUpd c id fun x => { x with begun := true }) else d

/-- A descriptor ends before its first chunk, or skips. -/
def Dev.endEarly (d : Dev) (c id status : Nat) (skipped : Bool) : Dev :=
  d.modUpd c id fun x => { x with total := 0, status := status, skipped := skipped }

/-- What a failed read before the first chunk does: a range that is no longer mapped faults the context, a lower tier
ends the descriptor. -/
def Dev.earlyFail (d : Dev) (c : Nat) (x : Upd) (e : Nat × Nat) : Dev :=
  if e.1 = Status.pageFault then d.faultCtx c e.1 x.core x.seq e.2 else d.endEarly c x.id e.1 false

/-- Numbers of `n` bytes each, `k` of them. -/
def numbers (bs : List Byte) (n k : Nat) : List Nat := (List.range k).map fun i => fieldAt bs (n * i) n

/-- Whether a list rises strictly and stays below a bound (R186). -/
def listOk (rows : Nat) : List Nat → Bool
  | [] => true
  | [a] => decide (a < rows)
  | a :: b :: t => decide (a < b) && listOk rows (b :: t)

/-- What a descriptor reads when it is accepted: the list of EMB, unless PEND lets the unit read nothing (R177), or the source list of
a REDUCE. The answer is what refuses it (status and address), or its early status, its list and its sources. -/
def UEnv.lists (v : UEnv) (pend : Nat) (d : Dev) : Except (Nat × Nat) (Nat × List Nat × List Nat) × Dev :=
  let u := v.u
  let early (e : Nat × Nat) (d : Dev) : Except (Nat × Nat) (Nat × List Nat × List Nat) × Dev :=
    (if e.1 = Status.pageFault then .error e else .ok (e.1, [], []), d)
  if u.op = 0 && u.emb && pend = 1 then
    match (v.read u.list (4 * u.nlist)).run d with
    | .error e d => early e d
    | .ok bs d =>
      let list := numbers bs 4 u.nlist
      (if listOk u.rows list then .ok (0, list, []) else .error (Status.integrity, 0), d)
  else if u.op = 3 then
    match (v.read u.list (8 * u.nlist)).run d with
    | .error e d => early e d
    | .ok bs d =>
      let srcs := numbers bs 8 u.nlist
      let spans := srcs.flatMap fun s =>
        [(s, elemBytes u.grec.fmt u.elems, false), (s + u.scaleOffset, u.grec.blocks u.rows u.cols, false)]
      (match d.badSpan v.c spans with
       | some va => .error (Status.pageFault, va)
       | none => .ok (0, [], srcs), d)
  else (.ok (0, [], []), d)

/-- UPD: the descriptor is copied, checked with its lists (R190), and queued at every unit it names, once all have room. -/
def Dev.upd (core seq offset : Nat) (rsp : TierRsp) (d : Dev) : Dev :=
  d.withClause core seq fun c _ d =>
    if offset % 64 ≠ 0 || storeBytes < offset + 192 then d.faultCtx c Status.integrity core seq 0 else
      let bs := d.lsRead core offset 192
      let u := UDesc.of bs
      if u.unitList.any fun k => 256 ≤ d.unitQueue k then d.stalls core seq Cause.dmaLate
      else match d.updCheck c seq bs with
        | some (st, va) => d.faultCtx c st core seq va
        | none =>
          match UEnv.lists ⟨c, u, none, rsp⟩ (d.ctx c).latPend d with
          | (.error e, d) => d.faultCtx c e.1 core seq e.2
          | (.ok (st, list, srcs), d) =>
            let next := (List.range u.unitList.length).map fun i => (u.unitList.getD i 0, i)
            let d := d.issues core seq
            let d := d.modCtx c fun x =>
              { x with nextId := x.nextId + 1,
                       upds := x.upds ++ [⟨x.nextId, core, seq, bs, false, next, 0, st, false, false, [], [], 0, list, [], srcs, false⟩] }
            (d.incMod F.updCtxCnt_issued c).showUnits

/-- APPLY: PEND decides, and the counts are read. A list that a lower tier did not deliver has ended the descriptor already. -/
def Dev.apply (c id : Nat) (rsp : TierRsp) (d : Dev) : Dev :=
  d.begin c id 0 fun x u d =>
    let v : UEnv := ⟨c, u, none, rsp⟩
    if x.status ≠ 0 then d
    else if (d.ctx c).latPend ≠ 1 then d.endEarly c id 0 true
    else
      match (if u.emb then x.list.mapM fun r => v.read (u.cnt + 4 * r) 4 else do
        let b ← v.read u.cnt 4
        pure [b]).run d with
      | .error e d => d.earlyFail c x e
      | .ok cs d => d.modUpd c id fun x => { x with total := u.chunks, counts := cs.map leNat }

/-- Show the number of watch ranges of a context. -/
def Dev.countWatches (d : Dev) (c : Nat) : Dev := (d.put F.updCtxWatch_armed c (d.ctx c).watches.length).showUnits

/-- WATCH: at most 256 ranges of a context and 4,096 of the device. -/
def Dev.watch (c id : Nat) (d : Dev) : Dev :=
  d.begin c id 1 fun _ u d =>
    let all := d.ctxs.foldl (fun n e => n + e.2.watches.length) 0
    if 256 ≤ (d.ctx c).watches.length || 4096 ≤ all then d.endEarly c id Status.quota false
    else
      let w : Watch := ⟨u.g, u.elems, u.grec.fmt, u.grec.ts, u.unitList.headD 0⟩
      (d.modCtx c fun y => { y with watches := y.watches ++ [w] }).countWatches c

/-- UNWATCH: the ranges with the same G_REF are disarmed. -/
def Dev.unwatch (c id : Nat) (d : Dev) : Dev :=
  d.begin c id 2 fun _ u d => (d.modCtx c fun y => { y with watches := y.watches.filter fun w => w.addr ≠ u.g }).countWatches c

/-- REDUCE starts on the sources that its list named. -/
def Dev.reduce (c id : Nat) (d : Dev) : Dev :=
  d.begin c id 3 fun x u d => if x.status ≠ 0 then d else d.modUpd c id fun x => { x with total := u.chunks }

/-- Whether a descriptor has a chunk that a unit can run. -/
def Upd.runnable (x : Upd) (unit : Nat) : Bool := x.begun && x.next.any fun e => e.1 = unit && e.2 < x.total

/-- The context whose turn it is at a unit: the next after the one it served last, in order of number, that has a chunk there (R174). -/
def Dev.unitTurn (d : Dev) (unit : Nat) : Option Nat :=
  let cs := (List.range 256).filter fun c => (d.ctx c).upds.any fun x => x.runnable unit
  match (d.unit unit).last with
  | none => cs.head?
  | some l => match cs.find? fun c => l < c with
    | some c => some c
    | none => cs.head?

/-- UPD_CHUNK: a unit runs the next chunk of a descriptor, once its context's turn has come; a failure abandons that chunk and every later one. -/
def Dev.updChunk (c id unit : Nat) (rsp : TierRsp) (d : Dev) : Dev :=
  d.withUpd c id fun x u d =>
    match x.next.find? fun e => e.1 = unit with
    | none => d
    | some (_, k) =>
      if !x.begun || x.total ≤ k || d.unitTurn unit ≠ some c then d else
        let d := d.modUnit unit fun y => { y with last := some c }
        let v : UEnv := ⟨c, u, some unit, rsp⟩
        let step := u.unitList.length
        match (v.chunk x (d.ctx c).latFactor k).run d with
        | .ok x' d =>
          let d := d.modUpd c id fun _ => { x' with next := x.next.map fun e => if e.1 = unit then (unit, k + step) else e }
          d.incMod F.updUnitStat_chunks unit
        | .error e d =>
          if e.1 = Status.pageFault then d.faultCtx c e.1 x.core x.seq e.2
          else d.modUpd c id fun x => { x with total := k, status := e.1 }

/-- Whether every chunk of the pass in progress has completed or been abandoned. -/
def Upd.passDone (x : Upd) : Bool := x.begun && x.next.all fun e => x.total ≤ e.2

/-- A total of exact squares rounded once to FP32. -/
def roundTotal (m : SMap (Option Nat)) (k : Nat) : W32 :=
  match SMap.get m (some 0) k with
  | some n => toF32 (.fin false n (-298))
  | none => qnan

/-- The new FACT statistics from the totals, written over the old ones; the answer is the sum of the row statistics. -/
def UEnv.factStats (v : UEnv) (x : Upd) : ClauseM W32 := do
  let u := v.u
  let r0 ← v.words u.v 0 u.rows
  let c0 ← v.words u.v u.rows u.cols
  let blend (old total : W32) (n : Nat) : W32 :=
    fadd (fmul u.b2 old) (fmul (fsub one32 u.b2) (fdiv total (toF32 (.ofNat n))))
  let r1 := (List.range u.rows).map fun i => blend (r0.getD i 0) (roundTotal x.rowSq i) u.cols
  let c1 := (List.range u.cols).map fun j => blend (c0.getD j 0) (roundTotal x.colSq j) u.rows
  v.write u.v (f32Bytes (r1 ++ c1))
  return fsum (r1.headD 0) r1.tail

/-- FACT_PASS_B: after the last chunk of pass A the statistics are updated, and pass B starts. -/
def Dev.factPassB (c id : Nat) (d : Dev) : Dev :=
  d.withUpd c id fun x u d =>
    if !u.fact || x.passB || x.skipped || x.status ≠ 0 || !x.passDone then d else
      match (UEnv.factStats ⟨c, u, none, []⟩ x).run d with
      | .ok rs d =>
        let next := (List.range u.unitList.length).map fun i => (u.unitList.getD i 0, i)
        d.modUpd c id fun x => { x with passB := true, rs := rs, next := next }
      | .error e d => d.earlyFail c x e

/-- Push a completion handle to a chain: `none` while no consumer is bound or its queue is full (R44). -/
def Dev.pushHandle (d : Dev) (c chain : Nat) (handle : Word) : Option Dev :=
  match SMap.find (d.ctx c).chains chain with
  | none => none
  | some h =>
    match h.bound[h.turn % max 1 h.bound.length]? with
    | none => none
    | some (k, q) =>
      if 64 ≤ d.get F.coreHqStat_fill k q then none else
        let d := d.modCore k fun x => { x with handles := SMap.set x.handles q (SMap.get x.handles [] q ++ [handle]) }
        let d := d.put F.coreHqStat_fill k (d.get F.coreHqStat_fill k q + 1) q
        some (d.modCtx c fun x => { x with chains := SMap.set x.chains chain { h with turn := (h.turn + 1) % max 1 h.bound.length } })

/-- Count a descriptor that completes. -/
def Dev.countUpd (d : Dev) (c status : Nat) (skipped : Bool) : Dev :=
  let d := d.incMod F.updCtxCnt_done c
  let d := if skipped then d.incSat F.updCtxWatch_skipped c else d
  if status = 0 then d else
    let d := (d.put F.updCtxErr_last c status).incSat F.updCtxErr_errors c
    if status = Status.tierTimeout || status = Status.tierError then d.put F.updCtxErr_tier c 1 else d

/-- The last write of a descriptor: a dense, FACT or PREC APPLY that ends well writes its region's count (R187). -/
def Dev.writeCount (d : Dev) (c : Nat) (x : Upd) (u : UDesc) : Dev :=
  let counts : Bool := u.op = 0 && !u.emb && x.status = 0 && !x.skipped
  let (status, d) :=
    if !counts then (x.status, d) else
      match (UEnv.write ⟨c, u, none, []⟩ u.cnt (leBytes 4 (nextCount (x.counts.headD 0)))).run d with
      | .ok _ d => (0, d)
      | .error e d => (e.1, d)
  d.modUpd c x.id fun x => { x with written := true, status := status }

/-- UPD_COMPLETE: the region's count is written, and the completion handle is pushed once its chain takes it. -/
def Dev.updComplete (c id : Nat) (d : Dev) : Dev :=
  d.withUpd c id fun x u d =>
    if !x.passDone || (u.fact && !x.passB && x.status = 0 && !x.skipped) then d else
      let d := if x.written then d else d.writeCount c x u
      let status := (((d.ctx c).upds.find? fun y => y.id = id).map (·.status)).getD 0
      let ref := status + (if x.skipped then 2 ^ 8 else 0)
      let handle : Word := BitVec.ofNat 64 (ref + bitsOf u.tag 0 3 * 2 ^ 60)
      let done (d : Dev) : Dev :=
        ((d.modCtx c fun y => { y with upds := y.upds.filter fun z => z.id ≠ id }).countUpd c status x.skipped).showUnits
      if u.chain = 0xFFFF then done d else
        match d.pushHandle c u.chain handle with
        | some d => done d
        | none => d

/-- A context's descriptors are abandoned and its watch ranges disarmed (R191). -/
def Dev.dropUpds (d : Dev) (c : Nat) : Dev := (d.modCtx c fun x => { x with upds := [], watches := [] }).countWatches c

/-! ### The commands -/

/-- UPD (R172). -/
def execUpd (core seq offset : Nat) (rsp : TierRsp) (s : State) : Host.Outcome State Fault Refusal :=
  run (Instr.wf (.upd core seq offset rsp)) (Dev.upd core seq offset rsp) s

/-- APPLY (R182). -/
def execApply (ctx id : Nat) (rsp : TierRsp) (s : State) : Host.Outcome State Fault Refusal :=
  run (Instr.wf (.apply ctx id rsp)) (Dev.apply ctx id rsp) s

/-- WATCH (R179). -/
def execWatch (ctx id : Nat) (s : State) : Host.Outcome State Fault Refusal :=
  run (Instr.wf (.watch ctx id)) (Dev.watch ctx id) s

/-- UNWATCH (R179). -/
def execUnwatch (ctx id : Nat) (s : State) : Host.Outcome State Fault Refusal :=
  run (Instr.wf (.unwatch ctx id)) (Dev.unwatch ctx id) s

/-- REDUCE (R180). -/
def execReduce (ctx id : Nat) (s : State) : Host.Outcome State Fault Refusal :=
  run (Instr.wf (.reduce ctx id)) (Dev.reduce ctx id) s

/-- UPD_CHUNK (R174). -/
def execUpdChunk (ctx id unit : Nat) (rsp : TierRsp) (s : State) : Host.Outcome State Fault Refusal :=
  run (Instr.wf (.updChunk ctx id unit rsp)) (Dev.updChunk ctx id unit rsp) s

/-- FACT_PASS_B (R183). -/
def execFactPassB (ctx id : Nat) (s : State) : Host.Outcome State Fault Refusal :=
  run (Instr.wf (.factPassB ctx id)) (Dev.factPassB ctx id) s

/-- UPD_COMPLETE (R176). -/
def execUpdComplete (ctx id : Nat) (s : State) : Host.Outcome State Fault Refusal :=
  run (Instr.wf (.updComplete ctx id)) (Dev.updComplete ctx id) s

end Sys2Proof.Machine
end

