-- ==== Sys2Proof/Machine/Save.lean ====
section
/-! DEFINITION. How a checkpoint begins at a full stop: the job, the commit record's head, the slot, the plan (R302, R308, R313, R314). -/

namespace Sys2Proof.Machine

/-- The step of a context as its AT_STEP compares with it. -/
def Dev.stepNow (d : Dev) (c : Nat) : Nat := d.reg .lrnStep c

/-- AT_STEP of a SAVE. -/
def Ckpt.atStep (k : Ckpt) : Nat := fieldAt k.bytes 40 8

/-- The SAVE of a context that is armed for the step in progress. -/
def Dev.armedNow (d : Dev) (c : Nat) : Option Ckpt :=
  match (d.ctx c).ckpt with
  | some k => if d.get F.ckptStat_phase c = 1 && k.atStep = d.stepNow c then some k else none
  | none => none

/-- The job group of a context, where it names a group number (R302). -/
def Dev.jobGroup (d : Dev) (c : Nat) : Option Nat :=
  let g := d.get F.ckptJob_grp c
  if g < 64 then some g else none

/-- Members of a context's job. -/
def Dev.jobSize (d : Dev) (c : Nat) : Nat := match d.jobGroup c with | some g => d.groupSize g | none => 1

/-- Bytes 0 to 39 of the commit record (Table 14.2), after R167 and before the seed of the next step is latched. -/
def Dev.commitHead (d : Dev) (c : Nat) (k : Ckpt) : List Byte :=
  leBytes 4 0x4D4C4E4D ++ leBytes 4 (d.jobSize c) ++ leBytes 8 (d.reg .ckptJobId c) ++ leBytes 8 k.atStep ++
  leBytes 4 (fieldAt k.bytes 48 4) ++ leBytes 1 (d.get F.ctxLsStat_ls_exp c) ++ leBytes 1 0 ++
  leBytes 2 (d.get F.ctxLsStat_clean c) ++ leBytes 8 (d.reg .rngSeedLive c)

/-- The address of a slot of an area. -/
def slotAddr (va len slot : Nat) : Nat := va + slot * (len / 2)

/-- Whether the 128 bytes are a valid commit record for a job (R308). -/
def commitValid (bs : List Byte) (job : Nat) : Bool :=
  fieldAt bs 0 4 = 0x4D4C4E4D && slice bs 80 32 == digest256 (slice bs 0 80) && fieldAt bs 8 8 = job

/-- This member's logical rank in its job. -/
def Dev.jobRank (d : Dev) (c : Nat) : Nat := match d.jobGroup c with | some g => d.groupRank g | none => 0

/-- The slot that rank 0 takes: SLOT, or the slot that does not hold the valid record of highest STEP. -/
def pickSlot (want : Nat) (a b : List Byte) (job : Nat) : Nat :=
  if want ≠ 0 then want - 1 else
    match commitValid a job, commitValid b job with
    | true, true => if fieldAt b 16 8 < fieldAt a 16 8 then 1 else 0
    | true, false => 1
    | false, _ => 0

/-- Rank 0's part of the plan: the slot, its commit record cleared. -/
def planSlot (c va len want job : Nat) (rsp : TierRsp) : ClauseM Nat := do
  let a ← unitRead c none rsp (slotAddr va len 0) 128
  let b ← unitRead c none rsp (slotAddr va len 1) 128
  let slot := pickSlot want a b job
  unitWrite c none rsp (slotAddr va len slot) (List.replicate 128 0)
  return slot

/-- The plan as 64 bytes; the manual lists its fields and gives them no places (log entry 77). -/
def planBytes (slot step epoch job : Nat) : List Byte := leBytes 8 slot ++ leBytes 8 step ++ leBytes 8 epoch ++ leBytes 8 job ++ leBytes 32 0

/-- The slot of the plan is known on this member, and its writes begin (Table 14.5). -/
def Dev.planKnown (d : Dev) (c slot : Nat) : Dev :=
  match (d.ctx c).ckpt with
  | some k =>
    let d := d.modCtx c fun x => { x with ckpt := some { k with slot := slot } }
    (d.put F.ckptStat_slot c slot).put F.ckptStat_phase c 3
  | none => d

/-- An operation that the device enters for itself: its number, what it is for, its signature, the bytes that it gives. -/
def ownOp (num : Nat) (use : OpUse) (sig : CollSig) (own : List Byte) : CollOp := { CollOp.early num with use := use, sig := sig, own := own }

/-- The checkpoint of an armed SAVE begins: the next step is held, three numbers of the group's series are kept for its operations, and rank
0 chooses and clears the slot and broadcasts the plan (R313, R314). A job of one device has no operations. A slot that could not be read or
cleared leaves its status with rank 0. -/
def Dev.beginSave (d : Dev) (c : Nat) (k : Ckpt) (rsp : TierRsp) : Dev :=
  let head := d.commitHead c k
  let base := match d.jobGroup c with | some g => (d.group g).series | none => 0
  let want := fieldAt k.bytes 17 1
  let job := d.reg .ckptJobId c
  let (slot, st, d) : Nat × Nat × Dev :=
    if d.jobRank c ≠ 0 then (0, 0, d) else
      match (planSlot c k.va k.len want job rsp).run d with
      | .ok s d => (s, 0, d)
      | .error b d => (want - 1, b.1, d)
  let d := d.modCtx c fun x => { x with hold := true, ckpt := some { k with step := k.atStep, commit := head, base := base, status := st } }
  let d := d.put F.ckptStat_phase c 2
  match d.jobGroup c with
  | none => d.planKnown c slot
  | some g =>
    let plan := if d.jobRank c = 0 then planBytes slot k.atStep (fieldAt k.bytes 48 4) job else []
    (d.reserveOps g 3).enterOp g (ownOp base .plan ⟨5, 0, 64, 0, 0⟩ plan) rsp

end Sys2Proof.Machine
end

