-- ==== Sys2Proof/Machine/Learning.lean ====
section
/-! DEFINITION. The learning full stop: its conditions, the sum of squares, the barrier, the loss scale, the clip factor
and the step decision (R47, R84 to R87, R165 to R169, R303, Tables 3.9 and 7.4). -/

namespace Sys2Proof.Machine

/-! ### The sum of squares (R165, R166) -/

/-- The partial of a unit for a context, rounded once. -/
def UnitSt.sum (u : UnitSt) (c : Nat) : W32 :=
  if u.sqBad.contains c then qnan else toF32 (.fin false (SMap.get u.sq 0 c) (-298))

/-- The device's sum of its units' partials, in ascending unit number. -/
def Dev.ownSum (d : Dev) (c : Nat) : W32 := fsum ((d.unit 0).sum c) ((List.range 31).map fun u => (d.unit (u + 1)).sum c)

/-- Clear a context's sum registers. -/
def Dev.clearSums (d : Dev) (c : Nat) : Dev :=
  d.each (List.range 32) fun u d =>
    let x := d.unit u
    if (SMap.find x.sq c).isSome || x.sqBad.contains c then
      d.setUnit u { x with sq := SMap.erase x.sq c, sqBad := x.sqBad.filter (· ≠ c) }
    else d

/-- The device's overflow flag of a step (R84). -/
def Dev.ownFlag (d : Dev) (c : Nat) : Bool := (d.lrnCores c).any fun k => (d.core k).ovf

/-! ### The loss scale (R85, R87, Table 3.9) -/

/-- LS_MIN and LS_MAX as they act: at most 40, and LS_MIN for both where LS_MAX is below it. -/
def Dev.lsRange (d : Dev) (c : Nat) : Nat × Nat :=
  let lo := min 40 (d.get F.ctxLsCfg_ls_min c)
  (lo, max lo (min 40 (d.get F.ctxLsCfg_ls_max c)))

/-- Clamp an exponent into the range. -/
def Dev.lsClamp (d : Dev) (c n : Nat) : Nat := max (d.lsRange c).1 (min (d.lsRange c).2 n)

/-- LS_INIT as it acts. -/
def Dev.lsInit (d : Dev) (c : Nat) : Nat := d.lsClamp c (min 40 (d.get F.ctxLsCfg_ls_init c))

/-- The loss-scale update of a full stop. DESIGN CHOICE (log entry 59): CLEAN above WINDOW - 1, which a smaller WINDOW can leave, counts as
WINDOW - 1; Table 3.9 has no row for it. -/
def Dev.lossScale (d : Dev) (c : Nat) (flag : Bool) : Dev :=
  if !d.flag F.ctxLsCfg_enable c then (d.put F.ctxLsStat_ls_exp c (d.lsInit c)).put F.ctxLsStat_clean c 0
  else
    let e := d.lsClamp c (d.get F.ctxLsStat_ls_exp c)
    let clean := d.get F.ctxLsStat_clean c
    let window := max 1 (d.get F.ctxLsCfg_window c)
    if flag then (d.put F.ctxLsStat_ls_exp c (max (d.lsRange c).1 (e - 1))).put F.ctxLsStat_clean c 0
    else if clean + 1 < window then (d.put F.ctxLsStat_ls_exp c e).put F.ctxLsStat_clean c (clean + 1)
    else (d.put F.ctxLsStat_ls_exp c (min (d.lsRange c).2 (e + 1))).put F.ctxLsStat_clean c 0

/-! ### The step decision (R167) -/

/-- 2^-L. -/
def scaleDown (l : Nat) : W32 := toF32 (.fin false 1 (-(l : Int)))

/-- NORM of a sum of squares under a loss scale; 0x7FC0_0000 where the sum is not finite (LRN_CLIP_STAT). -/
def normOf (s : W32) (l : Nat) : W32 := if fbad s then 0x7FC00000 else fmul (fsqrt s) (scaleDown l)

/-- The clip limit in force, if any. -/
def Dev.clipMax (d : Dev) (c : Nat) : Option W32 :=
  let m : W32 := BitVec.ofNat 32 (d.get F.lrnClipCfg_clip_max c)
  if d.flag F.lrnClipCfg_enable c && !fbad m && Ext.lt (Ext.zero false) (f32 m) then some m else none

/-- Whether a norm is above the limit. -/
def Dev.clips (d : Dev) (c : Nat) (norm : W32) : Bool :=
  match d.clipMax c with
  | some m => Ext.lt (f32 m) (f32 norm)
  | none => false

/-- FACTOR of a step that is not skipped. -/
def Dev.stepFactor (d : Dev) (c : Nat) (norm : W32) (l : Nat) : W32 :=
  match d.clipMax c with
  | some m => if Ext.lt (f32 m) (f32 norm) then fmul (fdiv m norm) (scaleDown l) else scaleDown l
  | none => scaleDown l

/-- NORM, FACTOR, PEND and the clip counts of a full stop, from the combined flag and sum. -/
def Dev.stepDecision (d : Dev) (c : Nat) (flag : Bool) (s : W32) : Dev :=
  let l := (d.ctx c).latLsExp
  let norm := normOf s l
  let clip : Bool := !flag && d.clips c norm
  let factor : W32 := if flag then 0 else d.stepFactor c norm l
  let d := if fbad s then d.put F.lrnStepStat_s_ovf c 1 else d
  let d := (d.put F.lrnClipStat_norm c norm.toNat).put F.lrnClipStat_factor c factor.toNat
  let d := (d.put F.lrnStepStat_pend c (if flag then 2 else 1)).put F.lrnStepStat_clipped_last c (if clip then 1 else 0)
  if clip then d.incSat F.lrnStepStat_clipped c else d

/-! ### The next step (R86, R177, R224, Table 7.4) -/

/-- Latch what step s+1 works with: PEND, FACTOR, the loss scale and the seed. -/
def Dev.latchStep (d : Dev) (c : Nat) : Dev :=
  let pend := d.get F.lrnStepStat_pend c
  let factor : W32 := BitVec.ofNat 32 (d.get F.lrnClipStat_factor c)
  let ls := d.get F.ctxLsStat_ls_exp c
  let d := d.modCtx c fun x => { x with latPend := pend, latFactor := factor, latLsExp := ls, inBarrier := false, stepOpen := false, seedLatched := true }
  d.setReg .rngSeedLive c (d.reg .rngSeed c)

/-- Whether learning clauses wait for the next step. -/
def Dev.lrnQueued (d : Dev) (c : Nat) : Bool := (d.ctx c).clauses.any fun y => !y.gen && !y.placed

/-- The full stop of a context completes on its cores, and the phase moves on; firmware removes a slow core now, or after the shard writes
of a checkpoint (R25, R314, R400); a fabric-only context of a detached port holds. -/
def Dev.endStop (d : Dev) (c : Nat) (met : Bool) : Dev :=
  let ks := d.lrnCores c
  let d := (d.clearHalts ks).endStepWait ks
  let d := d.each ks fun k d => d.modCore k fun x => { x with ovf := false, doneSeqs := [] }
  let d := (d.put F.ctxNumStat_ovf c 0).issueHeld ks
  let phase :=
    if d.detached && (d.ctx c).fabricOnly then LrnSt.hold else if met && d.lrnQueued c then LrnSt.run else LrnSt.idle
  let d := d.put F.lrnStepStat_phase c phase
  if (d.ctx c).hold then d else d.removeSlow c ks

/-- The barrier is met (R167): the combined flag and sum decide, the loss scale and STEP advance, and the next step's
values are latched. -/
def Dev.barrierEffect (d : Dev) (c : Nat) (flag : Bool) (s : W32) (rsp : TierRsp) : Dev :=
  let flag : Bool := flag || fbad s
  let save := d.armedNow c
  let d := d.stepDecision c flag s
  let d := if flag then (d.put F.ctxNumStat_ovf_seen c 1).incSat F.ctxLsStat_ovf_steps c else d
  let d := d.lossScale c flag
  let d := match save with | some k => d.beginSave c k rsp | none => d
  let d := d.setReg .lrnStep c (d.stepNow c + 1)
  (d.latchStep c).endStop c true

/-- The barrier ends with COLL_ABORT (R168): the step's update is skipped; a SAVE armed for it ends. -/
def Dev.abortEffect (d : Dev) (c : Nat) : Dev :=
  let save := d.armedNow c
  let d := d.put F.lrnStepStat_pend c 2
  let d := d.setReg .lrnStep c (d.stepNow c + 1)
  let d := (d.latchStep c).endStop c false
  match save with
  | some k => d.endSave c k Status.collAbort
  | none => d

/-! ### Entering the barrier (R47, R303) -/

/-- Whether every write of an update descriptor has completed (R175): a watch writes nothing, and a handle is no write. -/
def Upd.atRest (x : Upd) : Bool := let op := (UDesc.of x.bytes).op; op = 1 || op = 2 || x.written

/-- Whether the conditions of R47 other than the barrier hold: the sequencers', every transfer complete, every update written. -/
def Dev.stopReady (d : Dev) (c : Nat) : Bool :=
  let ks := d.lrnCores c
  let st (k s : Nat) : Nat := d.get F.coreSeqStat_state k s
  ks.all (fun k => [0, 1, 2].all fun s =>
    st k s = SeqSt.stepWait || (st k s = SeqSt.idle && !(d.core k).doneSeqs.contains s)) &&
  ks.any (fun k => [0, 1, 2].any fun s => st k s = SeqSt.stepWait) &&
  ks.all (fun k => (d.core k).xfers.all (·.held)) && (d.ctx c).upds.all (·.atRest)

/-- The full-stop barrier of a group that is in progress here. -/
def Group.stopOp (x : Group) : Option CollOp := x.ops.find? fun o => o.use = .stop && o.issued.isSome

/-- The barrier enters its group's series: an FP32 sum of each member's partial, beside a flag whose sum is not 0 where any member's is set
(R291; log entry 77). One that ends at once ended with COLL_ABORT. -/
def Dev.enterBarrier (d : Dev) (c g : Nat) (flag : Bool) (s : W32) (rsp : TierRsp) : Dev :=
  let o := { ownOp (d.group g).series .stop ⟨barrierOp, 0, 1, 0, 0⟩ [] with chunks := [[s, if flag then one32 else 0]] }
  let d := d.enterOp g o rsp
  if (d.group g).stopOp.isSome then d else d.abortEffect c

/-- LEARNING_FULL_STOP: the partials are rounded and their registers cleared (R165), the handles of the role are discarded, and the barrier
is entered; a job of one device meets it at once, and one whose GRP names no group of this context aborts it at once. -/
def Dev.learningFullStop (c : Nat) (rsp : TierRsp) (d : Dev) : Dev :=
  if !d.working c || d.get F.lrnStepStat_phase c ≠ LrnSt.run || !d.stopReady c then d else
    let flag := d.ownFlag c
    let s := d.ownSum c
    let d := ((d.clearSums c).discardHandles (d.lrnCores c)).put F.lrnStepStat_phase c LrnSt.stopping
    let d := d.modCtx c fun x => { x with inBarrier := true }
    match d.jobGroup c with
    | none => d.barrierEffect c flag s rsp
    | some g => if d.inGroup c g then d.enterBarrier c g flag s rsp else d.abortEffect c

/-- The job's sum and flag as the barrier brought them. -/
def CollOp.stopResult (o : CollOp) : W32 × Bool :=
  let bs := ((o.downs.find? fun u => u.1 = 0).map (·.2.2)).getD []
  (BitVec.ofNat 32 (fieldAt bs 0 4), fieldAt bs 4 4 ≠ 0)

/-- BARRIER_MET: the operation has brought the job's sum and flag, and completes with OK. -/
def Dev.barrierMet (c : Nat) (rsp : TierRsp) (d : Dev) : Dev :=
  match d.jobGroup c with
  | none => d
  | some g =>
    match (d.group g).stopOp with
    | none => d
    | some o =>
      if !(d.ctx c).inBarrier || !d.working c || !d.inGroup c g || !o.ready (d.ranksOf g) d.ownRank then d
      else (d.finishOp g o Status.ok 0 rsp).barrierEffect c o.stopResult.2 o.stopResult.1 rsp

/-- BARRIER_ABORT: the operation ends with COLL_ABORT, by this member's own timeout, or by an abort that ended it before. -/
def Dev.barrierAbort (c : Nat) (d : Dev) : Dev :=
  if !(d.ctx c).inBarrier || !d.working c then d else
    match d.jobGroup c with
    | none => d
    | some g =>
      match (if d.inGroup c g then (d.group g).stopOp else none) with
      | none => d.abortEffect c
      | some o =>
        if d.get F.fabGrpCfg_mode g = 1 then d
        else
          let late : Bool := match o.issued with | some t => t + 1000 * d.get F.fabGrpCtl_tmo_us g < d.ns | none => false
          if late then (d.abortOp g o.num (d.groupRank g) 1).abortEffect c else d

/-- LRN_STEP_WRITE: a write takes effect only in state IDLE; a generation context has no such register. -/
def Dev.lrnStepWrite (fn c : Nat) (value : Word) (d : Dev) : Dev :=
  if d.ctxWritable fn c && d.kindOf c ≠ 0 && d.get F.lrnStepStat_phase c = LrnSt.idle then d.setReg .lrnStep c value.toNat
  else d

/-! ### The commands -/

/-- LEARNING_FULL_STOP (R47). -/
def execLearningFullStop (ctx : Nat) (rsp : TierRsp) (s : State) : Host.Outcome State Fault Refusal :=
  run (Instr.wf (.learningFullStop ctx rsp)) (Dev.learningFullStop ctx rsp) s

/-- BARRIER_MET (R167). -/
def execBarrierMet (ctx : Nat) (rsp : TierRsp) (s : State) : Host.Outcome State Fault Refusal :=
  run (Instr.wf (.barrierMet ctx rsp)) (Dev.barrierMet ctx rsp) s

/-- BARRIER_ABORT (R168). -/
def execBarrierAbort (ctx : Nat) (s : State) : Host.Outcome State Fault Refusal :=
  run (Instr.wf (.barrierAbort ctx)) (Dev.barrierAbort ctx) s

/-- LRN_STEP_WRITE (R153). -/
def execLrnStepWrite (fn ctx : Nat) (value : Word) (s : State) : Host.Outcome State Fault Refusal :=
  run (Instr.wf (.lrnStepWrite fn ctx value)) (Dev.lrnStepWrite fn ctx value) s

end Sys2Proof.Machine
end

