-- ==== Sys2Proof/Machine/Ckpt.lean ====
section
/-! DEFINITION. Checkpoints: areas, SAVE and its commit, RESTORE and its candidates, QUERY, the job registers (R302 to
R323). -/

namespace Sys2Proof.Machine

/-! ### Areas (R305) -/

/-- The area of a context at a virtual address. -/
def Dev.areaAt (d : Dev) (c va : Nat) : Option Area := (d.ctx c).areas.find? fun a => a.va = va

/-- The 2 MiB leaves of an area, by starting granule. -/
def areaLeaves (va len pool : Nat) : List (Nat × Leaf) :=
  (List.range (len / 2 ^ 21)).map fun i =>
    ((va + i * 2 ^ 21) / pageBytes,
     { level := 2, tier := 2, w := true, comp := true, poison := false, moving := false, alloc := true, fallback := false,
       pref := 2, frame := (pool + i * 2 ^ 21) / pageBytes, kind := .area })

/-- Map an area: what refuses it, or the device with it. -/
def Dev.mapArea (d : Dev) (c va len pool : Nat) : Except Nat Dev :=
  let g := va / pageBytes
  let n := len / pageBytes
  let f := pool / pageBytes
  if d.baseFrames < f + n then .error Status.integrity
  else if (d.used 2).any fun r => r.1 < f + n && f < r.1 + r.2 then .error Status.integrity
  else if 2 ^ 50 < va + len || (d.ctx c).anyLeaf g n || d.deviceMeets c va len then .error Status.pageFault
  else
    let ls := (areaLeaves va len pool).foldl (fun m e => SMap.set m e.1 e.2) (d.ctx c).leaves
    if !d.quotaOk c 2 len || !d.tablesFit c ls 0 then .error Status.quota
    else .ok (((d.setLeaves c ls).charge c 2 len).modCtx c fun x => { x with areas := x.areas ++ [⟨va, len, pool⟩] })

/-- Unmap an area; its bytes stay as they are. -/
def Dev.unmapArea (d : Dev) (c : Nat) (a : Area) : Dev :=
  let ks := (areaLeaves a.va a.len a.pool).map (·.1)
  (d.dropLeaves c ks).modCtx c fun x => { x with areas := x.areas.filter fun b => b.va ≠ a.va }

/-- AREA. -/
def Dev.area (q i : Nat) (d : Dev) : Dev :=
  d.withDesc q i 8 0 fun c w bs d =>
    let va := fieldAt bs 24 8
    let len := fieldAt bs 32 8
    let pool := fieldAt bs 40 8
    if !allZero (slice bs 17 7) || !allZero (slice bs 48 16) || va % 2 ^ 30 ≠ 0 || len % 2 ^ 22 ≠ 0 || pool % 2 ^ 21 ≠ 0 then
      d.complete w Status.internal 0
    else if len = 0 then
      match d.areaAt c va with
      | none => d.complete w Status.pageFault 0
      | some a =>
        if ((d.ctx c).ckpt.map (·.va)) = some va || ((d.ctx c).restore.map (·.va)) = some va then d.complete w Status.deferred 0
        else (d.unmapArea c a).complete w Status.ok 0
    else match d.mapArea c va len pool with
      | .error st => d.complete w st 0
      | .ok d => d.complete w Status.ok 0

/-! ### Entries and slices (R311, R322) -/

/-- An entry of a LIST. -/
structure Entry where
  tensor : Nat
  trec : TRec
  ndim : Nat
  raw : Bool
  shape : List Nat
  start : List Nat
  extent : List Nat
  at_ : Nat
  reservedOk : Bool
  deriving DecidableEq, Repr

/-- Read an entry of 160 bytes. -/
def Entry.of (bs : List Byte) : Entry :=
  let nd := fieldAt bs 24 1
  let dims (o : Nat) : List Nat := (List.range (min nd 8)).map fun k => fieldAt bs (o + 4 * k) 4
  let rest (o : Nat) : Bool := allZero (slice bs (o + 4 * min nd 8) (32 - 4 * min nd 8))
  { tensor := fieldAt bs 0 8, trec := TRec.ofWords (fieldAt bs 8 8) (fieldAt bs 16 8), ndim := nd, raw := bitOf (fieldAt bs 25 1) 0,
    shape := dims 32, start := dims 64, extent := dims 96, at_ := fieldAt bs 128 8,
    reservedOk := fieldAt bs 25 1 < 2 && allZero (slice bs 26 6) && allZero (slice bs 136 24) && rest 32 && rest 64 && rest 96 }

/-- The alignment unit of a format along the last dimension. -/
def sliceUnit (fmt : Nat) : Nat :=
  if blockSize fmt ≠ 0 then blockSize fmt else if fmt = 5 || fmt = 6 then 4 else if fmt = 7 then 2 else 1

/-- Whether a slice satisfies R311. -/
def sliceOk (fmt : Nat) (shape start extent : List Nat) : Bool :=
  let dims := shape.zip (start.zip extent)
  let u := sliceUnit fmt
  dims.all (fun e => e.2.1 + e.2.2 ≤ e.1 && 1 ≤ e.2.2) &&
  (match dims.getLast? with
   | some e => e.2.1 % u = 0 && (e.2.2 % u = 0 || e.2.1 + e.2.2 = e.1)
   | none => false)

/-- Rows and columns of a slice, as a matrix whose columns are the last dimension. -/
def rowsOf (extent : List Nat) : Nat := extent.dropLast.foldl (· * ·) 1
def colsOf (extent : List Nat) : Nat := extent.getLastD 1

/-- Bytes of the element array and of the scale array of a slice. -/
def sliceBytes (fmt : Nat) (extent : List Nat) : Nat := elemBytes fmt (rowsOf extent * padTo (colsOf extent) (blockSize fmt))
def sliceScales (fmt : Nat) (extent : List Nat) : Nat :=
  if blockSize fmt = 0 then 0 else rowsOf extent * ceilDiv (colsOf extent) (blockSize fmt)

/-- Whether an entry names a record that it may, code 0xF not judged: R69 with blocks along the last dimension. A checkpoint converts nothing
into a record (R70). -/
def Entry.recOk (e : Entry) : Bool :=
  (e.trec.fmt = 0xF || (e.trec.okR69 false && (blockSize e.trec.fmt = 0 || e.trec.axis + 1 = e.ndim))) &&
  sliceOk e.trec.fmt e.shape e.start e.extent && (!e.raw || e.trec.fmt = 0)

/-- What refuses the entries of a LIST (Table 14.7), with what they must be mapped for. -/
def Dev.entriesCheck (d : Dev) (c : Nat) (es : List Entry) (dest : Bool) : Option Nat :=
  if es.any fun e => e.ndim = 0 || 8 < e.ndim || !e.reservedOk then some Status.internal
  else if es.any fun e => !e.recOk then some Status.integrity
  else if es.any fun e => e.trec.fmt = 0xF then some Status.formatUnknown
  else
    (d.badSpan c (es.flatMap fun e =>
      [(e.at_, sliceBytes e.trec.fmt e.extent, dest), (e.trec.scaleRef, sliceScales e.trec.fmt e.extent, dest)])).map
        fun _ => Status.pageFault

/-- The bytes that a shard of an entry takes in a slot: header, padded elements, padded scales. -/
def shardBytes (fmt : Nat) (extent : List Nat) : Nat :=
  256 + roundUp (sliceBytes fmt extent) 64 + roundUp (sliceScales fmt extent) 64

/-- Where the shards of a list of entries start in a member region, and where the region's content ends (R309). -/
def shardPlaces : List Entry → Nat → List Nat × Nat
  | [], o => ([], o)
  | e :: es, o =>
    let a := roundUp o 4096
    let r := shardPlaces es (a + shardBytes e.trec.fmt e.extent)
    (a :: r.1, r.2)

/-! ### SAVE (R312) -/

/-- SAVE: the checkpoint is armed for the full stop of AT_STEP. -/
def Dev.save (q i : Nat) (d : Dev) : Dev :=
  d.withDesc q i 8 1 fun c w bs d =>
    let n := fieldAt bs 20 4
    let va := fieldAt bs 24 8
    if 2 < fieldAt bs 17 1 || !allZero (slice bs 18 2) || 65535 < n || !allZero (slice bs 60 4) then d.complete w Status.internal 0
    else if d.kindOf c = 0 then d.complete w Status.integrity 0
    else match d.areaAt c va with
      | none => d.complete w Status.pageFault 0
      | some a =>
        let (g, d) := d.readVa c none [] (fieldAt bs 32 8) (160 * n)
        match g.bad with
        | some (st, _) => d.complete w st 0
        | none =>
          let es := (List.range n).map fun k => Entry.of (slice g.raw (160 * k) 160)
          match d.entriesCheck c es false with
          | some st => d.complete w st 0
          | none =>
            if fieldAt bs 56 4 * 4096 < (shardPlaces es (64 + 32 * n)).2 then d.complete w Status.quota 0
            else if fieldAt bs 40 8 < d.stepNow c || (d.ctx c).ckpt.isSome then d.complete w Status.deferred 0
            else
              let k : Ckpt := ⟨w, bs ++ g.raw, va, a.len, 0, 0, 0, [], 0, [], 0⟩
              ((d.accept w).modCtx c fun x => { x with ckpt := some k }).put F.ckptStat_phase c 1

/-! ### Writing a checkpoint (R308 to R310, R313) -/

/-- The entries of a SAVE's list. -/
def Ckpt.entries (k : Ckpt) : List Entry :=
  (List.range (fieldAt k.bytes 20 4)).map fun i => Entry.of (slice k.bytes (64 + 160 * i) 160)

/-- Pad with zeros to a multiple of 64. -/
def pad64 (bs : List Byte) : List Byte := bs ++ List.replicate (roundUp bs.length 64 - bs.length) 0

/-- Eight 32-bit numbers. -/
def eight (ns : List Nat) : List Byte := (List.range 8).flatMap fun k => leBytes 4 (ns.getD k 0)

/-- The header of a shard with its digest field 0 (Table 14.4). -/
def shardHead (e : Entry) (step epoch elems scales : Nat) (digest : List Byte) : List Byte :=
  leBytes 4 0x53484431 ++ leBytes 1 e.trec.fmt ++ leBytes 1 e.ndim ++ leBytes 1 (if e.raw then 1 else 0) ++ leBytes 1 0 ++
  leBytes 8 e.tensor ++ leBytes 8 step ++ leBytes 4 epoch ++ leBytes 4 e.trec.ts.toNat ++
  eight e.shape ++ eight e.start ++ eight e.extent ++ leBytes 8 elems ++ leBytes 8 scales ++ digest ++ leBytes 80 0

/-- A whole shard from its source bytes. -/
def shardOf (e : Entry) (step epoch : Nat) (elems scales : List Byte) : List Byte :=
  let payload := pad64 elems ++ pad64 scales
  let zero := shardHead e step epoch elems.length scales.length (List.replicate 32 0)
  shardHead e step epoch elems.length scales.length (digest256 (zero ++ payload)) ++ payload

/-- An element array with the padding of its short last blocks written as 0 (R66). -/
def zeroPadding (fmt : Nat) (extent : List Nat) (bs : List Byte) : List Byte :=
  let cols := colsOf extent
  let row := padTo cols (blockSize fmt)
  if row = cols then bs else
    packElems fmt ((List.range (rowsOf extent)).flatMap fun i => (List.range row).map fun j =>
      if j < cols then unpackElem fmt bs (i * row + j) else 0)

/-- Write one shard at its place from its source. -/
def writeShard (c base step epoch : Nat) (rsp : TierRsp) (e : Entry) (at_ : Nat) : ClauseM Unit := do
  let elems ← unitRead c none rsp e.at_ (sliceBytes e.trec.fmt e.extent)
  let scales ← unitRead c none rsp e.trec.scaleRef (sliceScales e.trec.fmt e.extent)
  unitWrite c none rsp (base + at_) (shardOf e step epoch (zeroPadding e.trec.fmt e.extent elems) scales)

/-- The directory of a member: its header, and an entry for each shard with its place in the slot (R309). -/
def directory (step epoch rank moff : Nat) (es : List (Entry × Nat)) : List Byte :=
  leBytes 8 step ++ leBytes 4 epoch ++ leBytes 4 es.length ++ leBytes 4 rank ++ leBytes 44 0 ++
  es.flatMap fun e => leBytes 8 (moff + e.2) ++ leBytes 8 e.1.tensor ++ leBytes 8 (shardBytes e.1.trec.fmt e.1.extent) ++ leBytes 8 0

/-- Write the shards of a list until one fails: its status, and the shards written. -/
def Dev.writeList (d : Dev) (c base step epoch : Nat) (rsp : TierRsp) : List (Entry × Nat) → Nat → Option Nat × Nat × Dev
  | [], n => (none, n, d)
  | e :: es, n =>
    match (writeShard c base step epoch rsp e.1 e.2).run d with
    | .ok _ d => d.writeList c base step epoch rsp es (n + 1)
    | .error b d => (some b.1, n, d)

/-- This member's shards in list order, then its directory: the SAVE with its status (an earlier one stays), its count and its directory's
digest. -/
def Dev.writeMember (d : Dev) (c : Nat) (k : Ckpt) (rsp : TierRsp) : Ckpt × Dev :=
  let es := k.entries
  let moff := fieldAt k.bytes 52 4 * 4096
  let epoch := fieldAt k.bytes 48 4
  let placed := es.zip (shardPlaces es (64 + 32 * es.length)).1
  let base := slotAddr k.va k.len k.slot + moff
  let first (st : Nat) : Nat := if k.status ≠ 0 then k.status else st
  match d.writeList c base k.step epoch rsp placed 0 with
  | (some st, n, d) => ({ k with status := first st, shards := n }, d)
  | (none, n, d) =>
    let dir := directory k.step epoch (d.jobRank c) moff placed
    match (unitWrite c none rsp base dir).run d with
    | .ok _ d => ({ k with shards := n, dirDigest := digest256 dir }, d)
    | .error b d => ({ k with status := first b.1, shards := n }, d)

/-- A member's summary of a checkpoint (R313), as the ALL_GATHER of the summaries brings it to rank 0. -/
structure SaveSum where
  moff : Nat
  mlen : Nat
  nshard : Nat
  step : Nat
  epoch : Nat
  status : Nat
  dirDigest : List Byte
  deriving DecidableEq, Repr

/-- A member's own summary. -/
def Ckpt.summary (k : Ckpt) : SaveSum :=
  ⟨fieldAt k.bytes 52 4, fieldAt k.bytes 56 4, fieldAt k.bytes 20 4, k.step, fieldAt k.bytes 48 4, k.status, k.dirDigest⟩

/-- A summary as 64 bytes, and back; the manual lists its fields and gives them no places (log entry 77). -/
def SaveSum.bytes (s : SaveSum) : List Byte :=
  leBytes 4 s.moff ++ leBytes 4 s.mlen ++ leBytes 4 s.nshard ++ leBytes 4 s.epoch ++ leBytes 8 s.step ++ leBytes 8 s.status ++
  s.dirDigest.take 32 ++ List.replicate (32 - s.dirDigest.length) 0
def SaveSum.of (bs : List Byte) : SaveSum :=
  ⟨fieldAt bs 0 4, fieldAt bs 4 4, fieldAt bs 8 4, fieldAt bs 16 8, fieldAt bs 12 4, fieldAt bs 24 8, slice bs 32 32⟩

/-- SAVE_WRITES_DONE: this member's shards and directory are read back, or one of its writes failed; the next step is released, and the
summaries are gathered. An operation of the checkpoint that aborted meanwhile ends the SAVE now. -/
def Dev.saveWritesDone (c : Nat) (rsp : TierRsp) (d : Dev) : Dev :=
  match (d.ctx c).ckpt with
  | none => d
  | some k =>
    if d.get F.ckptStat_phase c ≠ 3 || !d.working c then d else
      let (k, d) := d.writeMember c k rsp
      if k.status = Status.collAbort then d.endSave c k Status.collAbort else
        let d := (d.modCtx c fun x => { x with ckpt := some k }).releaseHold c
        let d := d.put F.ckptStat_phase c 4
        match d.jobGroup c with
        | none => d
        | some g =>
          if d.inGroup c g then d.enterOp g (ownOp (k.base + 1) .summary ⟨4, 0, 64, 0, 0⟩ k.summary.bytes) rsp
          else d.endSave c k Status.collAbort

/-- Whether two regions are disjoint. -/
def apart (a b : SaveSum) : Bool := a.moff + a.mlen ≤ b.moff || b.moff + b.mlen ≤ a.moff

/-- The outcome that rank 0 finds in the summaries, before it writes (R313). -/
def outcomeOf (len : Nat) (me : SaveSum) (sums : List SaveSum) : Nat :=
  match sums.find? fun s => s.status ≠ 0 with
  | some s => s.status
  | none =>
    let fits := sums.all fun s => 0x41000 ≤ s.moff * 4096 && (s.moff + s.mlen) * 4096 ≤ len / 2
    let agree := sums.all fun s => s.step = me.step && s.epoch = me.epoch
    let disjoint := (List.range sums.length).all fun i => (List.range i).all fun j => apart (sums.getD i me) (sums.getD j me)
    if fits && agree && disjoint then 0 else Status.integrity

/-- The manifest (Table 14.3). -/
def manifest (ranks : List Nat) (sums : List SaveSum) : List Byte :=
  (sums.zip ranks).flatMap fun e =>
    leBytes 8 (e.1.moff * 4096) ++ leBytes 8 (64 + 32 * e.1.nshard) ++ leBytes 4 e.1.nshard ++ leBytes 2 e.2 ++ leBytes 10 0 ++
    slice e.1.dirDigest 0 32

/-- Write the manifest and then the commit record. -/
def commitAll (c base : Nat) (rsp : TierRsp) (head man : List Byte) : ClauseM Unit := do
  unitWrite c none rsp (base + 0x1000) man
  let body := head ++ leBytes 8 man.length ++ digest256 man
  unitWrite c none rsp base (body ++ digest256 body ++ leBytes 16 0)

/-- The fabric ranks of a job's members in logical-rank order. -/
def Dev.jobRanks (d : Dev) (c : Nat) : List Nat := match d.jobGroup c with | some g => d.ranksOf g | none => [d.ownRank]

/-- Rank 0 judges the summaries and, where they agree, writes the manifest and the commit record: the outcome (R313). -/
def Dev.judge (d : Dev) (c : Nat) (k : Ckpt) (sums : List SaveSum) (rsp : TierRsp) : Nat × Dev :=
  match outcomeOf k.len k.summary sums with
  | 0 =>
    match (commitAll c (slotAddr k.va k.len k.slot) rsp k.commit (manifest (d.jobRanks c) sums)).run d with
    | .ok _ d => (0, d)
    | .error b d => (b.1, d)
  | st => (st, d)

/-- The summaries are here: rank 0 commits and broadcasts the outcome; every member waits for it. -/
def Dev.summariesKnown (d : Dev) (c g : Nat) (o : CollOp) (rsp : TierRsp) : Dev :=
  match (d.ctx c).ckpt with
  | none => d
  | some k =>
    let sum (r : Nat) : SaveSum := SaveSum.of (((o.downs.find? fun u => u.2.1 = r).map (·.2.2)).getD [])
    let (own, d) : List Byte × Dev :=
      if d.jobRank c ≠ 0 then ([], d) else
        let (st, d) := d.judge c k ((d.ranksOf g).map sum) rsp
        (leBytes 8 st, d)
    d.enterOp g (ownOp (k.base + 2) .outcome ⟨5, 0, 64, 0, 0⟩ own) rsp

/-- SAVE_OUTCOME: the outcome has arrived and the member completes its SAVE, with its own status where that is not OK. A job of one device
judges and commits now. -/
def Dev.saveOutcome (c : Nat) (rsp : TierRsp) (d : Dev) : Dev :=
  match (d.ctx c).ckpt with
  | none => d
  | some k =>
    let own (st : Nat) : Nat := if k.status ≠ 0 then k.status else st
    if d.get F.ckptStat_phase c ≠ 4 || !d.working c then d
    else match d.jobGroup c with
      | none =>
        let (st, d) := d.judge c k [k.summary] rsp
        d.endSave c k (own st)
      | some g =>
        match (d.group g).ops.find? fun o => o.use = .outcome && o.num = k.base + 2 with
        | none => d
        | some o =>
          if !o.ready (d.ranksOf g) d.ownRank then d else
            let st := fieldAt (((o.downs.head?).map (·.2.2)).getD []) 0 8
            (d.finishOp g o Status.ok 0 rsp).endSave c k (own st)

/-! ### RESTORE (R317 to R320) -/

/-- A shard as a directory names it: slot offset, tensor and bytes. -/
structure ShardAt where
  off : Nat
  tensor : Nat
  bytes : Nat
  deriving DecidableEq, Repr

/-- Read a directory whose digest holds. -/
def directoryShards (bs : List Byte) : List ShardAt :=
  (List.range (fieldAt bs 12 4)).map fun i => ⟨fieldAt bs (64 + 32 * i) 8, fieldAt bs (72 + 32 * i) 8, fieldAt bs (80 + 32 * i) 8⟩

/-- A shard that has been read whole. -/
structure Shard where
  head : List Byte
  elems : List Byte
  scales : List Byte
  deriving DecidableEq, Repr

def Shard.fmt (s : Shard) : Nat := fieldAt s.head 4 1 % 16
def Shard.ndim (s : Shard) : Nat := fieldAt s.head 5 1
def Shard.raw (s : Shard) : Bool := bitOf (fieldAt s.head 6 1) 0
def Shard.step (s : Shard) : Nat := fieldAt s.head 16 8
def Shard.ts (s : Shard) : W32 := BitVec.ofNat 32 (fieldAt s.head 28 4)
def Shard.dims (s : Shard) (o : Nat) : List Nat := (List.range (min 8 s.ndim)).map fun k => fieldAt s.head (o + 4 * k) 4
def Shard.shape (s : Shard) : List Nat := s.dims 32
def Shard.start (s : Shard) : List Nat := s.dims 64
def Shard.extent (s : Shard) : List Nat := s.dims 96

/-- Split the bytes of a shard. -/
def shardFrom (bs : List Byte) : Shard :=
  let h := slice bs 0 256
  let n := roundUp (fieldAt h 128 8) 64
  ⟨h, slice bs 256 n, slice bs (256 + n) (roundUp (fieldAt h 136 8) 64)⟩

/-- Whether a shard's own digest holds. -/
def Shard.sound (s : Shard) : Bool :=
  slice s.head 144 32 == digest256 (slice s.head 0 144 ++ List.replicate 32 0 ++ slice s.head 176 80 ++ s.elems ++ s.scales) &&
    fieldAt s.head 0 4 = 0x53484431

/-- Whether two slices of one tensor meet. -/
def slicesMeet (s1 e1 s2 e2 : List Nat) : Bool :=
  ((s1.zip e1).zip (s2.zip e2)).all fun p => p.1.1 < p.2.1 + p.2.2 && p.2.1 < p.1.1 + p.1.2

/-- Coordinates of element `i` of a row-major box. -/
def unflatten : List Nat → Nat → List Nat
  | [], _ => []
  | _ :: es, i =>
    let n := es.foldl (· * ·) 1
    i / n :: unflatten es (i % n)

/-- The index of coordinates in a row-major box. -/
def flatten (extent xs : List Nat) : Nat := (extent.zip xs).foldl (fun n p => n * p.1 + p.2) 0

/-- The place in a shard of element `i` of a target, where the shard holds it. -/
def Shard.find (s : Shard) (e : Entry) (i : Nat) : Option Nat :=
  let at_ := ((unflatten e.extent i).zip e.start).map fun p => p.1 + p.2
  let rel := (at_.zip (s.start.zip s.extent)).map fun p => (p.1, p.2.1, p.2.2)
  if rel.all fun p => p.2.1 ≤ p.1 && p.1 < p.2.1 + p.2.2 then some (flatten s.extent (rel.map fun p => p.1 - p.2.1)) else none

/-- The code and the scale of element `k` of a slice's arrays. -/
def codeAt (fmt : Nat) (extent : List Nat) (elems : List Byte) (k : Nat) : Nat :=
  let c := max 1 (colsOf extent)
  unpackElem fmt elems (k / c * padTo c (blockSize fmt) + k % c)
def scaleIndex (fmt : Nat) (extent : List Nat) (k : Nat) : Nat :=
  let c := max 1 (colsOf extent)
  if blockSize fmt = 0 then 0 else k / c * ceilDiv c (blockSize fmt) + k % c / blockSize fmt

/-- What a restore of one candidate has found: rejected shards with their statuses (newest first), the vote, a tier status
it met, a status that ends the RESTORE, the entries filled, and the shape and format of each tensor of which a sound shard was read. -/
structure Trial where
  rejected : List (Nat × Nat)
  vote : Bool
  tier : Option Nat
  stop : Option Nat
  filled : Nat
  seen : List (Nat × List Nat × Nat)
  deriving DecidableEq, Repr

/-- A trial that has found nothing. -/
def Trial.init : Trial := ⟨[], false, none, none, 0, []⟩

/-- Whether a shard's elements go to a target as they are (R319). -/
def Shard.same (s : Shard) (e : Entry) : Bool := s.raw || (e.trec.fmt = s.fmt && e.trec.ts = s.ts)

/-- Whether R319 lets a shard serve a target. -/
def Shard.serves (s : Shard) (e : Entry) : Bool := (!s.raw || e.raw) && (e.trec.fmt = 0 || s.same e)

/-- Element `i` of a target as a shard gives it: the code in the target's format and the scale byte. -/
def Shard.give (s : Shard) (e : Entry) (k : Nat) : Nat × Nat :=
  let code := codeAt s.fmt s.extent s.elems k
  let sc := if blockSize s.fmt = 0 then 0 else (s.scales.getD (scaleIndex s.fmt s.extent k) 0).toNat
  if s.same e then (code, sc) else ((widen s.fmt s.ts sc code).toNat, 0)

/-- Put `w` bits at a bit offset of bytes. -/
def putBits (bs : List Byte) (lo w v : Nat) : List Byte :=
  let o := lo / 8
  let n := ceilDiv (lo % 8 + w) 8
  bs.take o ++ leBytes n (setBits (leNat (slice bs o n)) (lo % 8) w v) ++ bs.drop (o + n)

/-- The elements that a shard newly supplies to a target, by their place in the target's array: code, and scale byte with its place; with the
last element of a row goes the padding of its short block, as 0 (R66). -/
def Shard.pieces (s : Shard) (e : Entry) (news : List (Nat × Nat)) : List (Nat × Nat × Option (Nat × Nat)) :=
  let fmt := e.trec.fmt
  let cols := max 1 (colsOf e.extent)
  let row := padTo cols (blockSize fmt)
  news.flatMap fun n =>
    let (code, sc) := s.give e n.2
    let at_ := n.1 / cols * row + n.1 % cols
    (at_, code, if blockSize fmt = 0 then none else some (scaleIndex fmt e.extent n.1, sc)) ::
      (if n.1 % cols = cols - 1 then (List.range (row - cols)).map fun j => (at_ + 1 + j, 0, none) else [])

/-- Write such pieces: element by element, with their scales. -/
def supply (c : Nat) (e : Entry) (rsp : TierRsp) : List (Nat × Nat × Option (Nat × Nat)) → ClauseM Unit
  | [] => pure ()
  | (at_, code, sc) :: t => do
    let w := elemBits e.trec.fmt
    let lo := at_ * w
    let old ← if w % 8 = 0 then pure (List.replicate (w / 8) 0) else unitRead c none rsp (e.at_ + lo / 8) (ceilDiv (lo % 8 + w) 8)
    unitWrite c none rsp (e.at_ + lo / 8) (putBits old (lo % 8) w code)
    (match sc with
     | some (i, b) => unitWrite c none rsp (e.trec.scaleRef + i) (leBytes 1 b)
     | none => pure ())
    supply c e rsp t

/-- Read a range of the area, with the answers to its requests: `none` where a lower tier failed. -/
def Dev.areaRead (d : Dev) (c : Nat) (rsp : TierRsp) (va n : Nat) : Except Nat (List Byte) × Dev :=
  let (g, d) := d.readVa c none rsp va n
  match g.bad with
  | some (st, _) => (.error st, d)
  | none => (.ok g.raw, d)

/-- One shard for one target entry: it is read, judged, and gives the elements that none gave before. -/
def Dev.useShard (d : Dev) (c : Nat) (rsp : TierRsp) (base step : Nat) (e : Entry) (s : ShardAt)
    (t : Trial) (got : List Nat) : Trial × List Nat × Dev :=
  if t.stop.isSome || t.rejected.any fun r => r.1 = s.off then (t, got, d) else
    match d.areaRead c rsp (base + s.off) s.bytes with
    | (.error st, d) => ({ t with vote := true, tier := some (t.tier.getD st) }, got, d)
    | (.ok bs, d) =>
      let x := shardFrom bs
      if !slicesMeet x.start x.extent e.start e.extent || x.ndim ≠ e.ndim then (t, got, d)
      else
        let reject (st : Nat) (f : Fld) : Trial × List Nat × Dev :=
          ({ t with rejected := (s.off, st) :: t.rejected }, got, d.incSat f c)
        let differs : Bool := t.seen.any fun y => y.1 = s.tensor && y.2 ≠ (x.shape, x.fmt)
        if x.step ≠ step then reject Status.stepMismatch F.ckptRej_step_rej
        else if !x.sound || differs then reject Status.integrity F.ckptRej_digest_rej
        else
          let t := { t with seen := if t.seen.contains (s.tensor, x.shape, x.fmt) then t.seen else t.seen ++ [(s.tensor, x.shape, x.fmt)] }
          if x.fmt = 0xF then ({ t with stop := some Status.formatUnknown }, got, d)
          else if !x.serves e then ({ t with stop := some Status.integrity }, got, d)
          else
            let n := rowsOf e.extent * colsOf e.extent
            let news := (List.range n).filterMap fun i =>
              if got.contains i then none else (x.find e i).map fun k => (i, k)
            match (supply c e rsp (x.pieces e news)).run d with
            | .ok _ d => (t, got ++ news.map (·.1), d)
            | .error b d => ({ t with vote := true, tier := some (t.tier.getD b.1) }, got, d)

/-- Fill one target entry from the shards of its tensor. -/
def Dev.fillEntry (d : Dev) (c : Nat) (rsp : TierRsp) (base step : Nat) (shards : List ShardAt) (e : Entry) (t : Trial) : Trial × Dev :=
  let mine := shards.filter fun s => s.tensor = e.tensor
  let r := mine.foldl (fun (r : Trial × List Nat × Dev) s => r.2.2.useShard c rsp base step e s r.1 r.2.1) (t, [], d)
  let full : Bool := decide (r.2.1.length = rowsOf e.extent * colsOf e.extent)
  (if full then { r.1 with filled := r.1.filled + 1 } else { r.1 with vote := true }, r.2.2)

/-- Read the directories that a manifest names; one whose digest fails gives no shard and a vote. -/
def Dev.readDirs (d : Dev) (c : Nat) (rsp : TierRsp) (base : Nat) (man : List Byte) (n : Nat) : List ShardAt × Trial × Dev :=
  (List.range n).foldl (fun (r : List ShardAt × Trial × Dev) i =>
    let m := slice man (64 * i) 64
    match r.2.2.areaRead c rsp (base + fieldAt m 0 8) (fieldAt m 8 8) with
    | (.error st, d) => (r.1, { r.2.1 with vote := true, tier := some (r.2.1.tier.getD st) }, d)
    | (.ok bs, d) =>
      if digest256 bs = slice m 32 32 then (r.1 ++ directoryShards bs, r.2.1, d) else (r.1, { r.2.1 with vote := true }, d))
    ([], Trial.init, d)

/-- Whether a shard that the candidate's STEP and its own DIGEST uphold meets a target and may not serve it (R319). -/
def Dev.misfit (d : Dev) (c base step : Nat) (e : Entry) (s : ShardAt) : Bool :=
  let x := shardFrom (d.peekVa c none (base + s.off) s.bytes).1
  s.tensor = e.tensor && x.ndim = e.ndim && slicesMeet x.start x.extent e.start e.extent && x.step = step && x.fmt ≠ 0xF &&
    x.sound && !x.serves e

/-- Try one candidate: what this member finds. A target that R319 refuses ends the RESTORE before any shard is read (log entry 60). -/
def Dev.tryCandidate (d : Dev) (c : Nat) (rsp : TierRsp) (base : Nat) (cr : List Byte) (es : List Entry) : Trial × Dev :=
  if !commitValid cr (d.reg .ckptJobId c) then ({ Trial.init with vote := true }, d) else
    let n := fieldAt cr 4 4
    match d.areaRead c rsp (base + 0x1000) (64 * n) with
    | (.error st, d) => ({ Trial.init with vote := true, tier := some st }, d)
    | (.ok man, d) =>
      if digest256 man ≠ slice cr 48 32 then ({ Trial.init with vote := true }, d) else
        let (shards, t, d) := d.readDirs c rsp base man n
        let bad : Bool := es.any fun e => shards.any (d.misfit c base (fieldAt cr 16 8) e)
        let t := if bad then { t with stop := some Status.integrity } else t
        es.foldl (fun (r : Trial × Dev) e => r.2.fillEntry c rsp base (fieldAt cr 16 8) shards e r.1) (t, d)

/-- The state of a restored job (R320). -/
def Dev.restoreState (d : Dev) (c : Nat) (cr : List Byte) : Dev :=
  let d := d.setReg .lrnStep c (fieldAt cr 16 8)
  let d := (d.put F.ctxLsStat_ls_exp c (fieldAt cr 28 1 % 64)).put F.ctxLsStat_clean c (fieldAt cr 30 2)
  let d := (d.setReg .rngSeed c (fieldAt cr 32 8)).setReg .rngSeedLive c (fieldAt cr 32 8)
  let d := (d.put F.lrnStepStat_pend c 0).setReg .ckptStep c (fieldAt cr 16 8)
  d.modCtx c fun x => { x with latPend := 0, seedLatched := true }

/-- The entries of a LIST. -/
def entriesOf (list : List Byte) : List Entry := (List.range (list.length / 160)).map fun k => Entry.of (slice list (160 * k) 160)

/-- A candidate that every member fills is restored (R320). -/
def Dev.restored (d : Dev) (c : Nat) (r : Restore) : Dev :=
  ((d.restoreState c r.now.2).put F.ckptStat_slot c r.now.1).endRestore c r.who 0 (r.filled + r.now.1 * 2 ^ 32)

/-- Try the candidates in turn. This member's vote on one decides alone in a job of one device; else it enters the group's series, and the
RESTORE waits for the largest (R318). -/
def Dev.tryNext (d : Dev) (c : Nat) (rsp : TierRsp) (r : Restore) : List (Nat × List Byte) → Option Nat → Dev
  | [], tier =>
    let st := match r.rejected, tier with
      | some st, _ => st
      | none, some st => st
      | none, none => Status.integrity
    d.endRestore c r.who st r.filled
  | (slot, cr) :: more, tier =>
    match d.tryCandidate c rsp (slotAddr r.va r.len slot) cr (entriesOf r.list) with
    | (t, d) =>
      let tier := match t.tier with | some st => some st | none => tier
      let r := { r with left := more, now := (slot, cr), filled := t.filled, rejected := t.rejected.getLast?.map (·.2), tier := tier }
      match t.stop, d.jobGroup c with
      | some st, _ => d.endRestore c r.who st t.filled
      | none, none => if t.vote then d.tryNext c rsp r more tier else d.restored c r
      | none, some g =>
        let num := (d.group g).series
        let d := d.modCtx c fun x => { x with restore := some { r with num := num } }
        d.enterOp g { ownOp num .vote ⟨2, 1, 1, 0, 0⟩ [] with chunks := [[if t.vote then one32 else 0]] } rsp

/-- The largest vote of the job is known: 0 restores the candidate, anything else goes on to the next. -/
def Dev.votesKnown (d : Dev) (c : Nat) (o : CollOp) (rsp : TierRsp) : Dev :=
  match (d.ctx c).restore with
  | none => d
  | some r =>
    let v : W32 := BitVec.ofNat 32 (fieldAt (((o.downs.find? fun u => u.1 = 0).map (·.2.2)).getD []) 0 4)
    if (f32 v).isZero then d.restored c r else d.tryNext c rsp r r.left r.tier

/-- The candidates of a RESTORE: the slot named, or the valid records in descending STEP, slot A first. -/
def candidatesOf (want : Nat) (a b : List Byte) (job : Nat) : List (Nat × List Byte) :=
  if want = 1 then [(0, a)] else if want = 2 then [(1, b)] else
    match commitValid a job, commitValid b job with
    | true, true => if fieldAt a 16 8 < fieldAt b 16 8 then [(1, b), (0, a)] else [(0, a), (1, b)]
    | true, false => [(0, a)]
    | false, true => [(1, b)]
    | false, false => []

/-- A commit record as it is read: a record that a lower tier does not deliver counts as invalid, with its status. -/
def Dev.readRecord (d : Dev) (c : Nat) (rsp : TierRsp) (va len slot : Nat) : List Byte × Option Nat × Dev :=
  match d.areaRead c rsp (slotAddr va len slot) 128 with
  | (.ok bs, d) => (bs, none, d)
  | (.error st, d) => (List.replicate 128 0, some st, d)

/-- Whether the job group of a context has been created (R317). -/
def Dev.jobReady (d : Dev) (c : Nat) : Bool := match d.jobGroup c with | some g => d.inGroup c g | none => true

/-- RESTORE. While one waits for its job's vote, another is DEFERRED (log entry 77). -/
def Dev.restore (q i : Nat) (rsp : TierRsp) (d : Dev) : Dev :=
  d.withDesc q i 8 2 fun c w bs d =>
    let n := fieldAt bs 20 4
    let va := fieldAt bs 24 8
    let want := fieldAt bs 17 1
    if 2 < want || !allZero (slice bs 18 2) || n = 0 || 65535 < n || !allZero (slice bs 40 24) then d.complete w Status.internal 0
    else if d.kindOf c = 0 then d.complete w Status.integrity 0
    else match d.areaAt c va with
      | none => d.complete w Status.pageFault 0
      | some a =>
        let (g, d) := d.readVa c none [] (fieldAt bs 32 8) (160 * n)
        match g.bad with
        | some (st, _) => d.complete w st 0
        | none =>
          let es := (List.range n).map fun k => Entry.of (slice g.raw (160 * k) 160)
          match d.entriesCheck c es true with
          | some st => d.complete w st 0
          | none =>
            if d.get F.lrnStepStat_phase c ≠ LrnSt.idle || (d.ctx c).ckpt.isSome || (d.ctx c).restore.isSome || !d.jobReady c then
              d.complete w Status.deferred 0
            else
              let (ra, sa, d) := d.readRecord c rsp va a.len 0
              let (rb, sb, d) := d.readRecord c rsp va a.len 1
              let cs := candidatesOf want ra rb (d.reg .ckptJobId c)
              let tier := match sa with | some st => some st | none => sb
              (d.accept w).tryNext c rsp ⟨w, g.raw, va, a.len, cs, (0, []), 0, 0, none, tier⟩ cs tier

/-- COLL_OPERATION_COMPLETE: everything that an operation brings to this member is here. One of Table 13.3 is written and completes; the
plan, the summaries and the vote let their checkpoint or restore go on. The barrier and the outcome have commands of their own. -/
def Dev.collOperationComplete (g num : Nat) (rsp : TierRsp) (d : Dev) : Dev :=
  let c := d.get F.fabGrpCfg_ctx g
  match (d.group g).op num with
  | none => d
  | some o =>
    if !d.flag F.fabGrpCfg_valid g || !o.ready (d.ranksOf g) d.ownRank then d
    else match o.use with
      | .user => d.completeUser g o rsp
      | .plan => (d.finishOp g o Status.ok 0 rsp).planKnown c (fieldAt (((o.downs.head?).map (·.2.2)).getD []) 0 8 % 2)
      | .summary => (d.finishOp g o Status.ok 0 rsp).summariesKnown c g o rsp
      | .vote => (d.finishOp g o Status.ok 0 rsp).votesKnown c o rsp
      | .stop => d
      | .outcome => d

/-- QUERY: both commit records, zeros for an invalid one. -/
def Dev.query (q i : Nat) (rsp : TierRsp) (d : Dev) : Dev :=
  d.withDesc q i 8 3 fun c w bs d =>
    let dst := fieldAt bs 32 8
    if !allZero (slice bs 17 7) || !allZero (slice bs 40 24) then d.complete w Status.internal 0
    else match d.areaAt c (fieldAt bs 24 8) with
      | none => d.complete w Status.pageFault 0
      | some a =>
        if !d.writable c dst 256 then d.complete w Status.pageFault 0
        else
          let (ra, sa, d) := d.readRecord c rsp a.va a.len 0
          let (rb, sb, d) := d.readRecord c rsp a.va a.len 1
          let keep (r : List Byte) : List Byte := if commitValid r (d.reg .ckptJobId c) then r else List.replicate 128 0
          match (match sa with | some st => some st | none => sb) with
          | some st => d.complete w st 0
          | none =>
            match d.writeVa c rsp dst (keep ra ++ keep rb) with
            | (some b, _, d) => d.complete w b.1 0
            | (none, _, d) => d.complete w Status.ok 0

/-- CKPT_JOB_WRITE: CKPT_JOB_ID (`which` 0) or CKPT_JOB (1), while the learning phase is IDLE. -/
def Dev.ckptJobWrite (fn c which : Nat) (value : Word) (d : Dev) : Dev :=
  if d.ctxWritable fn c && d.get F.lrnStepStat_phase c = LrnSt.idle then
    if which = 0 then d.setReg .ckptJobId c value.toNat else d.put F.ckptJob_grp c value.toNat
  else d

/-! ### The commands -/

/-- AREA (R305). -/
def execArea (q i : Nat) (s : State) : Host.Outcome State Fault Refusal :=
  run (Instr.wf (.area q i)) (Dev.area q i) s

/-- SAVE (R312). -/
def execSave (q i : Nat) (s : State) : Host.Outcome State Fault Refusal :=
  run (Instr.wf (.save q i)) (Dev.save q i) s

/-- SAVE_WRITES_DONE (R314). -/
def execSaveWritesDone (ctx : Nat) (rsp : TierRsp) (s : State) : Host.Outcome State Fault Refusal :=
  run (Instr.wf (.saveWritesDone ctx rsp)) (Dev.saveWritesDone ctx rsp) s

/-- SAVE_OUTCOME (R315). -/
def execSaveOutcome (ctx : Nat) (rsp : TierRsp) (s : State) : Host.Outcome State Fault Refusal :=
  run (Instr.wf (.saveOutcome ctx rsp)) (Dev.saveOutcome ctx rsp) s

/-- RESTORE (R318). -/
def execRestore (q i : Nat) (rsp : TierRsp) (s : State) : Host.Outcome State Fault Refusal :=
  run (Instr.wf (.restore q i rsp)) (Dev.restore q i rsp) s

/-- COLL_OPERATION_COMPLETE (R289). -/
def execCollOperationComplete (group op : Nat) (rsp : TierRsp) (s : State) : Host.Outcome State Fault Refusal :=
  run (Instr.wf (.collOperationComplete group op rsp)) (Dev.collOperationComplete group op rsp) s

/-- QUERY (R322). -/
def execQuery (q i : Nat) (rsp : TierRsp) (s : State) : Host.Outcome State Fault Refusal :=
  run (Instr.wf (.query q i rsp)) (Dev.query q i rsp) s

/-- CKPT_JOB_WRITE (R302). -/
def execCkptJobWrite (fn ctx which : Nat) (value : Word) (s : State) : Host.Outcome State Fault Refusal :=
  run (Instr.wf (.ckptJobWrite fn ctx which value)) (Dev.ckptJobWrite fn ctx which value) s

end Sys2Proof.Machine
end

