-- ==== Sys2Proof/Machine/Power.lean ====
section
/-! DEFINITION. Power domains, wake tokens, throttle levels, current clamps, shutdown and loss of power (R402 to R410,
R442). -/

namespace Sys2Proof.Machine

/-! ### Domains (R402) -/

/-- Whether a domain is on. -/
def Dev.domOn (d : Dev) (n : Nat) : Bool := bitOf (d.reg .pwrDomOn 0 (n / 64)) (n % 64)

/-- Switch a domain on or off. -/
def Dev.setDom (d : Dev) (n : Nat) (on : Bool) : Dev :=
  d.setReg .pwrDomOn 0 (setBits (d.reg .pwrDomOn 0 (n / 64)) (n % 64) 1 (if on then 1 else 0)) (n / 64)

/-- Whether a descriptor or a watch names an update unit. -/
def Dev.unitNamed (d : Dev) (u : Nat) : Bool :=
  d.ctxs.any fun e => (e.2.upds.any fun x => x.next.any fun k => k.1 = u) || e.2.watches.any fun w => w.unit = u

/-- Whether Table 19.1 keeps a domain off whatever is requested. -/
def Dev.staysOff (d : Dev) (n : Nat) : Bool :=
  if n < 256 then decide (d.get F.coreState_state n = CoreSt.absent)
  else if n < 288 then false
  else if n < 320 then !(d.flag F.fabPortCfg_enable (n - 288) && d.flag F.fabPortStat_level_set (n - 288))
  else if n < 328 then decide (d.cfg.pkgs ≤ n - 320)
  else false

/-- The switched domain of a block that is tested (Table 19.1). -/
def testDomain (block index : Nat) : Nat :=
  (if block = 0 then 0 else if block = 1 then 256 else if block = 2 then 288 else if block = 3 then 320 else 328) + index

/-- Whether a self-test runs in a domain. -/
def Dev.domTested (d : Dev) (n : Nat) : Bool := d.tests.any fun t => t.running && testDomain t.block t.index = n

/-- Whether a domain meets its condition of Table 19.1 for being off, given that nothing has used it for IDLE_US. -/
def Dev.mayBeOff (d : Dev) (n : Nat) : Bool :=
  if n < 256 then decide (d.get F.coreState_state n ≠ CoreSt.held)
  else if n < 288 then
    !((List.range 256).any fun k => d.get F.coreState_state k = CoreSt.held) && !d.unitNamed (n - 256)
  else if n < 328 then d.staysOff n
  else decide (n < 332)

/-- DOMAIN_IDLE_OFF: a domain that meets its off conditions, with no self-test running in it, powers itself off (log entry 56). -/
def Dev.domainIdleOff (domain : Nat) (d : Dev) : Dev :=
  if d.domOn domain && d.mayBeOff domain && !d.domTested domain then d.setDom domain false else d

/-! ### Wake tokens (R406, R407) -/

/-- RATE and DEPTH in force. -/
def Dev.wakeRate (d : Dev) : Nat := min 16 (max 1 (d.get F.pwrWakeRate_rate 0))
def Dev.wakeDepth (d : Dev) : Nat := min 64 (max 1 (d.get F.pwrWakeRate_depth 0))

/-- A domain that is off takes a token at once, or joins the queue. -/
def Dev.askWake (d : Dev) (domain : Nat) : Dev :=
  if d.domOn domain || d.power.wakeQ.any (fun e => e.1 = domain) then d
  else if d.get F.pwrWakeStat_tokens 0 ≠ 0 && d.power.wakeQ.isEmpty then
    (d.dec F.pwrWakeStat_tokens 0).setDom domain true
  else
    let d := { d with power := { d.power with wakeQ := d.power.wakeQ ++ [(domain, d.ns)] } }
    d.put F.pwrWakeStat_queued 0 d.power.wakeQ.length

/-- WAKE_REQUEST: a domain that may be on asks for its power. -/
def Dev.wakeRequest (domain : Nat) (d : Dev) : Dev := if d.power.shut || d.staysOff domain then d else d.askWake domain

/-- WAKE_GRANT: the first request of the queue takes a token. -/
def Dev.wakeGrant (d : Dev) : Dev :=
  match d.power.wakeQ with
  | (n, since) :: rest =>
    if d.get F.pwrWakeStat_tokens 0 = 0 then d else
      let d := (d.dec F.pwrWakeStat_tokens 0).setDom n true
      let d := { d with power := { d.power with wakeQ := rest } }
      let d := d.put F.pwrWakeStat_queued 0 rest.length
      d.put F.pwrWakeStat_max_wait_ns 0 (max (d.get F.pwrWakeStat_max_wait_ns 0) (satAdd F.pwrWakeStat_max_wait_ns.w 0 (d.ns - since)))
  | [] => d

/-- TOKEN_REFILL: RATE tokens for each whole microsecond since the last gain, up to DEPTH. -/
def Dev.tokenRefill (d : Dev) : Dev :=
  let us := (d.ns - d.power.tokenTime) / 1000
  let n := min d.wakeDepth (d.get F.pwrWakeStat_tokens 0 + us * d.wakeRate)
  let at1 := d.power.tokenTime + us * 1000
  ({ d with power := { d.power with tokenTime := at1 } }).put F.pwrWakeStat_tokens 0 n

/-! ### Throttle levels (R408) -/

/-- A 16-bit pattern as a signed temperature, and back, in 1/8 °C. -/
def tempOf (v : Nat) : Int := (BitVec.ofNat 16 v).toInt
def tempBits (t : Int) : Nat := ((max (-32768) (min 32767 t)) % 65536).toNat

/-- 105 °C in 1/8 °C. -/
def junctionLimit : Int := 840

/-- Show a domain's effective level in its register. -/
def Dev.showLevel (d : Dev) (n : Nat) : Dev :=
  let r : Reg := if n < 256 then .pwrCoreThr else .pwrUnitThr
  let k := n % 256
  d.setReg r 0 (setBits (d.reg r 0 (k / 16)) (4 * (k % 16)) 4 (d.effLevel n)) (k / 16)

/-- The die of a core or update-unit domain, as a sensor index of PWR_TEMP. -/
def dieOf (n : Nat) : Nat := if n < 256 then n / 64 else 4 + (n - 256) / 8

/-- Record a domain's junction temperature: the hottest sensor of its die, the die's highest, the hottest of all dies. -/
def Dev.senseTemp (d : Dev) (n : Nat) (temp : Int) : Dev :=
  let d := { d with power := { d.power with temps := SMap.set d.power.temps n (tempBits temp) } }
  let hottest (k : Nat) : Option Int :=
    (d.power.temps.filter fun e => dieOf e.1 = k).foldl (fun (m : Option Int) e =>
      some (match m with | none => tempOf e.2 | some t => max t (tempOf e.2))) none
  let k := dieOf n
  let t := (hottest k).getD 0
  let d := d.put F.pwrTemp_temp 0 (tempBits t) k
  let d := d.put F.pwrTemp_max 0 (tempBits (max t (tempOf (d.get F.pwrTemp_max 0 k)))) k
  let hot := (List.range 12).foldl (fun (m : Option (Nat × Int)) j =>
    match hottest j, m with
    | some u, some (_, best) => if best < u then some (j, u) else m
    | some u, none => some (j, u)
    | none, _ => m) none
  match hot with
  | some (j, u) => (d.put F.pwrStat_hot_t 0 (tempBits u)).put F.pwrStat_hot_idx 0 j
  | none => d

/-- SELF_THROTTLE_SAMPLE: the self level rises above THR_T and falls below THR_T − 2 °C. -/
def Dev.selfThrottleSample (domain : Nat) (temp : Int) (d : Dev) : Dev :=
  if 288 ≤ domain || !d.domOn domain then d else
  let d := d.senseTemp domain temp
  let thr := min junctionLimit (tempOf (d.get F.pwrCfg_thr_t 0))
  let cur := SMap.get d.power.selfLvl 0 domain
  let lvl := if thr < temp then min 15 (cur + 1) else if temp < thr - 16 then cur - 1 else cur
  ({ d with power := { d.power with selfLvl := SMap.set d.power.selfLvl domain lvl } }).showLevel domain

/-- JUNCTION_CLAMP_STEP: at or above 105 °C the level rises by 1; below, it falls to a free level not above it. -/
def Dev.junctionClampStep (domain : Nat) (temp : Int) (d : Dev) : Dev :=
  if 288 ≤ domain || !d.domOn domain then d else
  let d := d.senseTemp domain temp
  let cur := SMap.get d.power.junction 0 domain
  let (lvl, d) := if junctionLimit ≤ temp then (min 15 (cur + 1), d) else
    let (v, d) := d.freeVal
    (v.toNat % (cur + 1), d)
  ({ d with power := { d.power with junction := SMap.set d.power.junction domain lvl } }).showLevel domain

/-- PACKAGE_FLOOR_SAMPLE: the floor rises while the package draws more than the clamp, and falls after 100 µs below 95 % of
it. -/
def Dev.packageFloorSample (watts : Nat) (d : Dev) : Dev :=
  if d.power.shut then d else
  let d := d.put F.pwrStat_pkg_w 0 (min 65535 watts)
  let clamp := min (d.get F.pwrLimit_max_w 0) (d.get F.pwrLimit_target_w 0)
  let fl := d.get F.pwrLimit_floor 0
  let below : Bool := decide (watts * 100 < 95 * clamp)
  let since := d.power.belowSince.getD d.ns
  let due : Bool := below && decide (since + 100000 ≤ d.ns)
  let fl := if clamp < watts then min 15 (fl + 1) else if due then fl - 1 else fl
  let mark : Option Nat := if !below then none else if due then some d.ns else some since
  let d := { d with power := { d.power with belowSince := mark } }
  (d.put F.pwrLimit_floor 0 fl).each (List.range 288) fun n d => d.showLevel n

/-! ### Current clamps (R409) -/

/-- The limit of a clamped rail in mA: VDD_CORE 600 A, VDD_DRAM 70 A. -/
def railLimit (rail : Nat) : Nat := if rail < 4 then 600000 else 70000

/-- CURRENT_CLAMP: a clamped rail exceeds its limit. -/
def Dev.currentClamp (rail milliamps : Nat) (d : Dev) : Dev :=
  if rail < 8 && railLimit rail < milliamps && !d.power.shut && !d.power.clamped.contains rail then
    ({ d with power := { d.power with clamped := rail :: d.power.clamped } }).incSat F.pwrStat_clamps 0
  else d

/-- CURRENT_CLAMP_RELEASE: the rail's current is below its limit again. -/
def Dev.currentClampRelease (rail : Nat) (d : Dev) : Dev :=
  { d with power := { d.power with clamped := d.power.clamped.filter fun r => r ≠ rail } }

/-! ### Shutdown and loss of power (R410, R442) -/

/-- The blocks whose power no domain switches (R402). -/
def alwaysOn (b : Block) : Bool :=
  match b with
  | .glb => true
  | .sec => true
  | .mbx => true
  | .pwr => true
  | .time => true
  | _ => false

/-- Every context, core, queue, port and group is lost. -/
def Dev.loseAll (d : Dev) : Dev :=
  let gone := Reg.all.filter fun r => !alwaysOn (regSpec r).block && Dom.within (regSpec r).dom .warm
  { d with regs := d.regs.keep fun n _ => !(gone.any fun r => r.ctorIdx = n),
           ctxs := [], cores := [], queues := [], rings := [], sets := [], groups := [], ports := [], units := [],
           tests := [], shares := [], cutEdges := [], sends := [], treeEdges := [] }

/-- THERMAL_SHUTDOWN: all domains lose power, THERMTRIP_N asserts, PWR_SHUT records the die. -/
def Dev.thermalShutdown (die : Nat) (d : Dev) : Dev :=
  if d.power.shut then d else
  let d := d.loseAll
  let d := d.each (List.range 6) fun j d => d.setReg .pwrDomOn 0 0 j
  let d := { d with power := { d.power with shut := true, wakeQ := [] }, linkStarted := false }
  let d := (d.put F.pwrWakeStat_queued 0 0).setReg .pwrShut 0 (1 + die * 2 ^ 8)
  let d := (d.put F.hostStat_state 0 0).put F.hostStat_ide 0 0
  d.emit (.pin "THERMTRIP_N" 0)

/-- The device held in a cold device reset: everything at its reset value but what the power-up domain keeps; the host's
memory, the pool behind the base note and the record of what left the device are not the device's. -/
def Dev.heldInReset (d : Dev) (keep : Bool) : Dev :=
  let shut := d.reg .pwrShut 0
  let d0 := Dev.init d.cfg
  let sec0 : Sec := { Sec.init with randReqs := d.sec.randReqs }
  let mem0 : Mem := { Mem.init with host := d.mem.host, base := d.mem.base, unitKey := d.mem.unitKey }
  let d0 := { d0 with freeIdx := d.freeIdx, out := d.out, sec := sec0, mem := mem0 }
  if keep then d0.setReg .pwrShut 0 shut else d0

/-- RAIL_MONITOR_TRIP: rails 0–3 VDD_CORE, 4–7 VDD_DRAM, 8–9 VDD_FAB, 10–11 VDDA_FAB, 12 VDD_HM, 13 VDDQ_LP, 14 VDD_AON,
15 VDDIO. A fall of VDD_AON is a loss of power and not this event. -/
def Dev.railMonitorTrip (rail : Nat) (d : Dev) : Dev := if rail = 14 then d else d.heldInReset true

/-- RESET_PIN_ASSERT. -/
def Dev.resetPinAssert (d : Dev) : Dev := d.heldInReset true

/-- POWER_LOSS: VDD_AON falls. -/
def Dev.powerLoss (d : Dev) : Dev := d.heldInReset false

/-! ### The commands -/

/-- WAKE_REQUEST (R406). -/
def execWakeRequest (domain : Nat) (s : State) : Host.Outcome State Fault Refusal :=
  run (Instr.wf (.wakeRequest domain)) (Dev.wakeRequest domain) s

/-- WAKE_GRANT (R407). -/
def execWakeGrant (s : State) : Host.Outcome State Fault Refusal :=
  run (Instr.wf (.wakeGrant)) Dev.wakeGrant s

/-- TOKEN_REFILL (R406). -/
def execTokenRefill (s : State) : Host.Outcome State Fault Refusal :=
  run (Instr.wf (.tokenRefill)) Dev.tokenRefill s

/-- DOMAIN_IDLE_OFF (R402). -/
def execDomainIdleOff (domain : Nat) (s : State) : Host.Outcome State Fault Refusal :=
  run (Instr.wf (.domainIdleOff domain)) (Dev.domainIdleOff domain) s

/-- SELF_THROTTLE_SAMPLE (R408). -/
def execSelfThrottleSample (domain : Nat) (temp : Int) (s : State) : Host.Outcome State Fault Refusal :=
  run (Instr.wf (.selfThrottleSample domain temp)) (Dev.selfThrottleSample domain temp) s

/-- JUNCTION_CLAMP_STEP (R408). -/
def execJunctionClampStep (domain : Nat) (temp : Int) (s : State) : Host.Outcome State Fault Refusal :=
  run (Instr.wf (.junctionClampStep domain temp)) (Dev.junctionClampStep domain temp) s

/-- PACKAGE_FLOOR_SAMPLE (R408). -/
def execPackageFloorSample (watts : Nat) (s : State) : Host.Outcome State Fault Refusal :=
  run (Instr.wf (.packageFloorSample watts)) (Dev.packageFloorSample watts) s

/-- CURRENT_CLAMP (R409). -/
def execCurrentClamp (rail milliamps : Nat) (s : State) : Host.Outcome State Fault Refusal :=
  run (Instr.wf (.currentClamp rail milliamps)) (Dev.currentClamp rail milliamps) s

/-- CURRENT_CLAMP_RELEASE (R409). -/
def execCurrentClampRelease (rail : Nat) (s : State) : Host.Outcome State Fault Refusal :=
  run (Instr.wf (.currentClampRelease rail)) (Dev.currentClampRelease rail) s

/-- THERMAL_SHUTDOWN (R410). -/
def execThermalShutdown (die : Nat) (s : State) : Host.Outcome State Fault Refusal :=
  run (Instr.wf (.thermalShutdown die)) (Dev.thermalShutdown die) s

/-- RAIL_MONITOR_TRIP (R442). -/
def execRailMonitorTrip (rail : Nat) (s : State) : Host.Outcome State Fault Refusal :=
  run (Instr.wf (.railMonitorTrip rail)) (Dev.railMonitorTrip rail) s

/-- POWER_LOSS (R8). -/
def execPowerLoss (s : State) : Host.Outcome State Fault Refusal :=
  run (Instr.wf (.powerLoss)) Dev.powerLoss s

/-- RESET_PIN_ASSERT (R442). -/
def execResetPinAssert (s : State) : Host.Outcome State Fault Refusal :=
  run (Instr.wf (.resetPinAssert)) Dev.resetPinAssert s

end Sys2Proof.Machine
end

