-- ==== Sys2Proof/Machine/TimeRef.lean ====
section
/-! DEFINITION. The time reference: beacons, time states, adjustments, the time pins, reads of device time (R413 to
R421, R434). -/

namespace Sys2Proof.Machine

/-! The states of TIME_STAT (Table 19.3). -/

namespace TimeSt
def free : Nat := 0
def acquire : Nat := 1
def locked : Nat := 2
def holdover : Nat := 3
def master : Nat := 4
end TimeSt

/-- The time state. -/
def Dev.timeState (d : Dev) : Nat := d.get F.timeStat_state 0

/-- One microsecond in units of 2^-16 ns. -/
def usUnits : Nat := 1000 * 65536

/-- A signed number as a 64-bit pattern. -/
def signed64 (v : Int) : Nat := (v % (2 ^ 64 : Int)).toNat

/-- Trim the rate against an offset, within 200 ppm (13 units of 65,536); the amount is free (R415). -/
def Dev.trimRate (d : Dev) (off : Int) : Dev :=
  if off = 0 then d else
    let (v, d) := d.freeVal
    let k := v.toNat % 14
    { d with time := { d.time with rate := if 0 < off then 65536 - k else 65536 + k } }

/-- Correct an offset from a reference time, both in units of 2^-16 ns (R415, R417): above 1 µs a clock that is behind steps
forward, and one that is ahead counts at half rate until the offset is absorbed. -/
def Dev.correct (d : Dev) (ref : Nat) : Dev :=
  let off : Int := (d.time.now : Int) - (ref : Int)
  if (usUnits : Int) < off then { d with time := { d.time with absorb := off.toNat } }
  else if off < -(usUnits : Int) then { d with time := { d.time with now := ref % 2 ^ 80, absorb := 0 } }
  else d.trimRate off

/-! ### Beacons (R415 to R418) -/

/-- BEACON_SEND: a master sends its time on each UP port, with HOP 0. -/
def Dev.beaconSend (d : Dev) : Dev :=
  if d.timeState = TimeSt.master then
    let msg : FlitMsg := .beacon d.ownRank 0 d.time.now
    d.each (List.range 32) fun p d => d.sendCtrl p msg
  else d

/-- The port that a follower takes beacons from, with what its latest beacon held: the lowest master's rank, then the
lowest HOP, then the lowest port number. -/
def selectedBeacon (bs : SMap (Nat × Nat × Nat)) : Option (Nat × Nat × Nat × Nat) :=
  bs.foldl (fun (m : Option (Nat × Nat × Nat × Nat)) e =>
    match m with
    | none => some e
    | some b => if e.2.2.1 < b.2.2.1 || (e.2.2.1 = b.2.2.1 && e.2.1 < b.2.1) then some e else some b) none

/-- The time state after a selected beacon, by its offset in units of 2^-16 ns (Table 19.3). -/
def Dev.timeAdvance (d : Dev) (off : Int) : Dev :=
  let inside : Bool := decide (-65536 < off) && decide (off < 65536)
  let beyond : Bool := decide (65536 < off) || decide (off < -65536)
  let st := d.timeState
  if st = TimeSt.free || st = TimeSt.holdover then
    let d := { d with time := { d.time with inRun := 0, outRun := 0 } }
    d.put F.timeStat_state 0 TimeSt.acquire
  else
    let t := { d.time with inRun := if inside then d.time.inRun + 1 else 0, outRun := if beyond then d.time.outRun + 1 else 0 }
    if st = TimeSt.acquire && 16 ≤ t.inRun then
      ({ d with time := { t with inRun := 0, outRun := 0 } }).put F.timeStat_state 0 TimeSt.locked
    else if st = TimeSt.locked && 16 ≤ t.outRun then
      ({ d with time := { t with inRun := 0, outRun := 0 } }).put F.timeStat_state 0 TimeSt.acquire
    else { d with time := t }

/-- A follower acts on a beacon of the selected port: it forwards the beacon, corrects its time and moves its state. -/
def Dev.takeBeacon (d : Dev) (port rank hop time : Nat) : Dev :=
  let ref := time + SMap.get d.time.delays 0 port * 65536 / 1000
  let off : Int := (d.time.now : Int) - (ref : Int)
  let d := ((d.put F.timeStat_hop 0 hop).put F.timeStat_mrank 0 rank).setReg .timeOfs 0 (signed64 (off * 1000 / 65536))
  let d := (d.correct ref).timeAdvance off
  let msg : FlitMsg := .beacon rank (hop + 1) d.time.now
  d.each ((List.range 32).filter fun p => p ≠ port) fun p d => d.sendCtrl p msg

/-- BEACON_RECEIVE: a master notices a lower rank; a follower remembers the beacon, and acts on it when its port is the
selected one. Beacons with HOP above 7 are discarded. -/
def Dev.beaconReceive (port rank hop time : Nat) (d : Dev) : Dev :=
  if !d.portIsUp port || 7 < hop then d
  else if d.timeState = TimeSt.master then
    if rank < d.ownRank then d.put F.timeStat_conflict 0 1 else d
  else
    let kept := d.time.beacons.filter fun e => d.ns - e.2.2.2 ≤ 100000
    let bs := SMap.set kept port (hop, rank, d.ns)
    let d := { d with time := { d.time with beacons := bs } }
    if (selectedBeacon bs).map (·.1) = some port then d.takeBeacon port rank hop time else d

/-- LINK_DELAY_MEASURE: the link delay of a port, to 10 ps. -/
def Dev.linkDelayMeasure (port delayPs : Nat) (d : Dev) : Dev :=
  if d.portIsUp port then
    { d with time := { d.time with delays := SMap.set d.time.delays port ((delayPs + 5) / 10 * 10) } }
  else d

/-- HOLDOVER: no selected beacon for 100 µs; the rate stays. -/
def Dev.holdover (d : Dev) : Dev :=
  let quiet : Bool := match selectedBeacon d.time.beacons with
    | some (_, _, _, t) => t + 100000 ≤ d.ns
    | none => true
  if (d.timeState = TimeSt.acquire || d.timeState = TimeSt.locked) && quiet then
    let kept := d.time.beacons.filter fun e => d.ns < e.2.2.2 + 100000
    ({ d with time := { d.time with beacons := kept } }).put F.timeStat_state 0 TimeSt.holdover
  else d

/-! ### Adjustments (R419, R420) -/

/-- Step forward by, or absorb, a signed number of nanoseconds (R419). -/
def Dev.adjust (d : Dev) (v : Word) : Dev :=
  let n : Int := v.toInt
  if 0 ≤ n then { d with time := { d.time with now := (d.time.now + n.toNat * 65536) % 2 ^ 80 } }
  else { d with time := { d.time with absorb := d.time.absorb + (-n).toNat * 65536 } }

/-- TIME_ADJ: tenant 0 adjusts a master; a write on a follower is ignored. -/
def Dev.timeAdj (fn : Nat) (value : Word) (d : Dev) : Dev :=
  if fn = 0 && d.barOpen && d.timeState = TimeSt.master then d.adjust value else d

/-- TSYNC_IN_EDGE: a master with SRC 1 aligns to the edge's time in nanoseconds. -/
def Dev.tsyncInEdge (time : Nat) (d : Dev) : Dev :=
  if d.timeState = TimeSt.master && d.flag F.timeCfg_tsync_src 0 then
    let d := d.correct (time * 65536)
    { d with time := { d.time with lastTsync := d.ns } }
  else d

/-! ### The time pins (R420) -/

/-- PPS_OUT is high for 10 ms from each whole second. -/
def Dev.ppsOut (d : Dev) : Bool := d.flag F.timeCfg_pps_en 0 && decide (d.ns % 10 ^ 9 < 10 ^ 7)

/-- REF10M_OUT rises at each multiple of 100 ns. -/
def Dev.ref10mOut (d : Dev) : Bool := d.flag F.timeCfg_ref_en 0 && decide (d.ns % 100 < 50)

/-- THERMTRIP_N is asserted from a shutdown until VDD_AON is lost (R410, Table 22.5). -/
def Dev.thermtrip (d : Dev) : Bool := d.flag F.pwrShut_valid 0

/-- WHOLE_SECOND: within 1 ns of a whole second PPS_OUT rises, and TSYNC_OUT sends the edge and the time of that edge. -/
def Dev.wholeSecond (d : Dev) : Dev :=
  let r := (d.ns + 1) % 10 ^ 9
  if r ≤ 2 then
    let sec := d.ns + 1 - r
    let d := if d.flag F.timeCfg_pps_en 0 then d.emit (.pin "PPS_OUT" 1) else d
    if d.flag F.timeCfg_tsync_en 0 then d.emit (.pin "TSYNC_OUT" sec) else d
  else d

/-! ### Reads (R413, R421, R434) -/

/-- TIME_NOW_READ: `half` is `none` for a 64-bit read, else whether the 32-bit read is of the upper half. Before the IDE
streams stand, the read returns 0 and samples nothing (R343). -/
def Dev.timeNowRead (fn : Nat) (half : Option Bool) (d : Dev) : Dev :=
  let n := if half.isSome then 4 else 8
  if !d.barOpen then d.emit (.readData fn (leBytes n 0) true) else
  let frac := SMap.set d.time.fracLatch fn (d.time.now % 65536)
  match half with
  | none => ({ d with time := { d.time with fracLatch := frac } }).emit (.readData fn (leBytes 8 d.ns) true)
  | some false =>
    let high := SMap.set d.time.highLatch fn (d.ns / 2 ^ 32)
    ({ d with time := { d.time with fracLatch := frac, highLatch := high } }).emit (.readData fn (leBytes 4 d.ns) true)
  | some true => d.emit (.readData fn (leBytes 4 (SMap.get d.time.highLatch 0 fn)) true)

/-- TIME_HOST_IN_READ: the time of arrival; the completion leaves `departNs` later, and its time is latched as
TIME_HOST_OUT. A 32-bit read returns 0 and samples nothing. -/
def Dev.timeHostInRead (fn : Nat) (wide : Bool) (departNs : Nat) (d : Dev) : Dev :=
  if !wide then d.emit (.readData fn (leBytes 4 0) true)
  else if !d.barOpen then d.emit (.readData fn (leBytes 8 0) true)
  else
    let inL := SMap.set d.time.inLatch fn d.ns
    let outL := SMap.set d.time.outLatch fn ((d.ns + departNs) % 2 ^ 64)
    ({ d with time := { d.time with inLatch := inL, outLatch := outL } }).emit (.readData fn (leBytes 8 d.ns) true)

/-! ### The commands -/

/-- BEACON_SEND (R415). -/
def execBeaconSend (s : State) : Host.Outcome State Fault Refusal :=
  run (Instr.wf (.beaconSend)) Dev.beaconSend s

/-- BEACON_RECEIVE (R415). -/
def execBeaconReceive (port rank hop time : Nat) (s : State) : Host.Outcome State Fault Refusal :=
  run (Instr.wf (.beaconReceive port rank hop time)) (Dev.beaconReceive port rank hop time) s

/-- LINK_DELAY_MEASURE (R415). -/
def execLinkDelayMeasure (port delayPs : Nat) (s : State) : Host.Outcome State Fault Refusal :=
  run (Instr.wf (.linkDelayMeasure port delayPs)) (Dev.linkDelayMeasure port delayPs) s

/-- HOLDOVER (R417). -/
def execHoldover (s : State) : Host.Outcome State Fault Refusal :=
  run (Instr.wf (.holdover)) Dev.holdover s

/-- TIME_ADJ (R419). -/
def execTimeAdj (fn : Nat) (value : Word) (s : State) : Host.Outcome State Fault Refusal :=
  run (Instr.wf (.timeAdj fn value)) (Dev.timeAdj fn value) s

/-- TSYNC_IN_EDGE (R420). -/
def execTsyncInEdge (time : Nat) (s : State) : Host.Outcome State Fault Refusal :=
  run (Instr.wf (.tsyncInEdge time)) (Dev.tsyncInEdge time) s

/-- WHOLE_SECOND (R420). -/
def execWholeSecond (s : State) : Host.Outcome State Fault Refusal :=
  run (Instr.wf (.wholeSecond)) Dev.wholeSecond s

/-- TIME_NOW_READ (R413). -/
def execTimeNowRead (fn : Nat) (half : Option Bool) (s : State) : Host.Outcome State Fault Refusal :=
  run (Instr.wf (.timeNowRead fn half)) (Dev.timeNowRead fn half) s

/-- TIME_HOST_IN_READ (R421). -/
def execTimeHostInRead (fn : Nat) (wide : Bool) (departNs : Nat) (s : State) : Host.Outcome State Fault Refusal :=
  run (Instr.wf (.timeHostInRead fn wide departNs)) (Dev.timeHostInRead fn wide departNs) s

end Sys2Proof.Machine
end

