-- ==== Sys2Proof/Machine/Links.lean ====
section
/-! DEFINITION. Fabric ports: training, retraining, the end of a port, flits that arrive, replay, keys, recalibration
(R273 to R281, R298, R300, R378, R379, R425). -/

namespace Sys2Proof.Machine

/-! ### A port ends (R298, R212) -/

/-- Abort the operations of an ABORT-mode group whose tree or route, as fixed at their issue, uses a port. -/
def Dev.portAborts (d : Dev) (p g : Nat) : Dev :=
  if d.flag F.fabGrpCfg_valid g && d.get F.fabGrpCfg_mode g = 0 then
    let hit := (d.group g).ops.filter fun o => o.issued.isSome && o.ports.contains p
    d.each (hit.map (·.num)) fun num d =>
      if ((d.group g).op num).isSome then d.abortOp g num (d.groupRank g) 3 else d
  else d

/-- The publishes in progress here that have left by a port: group, set tag, epoch. -/
def Dev.publishesOver (d : Dev) (p : Nat) : List (Nat × Nat × Nat) :=
  ((d.treeEdges.filter fun e => e.2.2.2 = p && d.publishing e.1 e.2.1 e.2.2.1).map fun e => (e.1, e.2.1, e.2.2.1)).eraseDups

/-- The transfers whose remote writes wait at a port: core, and path. -/
def Dev.jobsOver (d : Dev) (p : Nat) : List (Nat × Nat) := ((d.port p).egress.filterMap (·.job)).eraseDups

/-- The remote transfer of a path that meets a bus error, at the address of its first line that the peer has not acknowledged (R298). -/
def Dev.jobError (d : Dev) (k path : Nat) : Dev :=
  match (d.core k).xfers.find? fun x => x.path = path && x.sent && x.ended.isNone with
  | some x =>
    let r := XRec.of x.record
    match x.lines.head? with
    | some l => d.busError k x (r.dst + l * r.dstride)
    | none => d
  | none => d

/-- A port goes DOWN: its queued flits, its replay buffer and its keys are gone; remote writes among the flits meet a bus error, operations
of ABORT-mode groups over it abort, and the edges of publishes over it are detached. -/
def Dev.portFall (d : Dev) (p : Nat) : Dev :=
  let cut := d.publishesOver p
  let jobs := d.jobsOver p
  let d := d.put F.fabPortStat_state p portDown
  let d := d.modPort p fun x => { Port.init with topoRank := x.topoRank, level := x.level }
  let d := (d.countPool (p / 16)).each jobs fun j d => d.jobError j.1 j.2
  let d := d.each cut fun e d => d.detachEdge e.1 e.2.1 e.2.2 p
  d.each (List.range 64) fun g d => d.portAborts p g

/-- PORT_DOWN. -/
def Dev.portDown (p : Nat) (d : Dev) : Dev := if d.get F.fabPortStat_state p = 0 then d else d.portFall p

/-- A port in service starts a retrain: it carries no traffic until it reaches UP again. -/
def Dev.retrain (d : Dev) (p : Nat) : Dev :=
  let d := (d.put F.fabPortStat_state p portTrain).incSat F.fabPortStat_retrains p
  d.modPort p fun x => { x with retrainAt := some d.ns, replayRun := (0, 0) }

/-- LANE_FAIL. -/
def Dev.laneFail (p : Nat) (d : Dev) : Dev := if d.portIsUp p then d.retrain p else d

/-- RETRAIN_TIMEOUT: a retrain has not reached UP within 200 µs. -/
def Dev.retrainTimeout (p : Nat) (d : Dev) : Dev :=
  match (d.port p).retrainAt with
  | some t => if d.get F.fabPortStat_state p = portTrain && t + 200000 < d.ns then d.portFall p else d
  | none => d

/-! ### Training and keys (R273, R276, R280, R378, R379) -/

/-- The exchange as this end takes it: the rank that the peer sent, or nothing where the exchange fails. Without noise none
succeeds (R368), and PEER_MATCH asks for equal measurements. -/
def Dev.exchange (d : Dev) (kx : KeyExchange) : Option Nat :=
  match kx with
  | .ok r same => if d.flag F.secStat_noise_fail 0 || d.flag F.secStat_cert_fail 0 || (d.flag F.secCtl_peer_match 0 && !same) then none else some r
  | .failed => none

/-- The width to which working lanes train: 0 x4 on all four; 1 x2 on lanes 0-1 or 2-3; 2 x1 on the lowest working lane; none without one. -/
def laneWidth (lanes : BitVec 4) : Option Nat :=
  if lanes = 15#4 then some 0
  else if lanes &&& 3#4 = 3#4 || lanes &&& 12#4 = 12#4 then some 1
  else if lanes = 0#4 then none else some 2

/-- The width of working lanes within WIDTH_MAX. -/
def Dev.widthAllowed (d : Dev) (p : Nat) (lanes : BitVec 4) : Option Nat :=
  (laneWidth lanes).map fun w => max w (d.get F.fabPortCfg_width_max p % 3)

/-- PORT_TRAINING: a port that is enabled, powered and has a named peer trains on the lanes that work at both ends; where none does it does
not train. A retrain keeps its keys, which last until the port goes DOWN; any other training runs the exchange. -/
def Dev.portTraining (p : Nat) (lanes : BitVec 4) (kx : KeyExchange) (d : Dev) : Dev :=
  if d.portIsUp p || !d.flag F.fabPortCfg_enable p || !d.flag F.fabPortStat_level_set p || !d.domOn (288 + p) then d
  else match d.widthAllowed p lanes with
  | none => d
  | some w =>
    if (d.port p).retrainAt.isSome && d.get F.fabPortStat_state p = portTrain then
      let d := d.modPort p fun x => { x with retrainAt := none }
      (d.put F.fabPortStat_width p w).put F.fabPortStat_state p portUp
    else match d.exchange kx with
      | none => (d.portFall p).logEvent 0x11 p
      | some r =>
        let d := d.put F.fabPortStat_peer p r
        if r ≠ (d.port p).topoRank then d.put F.fabPortStat_state p portMiswired else
          let d := d.modPort p fun x => { Port.init with topoRank := x.topoRank, level := x.level }
          (d.put F.fabPortStat_width p w).put F.fabPortStat_state p portUp

/-- Flits that a key may carry before the device replaces it, and at most. -/
def rekeyAfter : Nat := 2 ^ 39
def keyLimit : Nat := 2 ^ 40

/-- The directions (0 out, 1 in) of a port whose key has carried some number of flits. -/
def Dev.worn (d : Dev) (p n : Nat) : List Nat := [0, 1].filter fun k => n ≤ SMap.get (d.port p).keyCount 0 k

/-- A fresh exchange for some directions: the next key index, or a retry 100 ms later. -/
def Dev.newKeys (d : Dev) (p : Nat) (dirs : List Nat) (kx : KeyExchange) : Dev :=
  if d.exchange kx = some (d.port p).topoRank then
    d.modPort p fun x =>
      { x with rekeyAt := none,
               keyIndex := dirs.foldl (fun m k => SMap.set m k ((SMap.get x.keyIndex 0 k + 1) % 2 ^ 32)) x.keyIndex,
               keyCount := dirs.foldl (fun m k => SMap.set m k 0) x.keyCount }
  else d.modPort p fun x => { x with rekeyAt := some d.ns }

/-- REKEY. -/
def Dev.rekey (p dir : Nat) (kx : KeyExchange) (d : Dev) : Dev :=
  if d.portIsUp p && (d.worn p rekeyAfter).contains dir && (d.port p).rekeyAt.isNone then d.newKeys p [dir] kx else d

/-- REKEY_RETRY. -/
def Dev.rekeyRetry (p : Nat) (kx : KeyExchange) (d : Dev) : Dev :=
  match (d.port p).rekeyAt with
  | some t => if d.portIsUp p && t + 10 ^ 8 ≤ d.ns then d.newKeys p (d.worn p rekeyAfter) kx else d
  | none => d

/-- KEY_LIMIT_REACHED. -/
def Dev.keyLimitReached (p : Nat) (d : Dev) : Dev :=
  if d.portIsUp p && !(d.worn p keyLimit).isEmpty then d.portFall p else d

/-! ### Replay (R275) -/

/-- Whether sequence number `a` stands at or before `b`. -/
def seqLe (a b : Nat) : Bool := decide ((b + 2 ^ 32 - a) % 2 ^ 32 < 2 ^ 31)

/-- REPLAY_REQUEST: the flits from the missing SEQ are sent again in order; the 16th time in a row the port retrains. -/
def Dev.replayRequest (p seq : Nat) (d : Dev) : Dev :=
  if !d.portIsUp p then d else
    let x := d.port p
    let run := if x.replayRun.2 ≠ 0 && x.replayRun.1 = seq then x.replayRun.2 + 1 else 1
    let again := x.replay.filter fun s => seqLe seq s.seq
    let d := d.setPort p { x with replayRun := (seq, run) }
    let d := d.incMod F.fabPortFlits_tx p again.length
    let d := d.each again fun s d => d.emit (.replayed p s)
    if 16 ≤ run then d.retrain p else d

/-- Ask the peer to replay from the first missing SEQ. -/
def Dev.askReplay (d : Dev) (p : Nat) : Dev :=
  (d.incSat F.fabPortErr_replays p).sendCtrl p (.replay (d.port p).rxSeq)

/-! ### Flits (R274, R275, R276) -/

/-- The fabric rank of a message's source, where the message names it. -/
def Dev.sourceOf (d : Dev) (g : Nat) (m : FlitMsg) : Option Nat :=
  match m with
  | .acc f => (d.member g f.srcRank).map (·.1)
  | .collUp _ _ _ r _ => some r
  | .collDown _ _ _ r _ => some r
  | .join r _ => some r
  | .abort _ r _ => (d.member g r).map (·.1)
  | .collDetach _ r => some r
  | _ => none

/-- A flit for this device takes its effect. -/
def Dev.deliver (d : Dev) (p g : Nat) (m : FlitMsg) : Dev :=
  match m with
  | .acc f => d.accordFlitArrive p f
  | .collUp num sig k r ws => d.collUpArrive g num sig k r ws
  | .collDown num sig k r bs => d.collDownArrive g num sig k r bs
  | .dmaWrite g r tag a bs => d.remoteWriteArrive g r tag a bs []
  | .dmaAck _ _ tag st => d.dmaAckArrive tag st
  | .join r dg => d.joinReceive g r dg
  | .abort num r cause => d.abortReceive g num r cause
  | .collDetach num _ => d.collDetachArrive g num
  | .beacon r hop t => d.beaconReceive p r hop t
  | .replay s => d.replayRequest p s
  | .prefillAsk c pool rank home seq tpg ppg prompt => d.prefillAsked c pool rank home seq tpg ppg prompt
  | .prefillNo c seq => d.remotePrefillRefused c seq
  | .prefillStop c seq rank home => d.prefillStopped c seq rank home
  | .kvPage c seq page header data => d.kvPageArrive c seq page header data
  | .kvAck c seq page => d.kvAckArrive c seq page
  | .kvDone c seq => d.kvDoneArrive c seq
  | .other => d

/-- Whether a message concerns the link itself and never travels on. -/
def linkOwn (m : FlitMsg) : Bool :=
  match m with
  | .beacon .. => true
  | .replay _ => true
  | _ => false

/-- A flit that passes through leaves by a port, one link further, from the buffer of its kind: a DMA flit from the inbound buffer that its
port keeps for its HOP (R281). -/
def Dev.passOn (d : Dev) (from_ hop dst g p : Nat) (m : FlitMsg) : Dev :=
  let owner := if classOf m = 1 then BufOwner.dmaIn from_ hop else ownerOf m p g
  d.enqueue p { flitsOf p dst g m 0 with hop := hop + 1, owner := owner }

/-- Forward a flit of a group's multicast to the members whose routes from its source pass through this device: by each port once, and not
by an edge that is detached. -/
def Dev.copyOn (d : Dev) (from_ hop g src : Nat) (m : FlitMsg) : Dev :=
  let ports := ((d.beyond g src).filterMap d.routePort).eraseDups.filter fun p =>
    match m with
    | .acc f => !d.cutEdges.contains (g, f.gset, f.epoch, p)
    | .collDown num .. => !((d.group g).ops.any fun o => o.num = num && o.cut.contains p)
    | _ => true
  d.each ports fun p d =>
    let d := d.passOn from_ hop 0xFFFF g p m
    match m with
    | .acc f => if f.kind = 2 then d else d.noteEdge f p
    | _ => d

/-- A flit in order: deliver it here, send it on toward DST, or both along the group's tree. An Accord flit says what its payload says. -/
def Dev.route (d : Dev) (p : Nat) (f : Flit) : Dev :=
  let g := fieldAt f.bytes 225 1
  let dst := fieldAt f.bytes 226 2
  let hop := bitsOf (fieldAt f.bytes 224 1) 2 3
  let msg := match f.msg with | .acc _ => FlitMsg.acc (accOf f.plain) | m => m
  if linkOwn msg || dst = d.ownRank then d.deliver p g msg
  else if dst = 0xFFFF then
    if 64 ≤ g then d else
      let me : Bool := (d.group g).table.any fun m => m.1 = d.ownRank
      let d1 := if hop < 7 then (match d.sourceOf g msg with | some s => d.copyOn p hop g s msg | none => d) else d
      if me then d1.deliver p g msg else d1
  else if hop < 7 then
    match d.routePort dst with
    | some q => d.passOn p hop dst g q msg
    | none => d
  else d

/-- Count the codewords of the Reed-Solomon code that a flit's lanes decoded, each with the number of its symbols in error: up to 15 are
corrected (R272). -/
def Dev.countCodewords (d : Dev) (p : Nat) (symbols : List Nat) : Dev :=
  d.each (symbols.filter (0 < ·)) fun n d => if n ≤ 15 then d.incSat F.fabPortFec_corrected p else d.incSat F.fabPortFec_uncorr p

/-- Whether a flit's framing is as Table 13.1 has it: the reserved bits 0, and DIR 0 but for collectives. -/
def framingOk (bs : List Byte) : Bool :=
  let b := fieldAt bs 224 1
  bs.length = 256 && bitsOf b 6 2 = 0 && (bitsOf b 0 2 = 2 || !bitOf b 5)

/-- FLIT_RECEIVE: the lanes' codewords are counted; a flit with a wrong CRC or framing, or out of order, is dropped and its replay asked for; a
wrong tag ends the port. One in order frees what its ACK covers, and goes its way. -/
def Dev.flitReceive (p : Nat) (f : Flit) (symbols : List Nat) (d : Dev) : Dev :=
  if !d.portIsUp p then d else
    let d := (d.countCodewords p symbols).incMod F.fabPortFlits_rx p
    if !framingOk f.bytes || crc32c (f.bytes.take 252) ≠ fieldAt f.bytes 252 4 then (d.incSat F.fabPortErr_crc p).askReplay p
    else if fieldAt f.bytes 228 4 ≠ (d.port p).rxSeq then d.askReplay p
    else if !f.tagOk then ((d.incSat F.fabPortErr_tag p).logEvent 0x10 p).portFall p
    else
      let ack := fieldAt f.bytes 232 4
      let d := d.modPort p fun x =>
        { x with rxSeq := (x.rxSeq + 1) % 2 ^ 32, replay := x.replay.filter fun s => !seqLe s.seq ack,
                 keyCount := SMap.set x.keyCount 1 (SMap.get x.keyCount 0 1 + 1) }
      if bitsOf (fieldAt f.bytes 224 1) 0 2 = classOf f.msg then d.route p f else d

/-! ### Recalibration (R300, R425) -/

/-- RECAL: tenant 0 asks for it. -/
def Dev.recal (fn p : Nat) (d : Dev) : Dev := if fn = 0 && d.served then d.put F.fabPortCfg_recal p 1 else d

/-- The groups that route over a port. -/
def Dev.groupsOver (d : Dev) (p : Nat) : List Nat :=
  (List.range 64).filter fun g => d.flag F.fabGrpCfg_valid g && (d.peersOf g).any fun r => d.routePort r = some p

/-- RECAL_START: every context whose groups route over the port is at a full stop, and no operation of these groups is in
flight. -/
def Dev.recalStart (p : Nat) (d : Dev) : Dev :=
  let quiet := (d.groupsOver p).all fun g =>
    let c := d.get F.fabGrpCfg_ctx g
    (d.coresOf c).all d.coreStopped && !((d.group g).ops.any fun o => o.issued.isSome) && (d.ctx c).ckpt.isNone
  if d.flag F.fabPortCfg_recal p && d.portIsUp p && !(d.port p).recal && quiet then d.modPort p fun x => { x with recal := true }
  else d

/-- RECAL_COMPLETE. -/
def Dev.recalComplete (p : Nat) (lanes : BitVec 4) (d : Dev) : Dev :=
  if (d.port p).recal then
    let d := (d.modPort p fun x => { x with recal := false }).put F.fabPortCfg_recal p 0
    match d.widthAllowed p lanes with
    | some w => d.put F.fabPortStat_width p w
    | none => d.portFall p
  else d

/-! ### Time (R272, R277, log entry 13) -/

/-- One time-base cycle of the device: the tick, what leaves by the ports in it, the shares that reach or leave their caps, and the SENDs that
go on. -/
def Dev.idle (d : Dev) : Dev :=
  ((d.tick.each (List.range 32) fun p d => d.drainPort p).watchAccord.watchColl).resumeSends

/-! ### The commands -/

/-- FLIT_RECEIVE (R275). -/
def execFlitReceive (port : Nat) (flit : Flit) (symbols : List Nat) (s : State) : Host.Outcome State Fault Refusal :=
  run (Instr.wf (.flitReceive port flit symbols)) (Dev.flitReceive port flit symbols) s

/-- REPLAY_REQUEST (R275). -/
def execReplayRequest (port seq : Nat) (s : State) : Host.Outcome State Fault Refusal :=
  run (Instr.wf (.replayRequest port seq)) (Dev.replayRequest port seq) s

/-- PORT_TRAINING (R273). -/
def execPortTraining (port : Nat) (lanes : BitVec 4) (kx : KeyExchange) (s : State) : Host.Outcome State Fault Refusal :=
  run (Instr.wf (.portTraining port lanes kx)) (Dev.portTraining port lanes kx) s

/-- LANE_FAIL (R273). -/
def execLaneFail (port : Nat) (s : State) : Host.Outcome State Fault Refusal :=
  run (Instr.wf (.laneFail port)) (Dev.laneFail port) s

/-- RETRAIN_TIMEOUT (R273). -/
def execRetrainTimeout (port : Nat) (s : State) : Host.Outcome State Fault Refusal :=
  run (Instr.wf (.retrainTimeout port)) (Dev.retrainTimeout port) s

/-- PORT_DOWN (R298). -/
def execPortDown (port : Nat) (s : State) : Host.Outcome State Fault Refusal :=
  run (Instr.wf (.portDown port)) (Dev.portDown port) s

/-- REKEY (R379). -/
def execRekey (port dir : Nat) (kx : KeyExchange) (s : State) : Host.Outcome State Fault Refusal :=
  run (Instr.wf (.rekey port dir kx)) (Dev.rekey port dir kx) s

/-- REKEY_RETRY (R379). -/
def execRekeyRetry (port : Nat) (kx : KeyExchange) (s : State) : Host.Outcome State Fault Refusal :=
  run (Instr.wf (.rekeyRetry port kx)) (Dev.rekeyRetry port kx) s

/-- KEY_LIMIT_REACHED (R276). -/
def execKeyLimitReached (port : Nat) (s : State) : Host.Outcome State Fault Refusal :=
  run (Instr.wf (.keyLimitReached port)) (Dev.keyLimitReached port) s

/-- RECAL (R300). -/
def execRecal (fn port : Nat) (s : State) : Host.Outcome State Fault Refusal :=
  run (Instr.wf (.recal fn port)) (Dev.recal fn port) s

/-- RECAL_START (R425). -/
def execRecalStart (port : Nat) (s : State) : Host.Outcome State Fault Refusal :=
  run (Instr.wf (.recalStart port)) (Dev.recalStart port) s

/-- RECAL_COMPLETE (R300). -/
def execRecalComplete (port : Nat) (lanes : BitVec 4) (s : State) : Host.Outcome State Fault Refusal :=
  run (Instr.wf (.recalComplete port lanes)) (Dev.recalComplete port lanes) s

end Sys2Proof.Machine
end

