-- ==== Sys2Proof/Machine/Contexts.lean ====
section
/-! DEFINITION. Tenants and contexts: creation, teardown, reset, destruction, budgets, CORES requests (R324 to R332, R338 to
R341). -/

namespace Sys2Proof.Machine

/-! ### Random bytes and LOCAL keys (R367, R368, R381) -/

/-- Some bytes of the deterministic generator of R367: one request. -/
def Dev.random (d : Dev) (n : Nat) : List Byte × Dev :=
  ((List.range n).map (Sys2Proof.Config.randomByte d.sec.randReqs), { d with sec := { d.sec with randReqs := d.sec.randReqs + 1 } })

/-- The memory key of a tenant, with its label, and its mode. -/
def Dev.setKey (d : Dev) (t mode : Nat) (key label : List Byte) : Dev :=
  let d := { d with sec := { d.sec with keys := SMap.set d.sec.keys t (key, label) } }
  d.put F.tenSecStat_mode t mode

/-- A LOCAL key for a tenant in NONE; with a failed noise source it stays in NONE (R368). -/
def Dev.localKey (d : Dev) (t : Nat) : Dev :=
  if d.flag F.secStat_noise_fail 0 then d.put F.tenSecStat_mode t 0
  else
    let (key, d) := d.random 64
    d.setKey t 1 key (leBytes 16 0)

/-! ### Teardown (R338) -/

/-- Release the host-window bindings of a context (R352). -/
def Dev.releaseWindows (d : Dev) (c : Nat) : Dev :=
  d.each (List.range 64) fun i d =>
    if d.flag F.hostWinCfg_valid 0 i && d.get F.hostWinCfg_ctx 0 i = c then (d.setReg .hostWinCfg 0 0 i).setReg .hostWinVa 0 0 i
    else d

/-- Abandon the work of a context, class by class (R338 item 2). -/
def Dev.abandon (d : Dev) (c : Nat) : Dev :=
  let d := (d.dropUpds c).showUnits
  let d := d.each (d.ctx c).moves fun m d => (d.releaseMove c m).dropMove c m.id
  let d := d.each ((d.ctx c).rollouts.map (·.seq)) fun s d => (d.endRollout c s Status.ctxTornDown 7).finishRollout c s
  let d := d.each ((d.ctx c).pools.map (·.1)) fun p d => d.deletePool c p
  let d := d.each (List.range 64) fun g d =>
    if d.inGroup c g || ((d.group g).forming.map (·.ctx)) = some c then d.freeGroup g Status.ctxTornDown else d
  let d := match (d.ctx c).ckpt with | some k => d.endSave c k Status.ctxTornDown | none => d
  let d := d.each (List.range 256) fun w d => if d.ownsSet c w then d.endSet w Status.ctxTornDown else d
  let d := d.each (List.range 1024) fun r d => if d.ringOf c r then d.freeRing r else d
  d.releaseWindows c

/-- A descriptor of some queues waits no longer anywhere: its AWAIT, its SEND, its self-test. -/
def Dev.forget (d : Dev) (qs : List Nat) : Dev :=
  let d := d.each (List.range 256) fun w d =>
    if (d.wset w).awaits.any fun x => qs.contains x.q then
      d.modWset w fun s => { s with awaits := s.awaits.filter fun x => !qs.contains x.q }
    else d
  { d with sends := d.sends.filter fun e => !qs.contains e.who.q,
           tests := d.tests.map fun t => { t with who := t.who.filter fun x => !qs.contains x.q } }

/-- Unmap every mapping of a context and free every frame allocated to it (R338 item 4). -/
def Dev.unmapAll (d : Dev) (c : Nat) : Dev :=
  let d := d.each (d.ctx c).areas fun a d => d.unmapArea c a
  let d := d.dropLeaves c ((d.ctx c).leaves.map (·.1))
  let d := (d.setReg .kvPool c 0).modCtx c fun x => { x with kvUsed := 0 }
  d.each [0, 1, 2] fun t d => d.setReg .tierUse c 0 t

/-- Take and complete the untaken descriptors of a queue while its completion ring has room. -/
def Dev.drainRing (d : Dev) (c q : Nat) : Nat → Dev
  | 0 => d
  | n + 1 =>
    let head := d.get F.queStat_sq_head q
    if d.flag F.queCfg_enable q && d.get F.queStat_state q = queRun && head ≠ (d.queue q).sqTail && d.roomFor q then
      let w : Waiter := ⟨q, head, (d.queue q).period⟩
      let d := ((d.put F.queStat_sq_head q ((head + 1) % d.sqSize q)).incMod F.queStat_inflight q).incMod F.queCnt_taken q
      (d.complete w Status.ctxTornDown 0).drainRing c q n
    else d

/-- Complete every taken and untaken descriptor of a context's queues with CTX_TORN_DOWN and RESULT 0, as completion room
allows (R338 item 5). -/
def Dev.completeAll (d : Dev) (c : Nat) : Dev :=
  d.each (d.queuesOf c) fun q d =>
    let d := d.each (d.queue q).descs fun x d => d.complete ⟨q, x.idx, x.period⟩ Status.ctxTornDown 0
    d.drainRing c q (d.sqSize q)

/-- Requests that name a context as their donor take from FREE instead (R332). -/
def Dev.dropDonor (d : Dev) (c : Nat) : Dev :=
  d.each (List.range 256) fun x d =>
    match (d.ctx x).coresReq with
    | some r => if r.donor = some c then d.modCtx x fun y => { y with coresReq := some { r with donor := none } } else d
    | none => d

/-- A pending CORES request of a context ends; its targets return to the cores held (R332). -/
def Dev.endRequests (d : Dev) (c : Nat) : Dev :=
  let d := d.modCtx c fun x => { x with coresReq := none, stopping := [] }
  let d := (d.put F.ctxState_pending c 0).put F.ctxState_gen_tgt c (d.genCores c).length
  let d := d.put F.ctxState_lrn_tgt c (d.lrnCores c).length
  (d.dropDonor c).nameStopping

/-- The STARTs of rollouts that a teardown ends: each result word as Table 4.2 lays it out, REASON 7 (R91, R92; DEDUCED, log entry 32: item
5's RESULT 0 is that of descriptors whose class gives no word for a teardown). -/
def Dev.completeStarts (d : Dev) (rs : List Rollout) : Dev :=
  d.each rs fun r d => let (word, d) := d.startWord r.tokens 7 r.epoch; d.complete r.who Status.ctxTornDown word

/-- Items 1 to 5 of R338. What the other classes would have written as results of the descriptors that they abandon is not written:
item 5 gives those completions. -/
def Dev.tearDown (d : Dev) (c : Nat) : Dev :=
  let d := d.each (d.coresOf c) fun k d => d.haltCore k
  let queues := d.queues
  let starts := (d.ctx c).rollouts.filter fun r => r.peer.isNone
  let d := d.abandon c
  let mine := d.queuesOf c
  let kept := d.queues.filter fun e => !mine.contains e.1
  let own := queues.filter fun e => mine.contains e.1
  let d := { d with queues := own.foldl (fun (m : SMap Queue) (e : Nat × Queue) => SMap.set m e.1 e.2) kept }
  let d := d.each (d.coresOf c) fun k d => d.resetCore k
  let d := ((d.clearSums c).unlatchAll fun r => r.1 = c).unmapAll c
  let d := d.modCtx c fun x =>
    { Ctx.init with tblFrames := x.tblFrames, lastQueue := x.lastQueue, takes := x.takes, digests := x.digests, fabricOnly := x.fabricOnly,
                    coresReq := x.coresReq, lagHist := x.lagHist }
  let d := d.put F.lrnStepStat_phase c LrnSt.idle
  (((d.forget mine).completeStarts starts).completeAll c).endRequests c

/-! ### Destruction (R329) -/

/-- Write the completions that are due on a queue while room and the host allow. -/
def Dev.flushQueue (d : Dev) (q : Nat) : Nat → Dev
  | 0 => d
  | n + 1 => (d.completionWrite q).flushQueue q n

/-- Release a queue: every register of its page returns to its reset value. -/
def Dev.releaseQueue (d : Dev) (q : Nat) : Dev :=
  let d := d.flushQueue q (d.queue q).due.length
  (d.setQueue q { Queue.init with period := (d.queue q).period + 1 }).resetRegs (regsOf .que .powerUp) q

/-- A tenant reset ends once no context of the tenant is left: its tenant-domain registers return to their reset values. -/
def Dev.endTenantReset (d : Dev) (t : Nat) : Dev :=
  if d.flag F.tenStat_resetting t && (d.ctxsOf t).isEmpty then d.resetRegs (regsOf .ten .tenant) t else d

/-- A context ends: teardown unless it is TORN, cores FREE, queues released, the number FREE, ENDED counted. -/
def Dev.destroyCtx (d : Dev) (c : Nat) : Dev :=
  let t := d.tenantOf c
  let d := if d.ctxState c = CtxSt.torn then (d.releaseWindows c).dropDonor c else d.tearDown c
  let d := d.each (d.coresOf c) fun k d => (d.resetIfUsed k).freeCore k
  let d := d.each (d.queuesOf c) fun q d => d.releaseQueue q
  let d := (d.resetRegs (regsOf .ctx .powerUp) c).setCtx c Ctx.init
  let d := (d.incSat F.tenJobCount_ended t).countAssigned.nameStopping
  (d.countTenant t).endTenantReset t

/-! ### Context reset (Table 15.3) -/

/-- A context reset, whose scope holds the core domain (R8): teardown without a fault record, context-domain registers, default limits; ACTIVE, or DETACHED while the
host port is detached (R341). -/
def Dev.resetCtx (d : Dev) (c : Nat) : Dev :=
  let torn : Bool := d.ctxState c == CtxSt.torn
  let d := if torn then (d.releaseWindows c).each (d.coresOf c) fun k d => d.resetCore k else d.tearDown c
  let d := (d.resetRegs (regsOf .ctx .context) c).modCtx c fun x => { Ctx.init with tblFrames := x.tblFrames }
  let d := d.each (d.queuesOf c) fun q d =>
    let d := d.resetRegs (regsOf .que .context) q
    if d.get F.queStat_state q = queTorn then d.put F.queStat_state q queRun else d
  let d := ((d.put F.ctxFault_valid c 0).put F.ctxCtl_reset c 0).defaultLimits c
  (d.put F.ctxState_state c (if d.detached then CtxSt.detached else CtxSt.active)).countCores c

/-- CTX_RESET: CTX_CTL.RESET by the owner or tenant 0. While the context is TEARING it takes effect once the teardown ends
(R341). -/
def Dev.ctxReset (fn c : Nat) (d : Dev) : Dev :=
  if d.ctxWritable0 fn c then
    if d.ctxState c = CtxSt.tearing then d.put F.ctxCtl_reset c 1 else d.resetCtx c
  else d

/-- CTX_DESTROY: CTX_CTL.DESTROY by the owner or tenant 0. -/
def Dev.ctxDestroy (fn c : Nat) (d : Dev) : Dev :=
  if d.ctxWritable0 fn c then
    if d.ctxState c = CtxSt.tearing then d.put F.ctxCtl_destroy c 1 else d.destroyCtx c
  else d

/-- What was written to CTX_CTL during a teardown acts once it ends: a DESTROY prevails (R329, R341). -/
def Dev.afterTeardown (d : Dev) (c : Nat) : Dev :=
  if d.flag F.ctxCtl_destroy c then d.destroyCtx c else if d.flag F.ctxCtl_reset c then d.resetCtx c else d

/-- CTX_TEARDOWN: a TEARING context is torn down and becomes TORN (R338). -/
def Dev.ctxTeardown (c : Nat) (d : Dev) : Dev :=
  if d.ctxState c = CtxSt.tearing then
    let d := d.tearDown c
    let d := (d.put F.ctxState_state c CtxSt.torn).incSat F.tenJobCount_torn (d.tenantOf c)
    let d := d.each (d.queuesOf c) fun q d => if d.get F.queStat_state q = queRun then d.put F.queStat_state q queTorn else d
    d.afterTeardown c
  else d

/-! ### Tenants (R324 to R328) -/

/-- A tenant reset: every context is destroyed, a TEARING one once its teardown ends; tenant-domain registers follow. -/
def Dev.resetTenant (d : Dev) (t : Nat) : Dev :=
  let d := (d.put F.tenStat_resetting t 1).put F.tenCtl_reset t 1
  let d := d.each (d.ctxsOf t) fun c d => if d.ctxState c = CtxSt.tearing then d.put F.ctxCtl_destroy c 1 else d.destroyCtx c
  d.endTenantReset t

/-- TENANT_RESET: TEN_CTL.RESET by the tenant or tenant 0. -/
def Dev.tenantReset (fn t : Nat) (d : Dev) : Dev := if d.served && (fn = t || fn = 0) then d.resetTenant t else d

/-- TEN_CFG_WRITE: tenant 0 sets the budget and ENABLE; clearing ENABLE resets the tenant, enabling one in NONE makes its LOCAL
key (R324, R381). -/
def Dev.tenCfgWrite (fn t : Nat) (value : Word) (d : Dev) : Dev :=
  if d.served && fn = 0 then
    let was := d.flag F.tenCfg_enable t
    let v := value.toNat
    let d := ((d.put F.tenCfg_enable t (bitsOf v 0 1)).put F.tenCfg_max_ctx t (bitsOf v 8 9)).put F.tenCfg_max_cores t (bitsOf v 24 9)
    let d := d.put F.tenCfg_max_queues t (bitsOf v 48 15)
    if was && !bitOf v 0 then d.resetTenant t
    else if !was && bitOf v 0 && d.get F.tenSecStat_mode t = 0 then d.localKey t
    else d
  else d

/-- The first queue of the lowest run of `n` queues that no context holds, if there is one. -/
def Dev.queueRun (d : Dev) (n : Nat) : Option Nat :=
  let runs := ((List.range 256).filter fun c => d.flag F.ctxCfg_valid c).foldl
    (fun m c => SMap.set m (d.get F.ctxCfg_qbase c) (d.get F.ctxCfg_nq c)) []
  let q := fitGo n 1 0 runs
  if q + n ≤ 16384 then some q else none

/-- The first failing check of a creation (R328 item 2). -/
def Dev.createCheck (d : Dev) (t kind gen lrn nq : Nat) : Option Nat :=
  if !d.flag F.tenCfg_enable t || d.get F.tenSecStat_mode t = 0 then some Status.integrity
  else if kind = 3 || (0 < gen && kind = 1) || (0 < lrn && kind = 0) || 256 < gen || 256 < lrn || nq = 0 || 4096 < nq then
    some Status.internal
  else if d.get F.tenCfg_max_ctx t < d.get F.tenStat_contexts t + 1 ||
      d.get F.tenCfg_max_cores t < d.get F.tenStat_cores t + gen + lrn ||
      d.get F.tenCfg_max_queues t < d.get F.tenStat_queues t + nq then some Status.quota
  else if ((List.range 256).all fun c => d.flag F.ctxCfg_valid c) || d.freeCores.length < gen + lrn || (d.queueRun nq).isNone then
    some Status.quota
  else none

/-- A context comes to life (R328 item 3). -/
def Dev.makeCtx (d : Dev) (t kind gen lrn nq c q : Nat) : Dev :=
  let ks := d.freeCores.take (gen + lrn)
  let d := d.setCtx c Ctx.init
  let d := ((d.put F.ctxCfg_tenant c t).put F.ctxCfg_kind c kind).put F.ctxCfg_valid c 1
  let d := (d.put F.ctxCfg_qbase c q).put F.ctxCfg_nq c nq
  let d := d.each (ks.take gen) fun k d => d.holdCore c k false
  let d := d.each (ks.drop gen) fun k d => d.holdCore c k true
  let d := (d.put F.ctxState_gen_tgt c gen).put F.ctxState_lrn_tgt c lrn
  let d := (d.put F.ctxState_state c CtxSt.active).defaultLimits c
  ((d.incMod F.tenJobCount_started t).countCores c).nameStopping

/-- TEN_CREATE: a tenant, or tenant 0 for it, writes TEN_CREATE (R328). BUSY is set and cleared within the command,
which waits while a core that it would grant is under test (R424). CTX and
QBASE of a failed creation are not stated: they are free (log entry 3). -/
def Dev.tenCreate (fn t : Nat) (value : Word) (d : Dev) : Dev :=
  if d.served && (fn = t || fn = 0) then
    let v := value.toNat
    let kind := bitsOf v 0 2
    let gen := bitsOf v 8 9
    let lrn := bitsOf v 24 9
    let nq := bitsOf v 40 13
    match d.createCheck t kind gen lrn nq, (List.range 256).find? (fun c => !d.flag F.ctxCfg_valid c), d.queueRun nq with
    | none, some c, some q =>
      if (d.freeCores.take (gen + lrn)).any d.underTest then d
      else (d.makeCtx t kind gen lrn nq c q).setReg .tenCreateRes t (c * 2 ^ 8 + q * 2 ^ 32)
    | some st, _, _ =>
      let (x, d) := d.freeVal
      d.setReg .tenCreateRes t (st + bitsOf x.toNat 8 8 * 2 ^ 8 + bitsOf x.toNat 32 14 * 2 ^ 32)
    | _, _, _ => d
  else d

/-! ### CORES (R330, R331) -/

/-- CORES: the checks of R330; a request that passes them sets the targets and is pending. -/
def Dev.coresRequest (q i : Nat) (d : Dev) : Dev :=
  d.withDesc q i 10 0x20 fun c w bs d =>
    let f := fieldAt bs 17 1
    let g := fieldAt bs 18 2
    let l := fieldAt bs 20 2
    let o := fieldAt bs 22 1
    let dval : Bool := bitOf f 0
    let t := d.tenantOf c
    let held := (d.coresOf c).length
    let given := if dval then (d.coresOf o).length else 0
    let free := d.freeCores.length
    let taken := if dval then g + l - held - free else 0
    let kind := d.kindOf c
    if 256 < g || 256 < l || 1 < f || !allZero (slice bs 23 41) then d.complete w Status.internal 0
    else if (0 < g && kind = 1) || (0 < l && kind = 0) ||
        (dval && (o = c || !d.flag F.ctxCfg_valid o || d.tenantOf o ≠ t)) then d.complete w Status.integrity 0
    else if (d.ctx c).coresReq.isSome then d.complete w Status.deferred 0
    else if d.get F.tenCfg_max_cores t + held + taken < d.get F.tenStat_cores t + g + l || free + given < g + l - held then
      d.complete w Status.quota 0
    else
      let req : CoresReq := ⟨w, if dval then some o else none⟩
      let d := (d.accept w).modCtx c fun x => { x with coresReq := some req }
      (((d.put F.ctxState_gen_tgt c g).put F.ctxState_lrn_tgt c l).put F.ctxState_pending c 1).nameStopping

/-- Cores change role within a mixed context, without a reset (R331). -/
def Dev.changeRoles (d : Dev) (c : Nat) (p : CorePlan) : Dev :=
  if d.lrnStopped c && p.toLrn.all (d.mayLeave c) then
    let d := d.discardHandles p.toLrn
    let d := d.each p.toLrn fun k d => (d.leavePools c k).put F.coreState_role k 1
    d.each p.toGen fun k d => d.put F.coreState_role k 0
  else d

/-- A core leaves a context after a core reset. -/
def Dev.leaveCtx (d : Dev) (c k : Nat) : Dev := ((d.leavePools c k).resetCore k).freeCore k

/-- Release cores of the shrinking roles. -/
def Dev.releaseCores (d : Dev) (c : Nat) (p : CorePlan) : Dev :=
  let d := if p.relGen.all (d.mayLeave c) then d.each p.relGen fun k d => d.leaveCtx c k else d
  if p.relLrn.all (d.mayLeave c) then d.each p.relLrn fun k d => d.leaveCtx c k else d

/-- FREE cores join: those that join together fill the generation need first, lowest number first, then the learning need, at a learning
full stop. -/
def Dev.joinCores (d : Dev) (c : Nat) (p : CorePlan) : Dev :=
  let ks := d.joinable p
  let d := d.each (ks.take p.needGen) fun k d => d.holdCore c k false
  if d.lrnStopped c then d.each (ks.drop p.needGen) fun k d => d.holdCore c k true else d

/-- Take what the donor gives at its full stops: each role's named cores leave together, are reset, and join at once, the generation
need first (R22, R331; log entry 70). The donor's targets fall. -/
def Dev.takeFromDonor (d : Dev) (c o : Nat) : Dev :=
  let p := d.corePlan c
  let ready := d.donorReady c o p
  let gens := (ready.filter d.genRole).length
  let d := (d.dec F.ctxState_gen_tgt o gens).dec F.ctxState_lrn_tgt o (ready.length - gens)
  let d := d.each ready fun k d => d.leaveCtx o k
  let joins := sortBy (fun a b => a < b) ready
  let d := d.each (joins.take p.needGen) fun k d => d.holdCore c k false
  (d.each (joins.drop p.needGen) fun k d => d.holdCore c k true).countCores o

/-- CORES_APPLY: the changes of a pending request that the full stops now allow; the request completes once every change has
applied. -/
def Dev.coresApply (c : Nat) (d : Dev) : Dev :=
  match (d.ctx c).coresReq with
  | some req =>
    if d.working c then
      let p := d.corePlan c
      let d := (d.changeRoles c p).releaseCores c p
      let d := d.joinCores c p
      let d := match req.donor with | some o => d.takeFromDonor c o | none => d
      let d := d.countCores c
      let g := d.get F.ctxState_gen_held c
      let l := d.get F.ctxState_lrn_held c
      let d := if g = d.get F.ctxState_gen_tgt c && l = d.get F.ctxState_lrn_tgt c then
          ((d.put F.ctxState_pending c 0).modCtx c fun x => { x with coresReq := none }).complete req.who Status.ok (g + l * 2 ^ 16)
        else d
      d.nameStopping
    else d
  | none => d

/-! ### The commands -/

/-- TEN_CREATE (R328). -/
def execTenCreate (fn tenant : Nat) (value : Word) (s : State) : Host.Outcome State Fault Refusal :=
  run (Instr.wf (.tenCreate fn tenant value)) (Dev.tenCreate fn tenant value) s

/-- CTX_RESET (R340). -/
def execCtxReset (fn ctx : Nat) (s : State) : Host.Outcome State Fault Refusal :=
  run (Instr.wf (.ctxReset fn ctx)) (Dev.ctxReset fn ctx) s

/-- CTX_DESTROY (R329). -/
def execCtxDestroy (fn ctx : Nat) (s : State) : Host.Outcome State Fault Refusal :=
  run (Instr.wf (.ctxDestroy fn ctx)) (Dev.ctxDestroy fn ctx) s

/-- CTX_TEARDOWN (R338). -/
def execCtxTeardown (ctx : Nat) (s : State) : Host.Outcome State Fault Refusal :=
  run (Instr.wf (.ctxTeardown ctx)) (Dev.ctxTeardown ctx) s

/-- TENANT_RESET (R340). -/
def execTenantReset (fn tenant : Nat) (s : State) : Host.Outcome State Fault Refusal :=
  run (Instr.wf (.tenantReset fn tenant)) (Dev.tenantReset fn tenant) s

/-- TEN_CFG_WRITE (R324). -/
def execTenCfgWrite (fn tenant : Nat) (value : Word) (s : State) : Host.Outcome State Fault Refusal :=
  run (Instr.wf (.tenCfgWrite fn tenant value)) (Dev.tenCfgWrite fn tenant value) s

/-- CORES (R330). -/
def execCores (q i : Nat) (s : State) : Host.Outcome State Fault Refusal :=
  run (Instr.wf (.cores q i)) (Dev.coresRequest q i) s

/-- CORES_APPLY (R331). -/
def execCoresApply (ctx : Nat) (s : State) : Host.Outcome State Fault Refusal :=
  run (Instr.wf (.coresApply ctx)) (Dev.coresApply ctx) s

end Sys2Proof.Machine
end

