-- ==== Sys2Proof/Machine/HostPort.lean ====
section
/-! DEFINITION. The host port: ENV descriptors, host windows, detach and reattach, the link (R343 to R362). -/

namespace Sys2Proof.Machine

/-! ### ENV (R353, R356 to R359) -/

/-- Run an ENV operation that only tenant 0 issues (Table 16.6): in another tenant's context it ends with INTEGRITY. -/
def Dev.withEnv0 (d : Dev) (q i op : Nat) (f : Nat → Waiter → List Byte → Dev → Dev) : Dev :=
  d.withDesc q i 10 op fun c w bs d => if d.tenantOf c = 0 then f c w bs d else d.complete w Status.integrity 0

/-- The form of a TOPO table (Table 16.7, R358): zeros where 0 is required, coordinates within their extents, levels below 3, and
peers within the system. -/
def topoForm (bs : List Byte) : Bool :=
  let b (o : Nat) : Nat := fieldAt bs o 1
  let ncell := b 3
  let nrow := b 4
  allZero (slice bs 5 59) && allZero (slice bs 192 64) && (List.range 5).all (fun o => b o < 16) && b 1 ≤ ncell && b 2 ≤ nrow &&
    (List.range 32).all fun p =>
      let v := fieldAt bs (64 + 4 * p) 4
      let r := bitsOf v 0 16
      v < 2 ^ 18 && bitsOf v 16 2 < 3 && (r = 0xFFFF || (r < 4096 && cellOfRank r ≤ ncell && rowOf r ≤ nrow))

/-- Give a port its peer and level; a port whose peer, level or own coordinates changed goes DOWN and, named and enabled, trains. -/
def Dev.namePort (d : Dev) (moved : Bool) (p rank level : Nat) : Dev :=
  let x := d.port p
  let named : Bool := decide (rank ≠ 0xFFFF)
  let same : Bool := decide (x.topoRank = rank) && (!named || decide (x.level = level))
  if same && !(moved && named) then d else
    let d := d.portDown p
    let d := d.setPort p { Port.init with topoRank := rank, level := level }
    let d := d.put F.fabPortStat_level_set p (if named then 1 else 0)
    if named && d.flag F.fabPortCfg_enable p then d.put F.fabPortStat_state p portTrain else d

/-- TOPO. -/
def Dev.topo (q i : Nat) (rsp : TierRsp) (d : Dev) : Dev :=
  d.withEnv0 q i 1 fun c w bs d =>
    let a := fieldAt bs 24 8
    if !allZero (slice bs 17 7) || !allZero (slice bs 32 32) || a % 64 ≠ 0 then d.complete w Status.internal 0
    else
      let (g, d) := d.readVa c none rsp a 256
      if g.bad.isSome then d.complete w Status.pageFault 0
      else if !topoForm g.raw then d.complete w Status.internal 0
      else
        let t := g.raw
        let b (o : Nat) : Nat := fieldAt t o 1
        let v := b 0 + b 1 * 2 ^ 4 + b 2 * 2 ^ 8 + b 3 * 2 ^ 16 + b 4 * 2 ^ 20 + 2 ^ 24
        let moved : Bool := decide (d.reg .fabTopo 0 % 2 ^ 24 ≠ v % 2 ^ 24)
        if moved && (List.range 64).any fun g => d.flag F.fabGrpCfg_valid g then d.complete w Status.deferred 0
        else
          let d := d.setReg .fabTopo 0 v
          let d := d.each (List.range 32) fun p d =>
            let e := fieldAt t (64 + 4 * p) 4
            d.namePort moved p (bitsOf e 0 16) (bitsOf e 16 2)
          d.complete w Status.ok 0

/-- BASE: the base window; deferred while a context holds a base-note frame or an area. -/
def Dev.base (q i : Nat) (d : Dev) : Dev :=
  d.withEnv0 q i 2 fun _ w bs d =>
    let pid := fieldAt bs 18 2
    let a := fieldAt bs 24 8
    let len := fieldAt bs 32 8
    if !allZero (slice bs 17 1) || 4096 ≤ pid || !allZero (slice bs 20 4) || !allZero (slice bs 40 24) || a % 2 ^ 21 ≠ 0 ||
        len % 2 ^ 21 ≠ 0 then d.complete w Status.internal 0
    else if !d.mem.usedBase.isEmpty || (List.range 256).any fun c => !(d.ctx c).areas.isEmpty then d.complete w Status.deferred 0
    else
      let gone := d.mem.retired.filter fun e => e.1 ≠ 2
      let d := { d with mem := { d.mem with retired := gone } }
      let d := d.setReg .hostBase 0 (if len = 0 then 0 else pid + 2 ^ 12 + len)
      let d := d.setReg .hostBaseDpa 0 (if len = 0 then 0 else a)
      (d.put F.tierCap_frames 0 (usableFrames (len / pageBytes)) 2).complete w Status.ok 0

/-- Bytes of the aperture (Table 16.2). -/
def Dev.aperture (d : Dev) : Nat := 2 ^ (36 + d.cfg.aperture)

/-- WIN: bind, replace or release a host window. -/
def Dev.win (q i : Nat) (d : Dev) : Dev :=
  d.withDesc q i 10 3 fun c w bs d =>
    let wr := fieldAt bs 17 1
    let n := fieldAt bs 18 1
    let len := fieldAt bs 20 4
    let ap := fieldAt bs 24 8
    let va := fieldAt bs 32 8
    let meets (j : Nat) : Bool :=
      j ≠ n && d.flag F.hostWinCfg_valid 0 j && decide (ap < (d.get F.hostWinCfg_ap 0 j + d.get F.hostWinCfg_len 0 j) * 2 ^ 30) &&
        decide (d.get F.hostWinCfg_ap 0 j * 2 ^ 30 < ap + len * 2 ^ 30)
    if 1 < wr || 64 ≤ n || !allZero (slice bs 19 1) || !allZero (slice bs 40 24) || ap % 2 ^ 30 ≠ 0 || va % 2 ^ 30 ≠ 0 || 2 ^ 50 ≤ va then
      d.complete w Status.internal 0
    else if d.flag F.hostWinCfg_valid 0 n && d.get F.hostWinCfg_ctx 0 n ≠ c then d.complete w Status.integrity 0
    else if len = 0 then ((d.setReg .hostWinCfg 0 0 n).setReg .hostWinVa 0 0 n).complete w Status.ok 0
    else if (List.range 64).any meets || d.aperture < ap + len * 2 ^ 30 then d.complete w Status.integrity 0
    else
      let d := d.setReg .hostWinCfg 0 (1 + wr * 2 + c * 2 ^ 8 + len * 2 ^ 16 + ap / 2 ^ 30 * 2 ^ 32) n
      (d.setReg .hostWinVa 0 va n).complete w Status.ok 0

/-- POWER: the rack limit, and the package target that Fakin sets from it (R410). -/
def Dev.envPower (q i : Nat) (d : Dev) : Dev :=
  d.withEnv0 q i 0x10 fun _ w bs d =>
    let n := fieldAt bs 20 2
    if !allZero (slice bs 17 3) || !allZero (slice bs 22 42) then d.complete w Status.internal 0
    else
      let d := d.put F.hostEnv_limit_w 0 n
      (d.put F.pwrLimit_target_w 0 (if n = 0 then d.cfg.pkgMaxW else min d.cfg.pkgMaxW n)).complete w Status.ok 0

/-- A temperature that THERMAL may give: -40 to +200 °C in 1/8 °C, or unknown. -/
def thermalOk (v : Nat) : Bool := v = 0x8000 || (decide (-320 ≤ tempOf v) && decide (tempOf v ≤ 1600))

/-- THERMAL: ambient and coolant. Fakin sets THR_T in response; its value is not stated and is free (R410, log entry 3). -/
def Dev.thermal (q i : Nat) (d : Dev) : Dev :=
  d.withEnv0 q i 0x11 fun _ w bs d =>
    let a := fieldAt bs 20 2
    let b := fieldAt bs 22 2
    if !allZero (slice bs 17 3) || !allZero (slice bs 24 40) || !thermalOk a || !thermalOk b then d.complete w Status.internal 0
    else
      let (x, d) := d.freeVal
      let d := (d.put F.hostEnv_ambient 0 a).put F.hostEnv_coolant 0 b
      (d.put F.pwrCfg_thr_t 0 (x.toNat % 2 ^ 16)).complete w Status.ok 0

/-- DETACH: the context's detach policy. -/
def Dev.detach (q i : Nat) (d : Dev) : Dev :=
  d.withDesc q i 10 0x12 fun c w bs d =>
    let f := fieldAt bs 17 1
    if 1 < f || !allZero (slice bs 18 46) then d.complete w Status.internal 0
    else (d.modCtx c fun x => { x with fabricOnly := f = 1 }).complete w Status.ok 0

/-! ### Host windows (R349, R350, Table 16.3) -/

/-- The binding whose range holds an aperture offset. -/
def Dev.bindingAt (d : Dev) (a : Nat) : Option Nat :=
  (List.range 64).find? fun i => d.flag F.hostWinCfg_valid 0 i && d.get F.hostWinCfg_ap 0 i * 2 ^ 30 ≤ a &&
    a < (d.get F.hostWinCfg_ap 0 i + d.get F.hostWinCfg_len 0 i) * 2 ^ 30

/-- The address that an aperture offset has in a binding's context. -/
def Dev.windowVa (d : Dev) (i a : Nat) : Nat := d.get F.hostWinVa_va 0 i * 2 ^ 30 + (a - d.get F.hostWinCfg_ap 0 i * 2 ^ 30)

/-- Whether a function reaches a binding's range. -/
def Dev.reaches (d : Dev) (fn i : Nat) : Bool := fn = 0 || d.tenantOf (d.get F.hostWinCfg_ctx 0 i) = fn

/-- Read one piece within a granule: its bytes, or `none` for a request that failed. -/
def Dev.windowPiece (d : Dev) (fn : Nat) (rsp : TierRsp) (a n : Nat) : Option (List Byte) × Dev :=
  let zeros : List Byte := List.replicate n 0
  match d.bindingAt a with
  | none => (some zeros, d)
  | some i =>
    if !d.reaches fn i then (some zeros, d) else
      let (g, d') := d.readVa (d.get F.hostWinCfg_ctx 0 i) none rsp (d.windowVa i a) n
      match g.bad with
      | none => (some g.raw, d')
      | some (st, _) => if st = Status.pageFault then (some zeros, d) else (none, d')

/-- HOST_WINDOW_READ: `mem` is a CXL.mem read, which belongs to function 0. -/
def Dev.hostWindowRead (fn offset len : Nat) (mem : Bool) (rsp : TierRsp) (d : Dev) : Dev :=
  let fn := if mem then 0 else fn
  let st := d.get F.hostStat_state 0
  if st ≠ 1 && st ≠ 2 then d
  else if !d.flag F.hostStat_ide 0 then d.emit (if mem then .readData fn [] false else .readData fn (List.replicate len 0) true)
  else if !d.served then d.emit (.readData fn (List.replicate len 0) true)
  else
    let r := (pieces offset (List.replicate len 0)).foldl (fun (r : Option (List Byte) × Dev) p =>
      let (x, d) := r.2.windowPiece fn rsp p.1 p.2.length
      (match r.1, x with | some a, some b => some (a ++ b) | _, _ => none, d)) (some [], d)
    match r.1 with
    | some bs => r.2.emit (.readData fn bs true)
    | none => r.2.emit (.readData fn [] false)

/-- Write one piece within a granule; the flag says whether it was discarded and counts. -/
def Dev.windowStore (d : Dev) (fn : Nat) (rsp : TierRsp) (a : Nat) (bs : List Byte) : Bool × Dev :=
  match d.bindingAt a with
  | none => (true, d)
  | some i =>
    let c := d.get F.hostWinCfg_ctx 0 i
    if !d.reaches fn i then (false, d)
    else if !d.flag F.hostWinCfg_w 0 i then (true, d)
    else
      let va := d.windowVa i a
      match d.prepWrite c rsp va none with
      | (none, d) => (false, d.land c va bs)
      | (some st, d) => (st ≠ Status.tierError && st ≠ Status.tierTimeout, d)

/-- HOST_WINDOW_WRITE. -/
def Dev.hostWindowWrite (fn offset : Nat) (mem : Bool) (data : List Byte) (rsp : TierRsp) (d : Dev) : Dev :=
  let fn := if mem then 0 else fn
  if !d.barOpen then d
  else if !d.served then d.incSat F.hostStat_discards 0
  else
    let r := (pieces offset data).foldl (fun (r : Bool × Dev) p =>
      let (x, d) := r.2.windowStore fn rsp p.1 p.2
      (r.1 || x, d)) (false, d)
    if r.1 then r.2.incSat F.hostStat_discards 0 else r.2

/-! ### Detach and reattach (R361, R362) -/

/-- A context meets the detach: one that depends on the host becomes DETACHED, and its rollouts outside a step end at once, the
others at their next step boundary; a fabric-only one with no learning step open holds. -/
def Dev.detachCtx (d : Dev) (c : Nat) : Dev :=
  if d.ctxState c ≠ CtxSt.active then d
  else if (d.ctx c).fabricOnly then
    if d.kindOf c ≠ 0 && d.get F.lrnStepStat_phase c = LrnSt.idle then d.put F.lrnStepStat_phase c LrnSt.hold else d
  else
    let d := d.put F.ctxState_state c CtxSt.detached
    let idle := (d.ctx c).rollouts.filter fun r => !r.inStep && r.st ≠ .ending
    d.each (idle.map (·.seq)) fun s d => d.endRollout c s Status.hostDetached 7

/-- The port detaches: every queue is OFF, and the contexts meet it. -/
def Dev.detachPort (d : Dev) : Dev :=
  let live := (List.range 256).filter fun c => d.flag F.ctxCfg_valid c
  let d := (d.put F.hostStat_state 0 3).incSat F.hostStat_detaches 0
  let d := d.each live fun c d => d.each (d.queuesOf c) fun q d => d.stopQueue q
  d.each live fun c d => d.detachCtx c

/-- LINK_L0_TIMEOUT: an attached port detaches; one that had only trained is DOWN. -/
def Dev.linkL0Timeout (d : Dev) : Dev :=
  let st := d.get F.hostStat_state 0
  if st = 2 then d.detachPort else if st = 1 then d.put F.hostStat_state 0 0 else d

/-- IDE_FAILURE. -/
def Dev.ideFailure (d : Dev) : Dev :=
  if d.flag F.hostStat_ide 0 then
    let d := d.logEvent 0x12 0
    if d.get F.hostStat_state 0 = 2 then d.detachPort else d
  else d

/-- VIRAL. -/
def Dev.viral (d : Dev) : Dev :=
  let st := d.get F.hostStat_state 0
  if st = 2 then (d.put F.hostStat_viral 0 1).detachPort else if st = 1 then d.put F.hostStat_viral 0 1 else d

/-- The port is attached: DETACHED contexts are ACTIVE again, held learning contexts IDLE. -/
def Dev.attachPort (d : Dev) : Dev :=
  let live := (List.range 256).filter fun c => d.flag F.ctxCfg_valid c
  (d.put F.hostStat_state 0 2).each live fun c d =>
    let d := if d.ctxState c = CtxSt.detached then d.put F.ctxState_state c CtxSt.active else d
    if d.get F.lrnStepStat_phase c = LrnSt.hold then d.put F.lrnStepStat_phase c LrnSt.idle else d

/-- REATTACH: tenant 0 writes HOST_CTL.REATTACH. -/
def Dev.reattach (fn : Nat) (d : Dev) : Dev := if d.barOpen && fn = 0 && d.get F.hostStat_state 0 = 1 then d.attachPort else d

/-- HOST_ATTACH: the first attach needs no REATTACH. -/
def Dev.hostAttach (d : Dev) : Dev :=
  if d.get F.hostStat_state 0 = 1 && d.flag F.hostStat_ide 0 && d.get F.hostStat_detaches 0 = 0 && !d.power.shut then d.attachPort else d

/-! ### The link (R360, R396) -/

/-- HOST_LINK_TRAINING_START: once in each cold reset, after Fakin has applied the configuration; LINK_MS holds the time. -/
def Dev.hostLinkTrainingStart (d : Dev) : Dev :=
  if d.linkStarted || d.sec.stuck || d.power.shut then d
  else { d.put F.bootStat_link_ms 0 (min 65535 (d.ns / 1000000)) with linkStarted := true }

/-- HOST_LINK_TRAINED: the link is up at a width and a rate. -/
def Dev.hostLinkTrained (width rate : Nat) (d : Dev) : Dev :=
  let st := d.get F.hostStat_state 0
  if d.linkStarted && !d.power.shut && (st = 0 || st = 3) then
    ((d.put F.hostStat_state 0 1).put F.hostStat_width 0 width).put F.hostStat_rate 0 rate
  else d

/-- CONFIG_REQUEST: answered with Request Retry Status until the boot chain completes. -/
def Dev.configRequest (fn : Nat) (d : Dev) : Dev :=
  let st := d.get F.hostStat_state 0
  if d.power.shut then d
  else if d.get F.secStat_stage 0 < 3 then d.emit (.config fn true)
  else if st = 1 || st = 2 then d.emit (.config fn false)
  else d

/-! ### The commands -/

/-- TOPO (R358). -/
def execTopo (q i : Nat) (rsp : TierRsp) (s : State) : Host.Outcome State Fault Refusal :=
  run (Instr.wf (.topo q i rsp)) (Dev.topo q i rsp) s

/-- BASE (R353). -/
def execBase (q i : Nat) (s : State) : Host.Outcome State Fault Refusal :=
  run (Instr.wf (.base q i)) (Dev.base q i) s

/-- WIN (R349). -/
def execWin (q i : Nat) (s : State) : Host.Outcome State Fault Refusal :=
  run (Instr.wf (.win q i)) (Dev.win q i) s

/-- POWER (R410). -/
def execPower (q i : Nat) (s : State) : Host.Outcome State Fault Refusal :=
  run (Instr.wf (.power q i)) (Dev.envPower q i) s

/-- THERMAL (R356). -/
def execThermal (q i : Nat) (s : State) : Host.Outcome State Fault Refusal :=
  run (Instr.wf (.thermal q i)) (Dev.thermal q i) s

/-- DETACH (R359). -/
def execDetach (q i : Nat) (s : State) : Host.Outcome State Fault Refusal :=
  run (Instr.wf (.detach q i)) (Dev.detach q i) s

/-- HOST_WINDOW_READ (R350). -/
def execHostWindowRead (fn offset len : Nat) (mem : Bool) (rsp : TierRsp) (s : State) : Host.Outcome State Fault Refusal :=
  run (Instr.wf (.hostWindowRead fn offset len mem rsp)) (Dev.hostWindowRead fn offset len mem rsp) s

/-- HOST_WINDOW_WRITE (R350). -/
def execHostWindowWrite (fn offset : Nat) (mem : Bool) (data : List Byte) (rsp : TierRsp) (s : State) : Host.Outcome State Fault Refusal :=
  run (Instr.wf (.hostWindowWrite fn offset mem data rsp)) (Dev.hostWindowWrite fn offset mem data rsp) s

/-- LINK_L0_TIMEOUT (R361). -/
def execLinkL0Timeout (s : State) : Host.Outcome State Fault Refusal :=
  run (Instr.wf (.linkL0Timeout)) Dev.linkL0Timeout s

/-- IDE_FAILURE (R361). -/
def execIdeFailure (s : State) : Host.Outcome State Fault Refusal :=
  run (Instr.wf (.ideFailure)) Dev.ideFailure s

/-- VIRAL (R361). -/
def execViral (s : State) : Host.Outcome State Fault Refusal :=
  run (Instr.wf (.viral)) Dev.viral s

/-- REATTACH (R362). -/
def execReattach (fn : Nat) (s : State) : Host.Outcome State Fault Refusal :=
  run (Instr.wf (.reattach fn)) (Dev.reattach fn) s

/-- HOST_ATTACH (R343). -/
def execHostAttach (s : State) : Host.Outcome State Fault Refusal :=
  run (Instr.wf (.hostAttach)) Dev.hostAttach s

/-- HOST_LINK_TRAINING_START (R396). -/
def execHostLinkTrainingStart (s : State) : Host.Outcome State Fault Refusal :=
  run (Instr.wf (.hostLinkTrainingStart)) Dev.hostLinkTrainingStart s

/-- HOST_LINK_TRAINED (R362). -/
def execHostLinkTrained (width rate : Nat) (s : State) : Host.Outcome State Fault Refusal :=
  run (Instr.wf (.hostLinkTrained width rate)) (Dev.hostLinkTrained width rate) s

/-- CONFIG_REQUEST (R360). -/
def execConfigRequest (fn : Nat) (s : State) : Host.Outcome State Fault Refusal :=
  run (Instr.wf (.configRequest fn)) (Dev.configRequest fn) s

end Sys2Proof.Machine
end

