-- ==== Sys2Proof/Machine/Trust.lean ====
section
/-! DEFINITION. Trust: tenant keys, reports, the SPDM responder, the security-version counter, the noise source (R367, R368,
R371 to R383). -/

namespace Sys2Proof.Machine

/-- The first `n` bytes, filled with zeros. -/
def fit (n : Nat) (bs : List Byte) : List Byte := (bs ++ List.replicate n 0).take n

/-! ### Measurements (Table 17.3) -/

/-- Index 6: the counter and the security versions of loader, firmware and configuration. -/
def Dev.versions (d : Dev) : List Byte :=
  leBytes 4 (d.get F.secSvn_ctr 0) ++ leBytes 4 d.sec.svnLoader ++ leBytes 4 d.sec.svnFirmware ++ leBytes 4 d.sec.svnConfig ++ leBytes 16 0

/-- The key state of a tenant. -/
def Dev.keyState (d : Dev) (t : Nat) : List Byte :=
  let k := SMap.find d.sec.keys t
  let id : List Byte := match k with | some k => digest256 (k.1 ++ ascii "MLN-KEYID") | none => leBytes 32 0
  let label : List Byte := match k with | some k => fit 16 k.2 | none => leBytes 16 0
  leBytes 4 (d.get F.tenSecStat_mode t) ++ leBytes 4 (d.get F.tenSecStat_loads t) ++ label ++ leBytes 8 0 ++ id

/-- The four words of a 256-bit register. -/
def Dev.quad (d : Dev) (r : Reg) (i : Nat) : List Byte := ([0, 1, 2, 3].map fun j => leBytes 8 (d.reg r i j)).flatten

/-- The entry of a context at index 0x80. -/
def Dev.ctxEntry (d : Dev) (c : Nat) : List Byte :=
  leBytes 1 (d.get F.ctxCfg_valid c) ++ leBytes 1 (d.tenantOf c) ++ leBytes 6 0 ++ leBytes 8 (d.get F.ctxMeasCnt_count c) ++ d.quad .ctxMeas c

/-- The entry of a weight set at index 0x81. -/
def Dev.setEntry (d : Dev) (w : Nat) : List Byte :=
  let valid := d.get F.accSetCfg_valid w
  leBytes 1 valid ++ leBytes 1 (if valid = 1 then d.tenantOf (d.get F.accSetCfg_ctx w) else 0) ++ leBytes 2 0 ++
    leBytes 4 (d.get F.accEpoch_active w) ++ d.quad .accDigest w

/-- A measurement by index, where Table 17.3 has one. -/
def Dev.measurement (d : Dev) (n : Nat) : Option (List Byte) :=
  if 1 ≤ n && n ≤ 5 then some (fit 32 (SMap.get d.sec.meas [] n))
  else if n = 6 then some d.versions
  else if n = 7 then some (leBytes 32 1)
  else if 0x10 ≤ n && n < 0x50 then some (d.keyState (n - 0x10))
  else if n = 0x80 then some ((List.range 256).map d.ctxEntry).flatten
  else if n = 0x81 then some ((List.range 256).map d.setEntry).flatten
  else none

/-- Every index of Table 17.3. -/
def measIndices : List Nat := [1, 2, 3, 4, 5, 6, 7] ++ (List.range 64).map (0x10 + ·) ++ [0x80, 0x81]

/-! ### Tenant keys (R382, R383) -/

/-- Bytes of a key blob (Table 17.6). -/
def blobBytes : Nat := 1728

/-- The key that a blob carries for a tenant, with its label, or the status of the failing check. -/
def Dev.openBlob (d : Dev) (t : Nat) (b : List Byte) : Except Nat (List Byte × List Byte) :=
  if fieldAt b 0 1 ≠ 1 || fieldAt b 1 1 ≠ t || !allZero (slice b 2 14) || !allZero (slice b 1680 48) then .error Status.integrity
  else
    let nonce := d.quad .tenKeyNonce t
    let ss := Sys2Proof.Config.kemDecaps d.sec.kemPriv (slice b 32 1568)
    let kek := digest256 (ss ++ ascii "MLN-TENANT-KEY" ++ d.sec.deviceId ++ leBytes 1 t ++ nonce)
    match Sys2Proof.Config.gcmOpen kek (leBytes 12 0) (slice b 0 32 ++ nonce) (slice b 1600 64) (slice b 1664 16) with
    | some key => .ok (fit 64 key, slice b 16 16)
    | none => .error Status.integrity

/-- A fresh load nonce for a tenant; without noise the old one stays. -/
def Dev.freshNonce (d : Dev) (t : Nat) : Dev :=
  if d.flag F.secStat_noise_fail 0 then d else
    let (bs, d) := d.random 32
    d.each [0, 1, 2, 3] fun j d => d.setReg .tenKeyNonce t (fieldAt bs (8 * j) 8) j

/-- TEN_KEY_LOAD: a load while the tenant holds a context changes nothing but KSTATUS and the log; every other attempt refreshes
the nonce. -/
def Dev.tenKeyLoad (fn t : Nat) (addr : Word) (d : Dev) : Dev :=
  if d.served && (fn = t || fn = 0) then
    if !(d.ctxsOf t).isEmpty then (d.put F.tenSecStat_kstatus t Status.deferred).logEvent 0x20 t
    else
      let blob := d.hostRead t (addr.toNat / 64 * 64) blobBytes
      let res : Except Nat (List Byte × List Byte) :=
        if d.flag F.secStat_cert_fail 0 then .error Status.integrity
        else if d.detached then .error Status.pageFault
        else d.openBlob t blob
      let d := match res with
        | .ok (key, label) => ((d.setKey t 2 key label).incSat F.tenSecStat_loads t).put F.tenSecStat_kstatus t Status.ok
        | .error st => (d.put F.tenSecStat_kstatus t st).logEvent 0x20 t
      d.freshNonce t
  else d

/-- A tenant's key is gone. -/
def Dev.eraseKey (d : Dev) (t : Nat) : Dev :=
  { d with sec := { d.sec with keys := SMap.erase d.sec.keys t } }.put F.tenSecStat_mode t 0

/-- ERASE: tenant 0, while the tenant holds no context. -/
def Dev.erase (fn t : Nat) (d : Dev) : Dev := if d.served && fn = 0 && (d.ctxsOf t).isEmpty then d.eraseKey t else d

/-! ### Tenant reports (R377) -/

/-- Bytes 0 to 16,063 of a report (Table 17.5). -/
def Dev.reportHead (d : Dev) (t len : Nat) (nonce : List Byte) : List Byte :=
  let ctx (c : Nat) : List Byte := if d.flag F.ctxCfg_valid c && d.tenantOf c = t then d.ctxEntry c else leBytes 48 0
  fit 32 (leBytes 4 0x4D4C4E52 ++ leBytes 1 1 ++ leBytes 1 t ++ leBytes 2 0 ++ leBytes 4 len) ++ fit 32 nonce ++
    ([1, 2, 3, 4, 5, 6, 7].map fun n => (d.measurement n).getD []).flatten ++ d.keyState t ++
    ((List.range 256).map ctx).flatten ++ fit 1568 d.sec.kemPub ++ fit 1793 d.sec.aliasPub ++ leBytes 63 0

/-- TEN_RPT: the report overwrites the buffer. -/
def Dev.tenRpt (fn t : Nat) (addr : Word) (d : Dev) : Dev :=
  if d.served && (fn = t || fn = 0) then
    if d.flag F.secStat_cert_fail 0 then d.put F.tenSecStat_rstatus t Status.integrity
    else if d.flag F.secStat_noise_fail 0 then d.put F.tenSecStat_rstatus t Status.internal
    else if d.detached then d.put F.tenSecStat_rstatus t Status.pageFault
    else
      let a := addr.toNat / 4096 * 4096
      let certs := d.sec.idCert ++ d.sec.aliasCert
      let head := d.reportHead t (17344 + certs.length) (d.hostRead t a 32)
      let sig := fit 1280 (Sys2Proof.Config.falconSign d.sec.aliasPriv (shake256 head 64) d.sec.randReqs)
      let (_, d) := d.random 0
      (d.hostWrite t a (head ++ sig ++ certs)).put F.tenSecStat_rstatus t Status.ok
  else d

/-! ### The counter (R371, R372, R390) -/

/-- COMMIT_SVN: the counter is raised to RUN; a flash that fails leaves it. `flashOk`: the raise is carried out and authenticated. -/
def Dev.commitSvn (fn : Nat) (flashOk : Bool) (f : Flash) (d : Dev) : Flash × Dev :=
  let run := d.get F.secSvn_run 0
  if !(d.barOpen && fn = 0) || run ≤ d.get F.secSvn_ctr 0 then (f, d)
  else if flashOk && f.ctrKey = some d.sec.ctrKey then
    ({ f with counter := max f.counter run }, (d.put F.secSvn_ctr 0 run).logEvent 0x30 (run % 256))
  else (f, d.logEvent 0x03 0)

/-- NOISE_HEALTH_FAILURE. -/
def Dev.noiseHealthFailure (d : Dev) : Dev := (d.put F.secStat_noise_fail 0 1).logEvent 0x21 0

/-! ### SPDM (R375, R376, R380) -/

/-- Response codes of SPDM 1.3 (the standard's; log entry 9). -/
def spdmError : Nat := 0x7F

/-- A response: its code, what the manual gives of it, and the rest of the standard's message. -/
def Dev.respond (d : Dev) (req : List Byte) (code : Nat) (payload : List Byte) : Dev :=
  { d with freeIdx := d.freeIdx + 1 }.emit (.spdm code (payload ++ Sys2Proof.Config.spdmResponse code req d.freeIdx))

/-- Serve a request once the boot chain is complete; an ERROR where a condition fails. -/
def Dev.serve (d : Dev) (req : List Byte) (ok : Bool) (code : Nat) (payload : List Byte) (f : Spdm → Spdm) : Dev :=
  if d.get F.secStat_stage 0 < 3 || d.power.shut then d
  else if ok then ({ d with spdm := f d.spdm }).respond req code payload
  else d.respond req spdmError []

/-- The certificate chain of slot 0. -/
def Dev.chain (d : Dev) : List Byte := Sys2Proof.Config.rootCert ++ d.sec.idCert ++ d.sec.aliasCert

/-- A signature by the alias key over some bytes. -/
def Dev.aliasSign (d : Dev) (bs : List Byte) : List Byte := fit 1280 (Sys2Proof.Config.falconSign d.sec.aliasPriv (shake256 bs 64) d.freeIdx)

/-- GET_VERSION: version 1.3; the connection starts anew. -/
def Dev.getVersion (req : List Byte) (d : Dev) : Dev :=
  d.serve req true 0x04 [0x13] fun s => { s with versionOk := true, capsOk := false, algsOk := false, chunkIn := [] }

/-- GET_CAPABILITIES. -/
def Dev.getCapabilities (req : List Byte) (d : Dev) : Dev := d.serve req d.spdm.versionOk 0x61 [] fun s => { s with capsOk := true }

/-- NEGOTIATE_ALGORITHMS: the three flags say whether the requester offers Falcon-1024, SHAKE256 and ML-KEM-1024; the response
selects what is offered of them. -/
def Dev.negotiateAlgorithms (req : List Byte) (falcon shake kem : Bool) (d : Dev) : Dev :=
  let pick : List Byte := leBytes 1 ((if falcon then 1 else 0) + (if shake then 2 else 0) + (if kem then 4 else 0))
  d.serve req d.spdm.capsOk 0x63 pick fun s => { s with algsOk := falcon && shake }

/-- GET_DIGESTS. -/
def Dev.getDigests (req : List Byte) (d : Dev) : Dev := d.serve req d.spdm.algsOk 0x01 (digest256 d.chain) id

/-- GET_CERTIFICATE. -/
def Dev.getCertificate (req : List Byte) (slot offset len : Nat) (d : Dev) : Dev :=
  d.serve req (d.spdm.algsOk && slot = 0 && !d.flag F.secStat_cert_fail 0) 0x02 ((d.chain.drop offset).take len) id

/-- CHALLENGE. -/
def Dev.challenge (req : List Byte) (slot : Nat) (d : Dev) : Dev :=
  d.serve req (d.spdm.algsOk && slot = 0 && !d.flag F.secStat_cert_fail 0) 0x03 (d.aliasSign req) id

/-- GET_MEASUREMENTS: one index, or 0xFF for all, signed. -/
def Dev.getMeasurements (req : List Byte) (index : Nat) (d : Dev) : Dev :=
  let m : Option (List Byte) :=
    if index = 0xFF then some (measIndices.map fun n => (d.measurement n).getD []).flatten else d.measurement index
  match m with
  | some bs => d.serve req d.spdm.algsOk 0x60 (bs ++ d.aliasSign (req ++ bs)) id
  | none => d.serve req false 0x60 [] id

/-- KEY_EXCHANGE: a session in its handshake. -/
def Dev.keyExchange (req : List Byte) (kemOffered : Bool) (d : Dev) : Dev :=
  let n := d.spdm.nextSession
  let good := d.spdm.algsOk && kemOffered && !d.flag F.secStat_noise_fail 0 && !d.flag F.secStat_cert_fail 0
  d.serve req good 0x64 (leBytes 2 n ++ d.aliasSign req) fun s => { s with sessions := SMap.set s.sessions n (false, 0), nextSession := n + 1 }

/-- FINISH: the handshake ends; one that fails its check leaves no session. -/
def Dev.finish (req : List Byte) (session : Nat) (ok : Bool) (d : Dev) : Dev :=
  let opened : Bool := SMap.find d.spdm.sessions session == some (false, 0)
  let d := if opened && !ok then { d with spdm := { d.spdm with sessions := SMap.erase d.spdm.sessions session } } else d
  d.serve req (opened && ok) 0x65 [] fun s => { s with sessions := SMap.set s.sessions session (true, 0) }

/-- Whether a session is established. -/
def Dev.inSession (d : Dev) (session : Nat) : Bool := match SMap.find d.spdm.sessions session with | some s => s.1 | none => false

/-- END_SESSION. -/
def Dev.endSession (req : List Byte) (session : Nat) (d : Dev) : Dev :=
  d.serve req (d.inSession session) 0x6C [] fun s => { s with sessions := SMap.erase s.sessions session }

/-- HEARTBEAT. -/
def Dev.heartbeat (req : List Byte) (session : Nat) (d : Dev) : Dev := d.serve req (d.inSession session) 0x68 [] id

/-- KEY_UPDATE. -/
def Dev.keyUpdate (req : List Byte) (session : Nat) (d : Dev) : Dev :=
  d.serve req (d.inSession session) 0x69 [] fun s =>
    { s with sessions := SMap.set s.sessions session (true, (SMap.get s.sessions (true, 0) session).2 + 1) }

/-- CHUNK_SEND: the chunks of one large request, in order; the last one completes it. -/
def Dev.chunkSend (req : List Byte) (handle seqNo : Nat) (last : Bool) (d : Dev) : Dev :=
  let had := d.spdm.chunkIn.filter fun x => x.1 = handle
  d.serve req (d.spdm.capsOk && seqNo = had.length) 0x05 [] fun s =>
    { s with chunkIn := if last then s.chunkIn.filter fun x => x.1 ≠ handle else s.chunkIn ++ [(handle, seqNo, req)] }

/-- CHUNK_GET: the next chunk of a large response. -/
def Dev.chunkGet (req : List Byte) (handle seqNo : Nat) (d : Dev) : Dev :=
  d.serve req (d.spdm.capsOk && (seqNo = 0 || seqNo = d.spdm.chunkOut)) 0x06 (leBytes 1 handle ++ leBytes 2 seqNo) fun s =>
    { s with chunkOut := seqNo + 1 }

/-- IDE_KM inside a session: keys for the CXL.io or the CXL.cachemem stream; IDE is established once both have them. -/
def Dev.ideKm (req : List Byte) (session : Nat) (cachemem : Bool) (d : Dev) : Dev :=
  let good := d.inSession session && !d.flag F.secStat_noise_fail 0
  let d := d.serve req good 0x7E [] fun s => if cachemem then { s with ideMem := true } else { s with ideIo := true }
  if d.spdm.ideIo && d.spdm.ideMem && d.get F.hostStat_ide 0 = 0 then d.put F.hostStat_ide 0 1 else d

/-! ### The commands -/

/-- TEN_KEY_LOAD (R382). -/
def execTenKeyLoad (fn tenant : Nat) (addr : Word) (s : State) : Host.Outcome State Fault Refusal :=
  run (Instr.wf (.tenKeyLoad fn tenant addr)) (Dev.tenKeyLoad fn tenant addr) s

/-- TEN_RPT (R377). -/
def execTenRpt (fn tenant : Nat) (addr : Word) (s : State) : Host.Outcome State Fault Refusal :=
  run (Instr.wf (.tenRpt fn tenant addr)) (Dev.tenRpt fn tenant addr) s

/-- ERASE (R383). -/
def execErase (fn tenant : Nat) (s : State) : Host.Outcome State Fault Refusal :=
  run (Instr.wf (.erase fn tenant)) (Dev.erase fn tenant) s

/-- COMMIT_SVN (R372). -/
def execCommitSvn (fn : Nat) (flashOk : Bool) (s : State) : Host.Outcome State Fault Refusal :=
  runFlash (Instr.wf (.commitSvn fn flashOk)) (Dev.commitSvn fn flashOk) s

/-- GET_VERSION (R375). -/
def execGetVersion (req : List Byte) (s : State) : Host.Outcome State Fault Refusal :=
  run (Instr.wf (.getVersion req)) (Dev.getVersion req) s

/-- GET_CAPABILITIES (R375). -/
def execGetCapabilities (req : List Byte) (s : State) : Host.Outcome State Fault Refusal :=
  run (Instr.wf (.getCapabilities req)) (Dev.getCapabilities req) s

/-- NEGOTIATE_ALGORITHMS (R375). -/
def execNegotiateAlgorithms (req : List Byte) (falcon shake kem : Bool) (s : State) : Host.Outcome State Fault Refusal :=
  run (Instr.wf (.negotiateAlgorithms req falcon shake kem)) (Dev.negotiateAlgorithms req falcon shake kem) s

/-- GET_DIGESTS (R375). -/
def execGetDigests (req : List Byte) (s : State) : Host.Outcome State Fault Refusal :=
  run (Instr.wf (.getDigests req)) (Dev.getDigests req) s

/-- GET_CERTIFICATE (R376). -/
def execGetCertificate (req : List Byte) (slot offset len : Nat) (s : State) : Host.Outcome State Fault Refusal :=
  run (Instr.wf (.getCertificate req slot offset len)) (Dev.getCertificate req slot offset len) s

/-- CHALLENGE (R375). -/
def execChallenge (req : List Byte) (slot : Nat) (s : State) : Host.Outcome State Fault Refusal :=
  run (Instr.wf (.challenge req slot)) (Dev.challenge req slot) s

/-- GET_MEASUREMENTS (R373). -/
def execGetMeasurements (req : List Byte) (index : Nat) (s : State) : Host.Outcome State Fault Refusal :=
  run (Instr.wf (.getMeasurements req index)) (Dev.getMeasurements req index) s

/-- KEY_EXCHANGE (R375). -/
def execKeyExchange (req : List Byte) (kemOffered : Bool) (s : State) : Host.Outcome State Fault Refusal :=
  run (Instr.wf (.keyExchange req kemOffered)) (Dev.keyExchange req kemOffered) s

/-- FINISH (R375). -/
def execFinish (req : List Byte) (session : Nat) (ok : Bool) (s : State) : Host.Outcome State Fault Refusal :=
  run (Instr.wf (.finish req session ok)) (Dev.finish req session ok) s

/-- END_SESSION (R375). -/
def execEndSession (req : List Byte) (session : Nat) (s : State) : Host.Outcome State Fault Refusal :=
  run (Instr.wf (.endSession req session)) (Dev.endSession req session) s

/-- HEARTBEAT (R375). -/
def execHeartbeat (req : List Byte) (session : Nat) (s : State) : Host.Outcome State Fault Refusal :=
  run (Instr.wf (.heartbeat req session)) (Dev.heartbeat req session) s

/-- KEY_UPDATE (R375). -/
def execKeyUpdate (req : List Byte) (session : Nat) (s : State) : Host.Outcome State Fault Refusal :=
  run (Instr.wf (.keyUpdate req session)) (Dev.keyUpdate req session) s

/-- CHUNK_SEND (R375). -/
def execChunkSend (req : List Byte) (handle seqNo : Nat) (last : Bool) (s : State) : Host.Outcome State Fault Refusal :=
  run (Instr.wf (.chunkSend req handle seqNo last)) (Dev.chunkSend req handle seqNo last) s

/-- CHUNK_GET (R375). -/
def execChunkGet (req : List Byte) (handle seqNo : Nat) (s : State) : Host.Outcome State Fault Refusal :=
  run (Instr.wf (.chunkGet req handle seqNo)) (Dev.chunkGet req handle seqNo) s

/-- IDE_KM (R380). -/
def execIdeKm (req : List Byte) (session : Nat) (cachemem : Bool) (s : State) : Host.Outcome State Fault Refusal :=
  run (Instr.wf (.ideKm req session cachemem)) (Dev.ideKm req session cachemem) s

/-- NOISE_HEALTH_FAILURE (R368). -/
def execNoiseHealthFailure (s : State) : Host.Outcome State Fault Refusal :=
  run (Instr.wf (.noiseHealthFailure)) Dev.noiseHealthFailure s

end Sys2Proof.Machine
end

