-- ==== Sys2Proof/Machine/Boot.lean ====
section
/-! DEFINITION. The flash, the boot chain, recovery, the firmware mailbox, warm and function-level resets (R340, R346, R363 to R371,
R388 to R401). -/

namespace Sys2Proof.Machine

/-! ### Header slots (R391, Table 18.2) -/

/-- The bytes of a header slot. -/
def Flash.slot (f : Flash) (i : Nat) : List Byte := f.array.readN (i * 0x10000) 4096

/-- Whether a slot has its MAGIC and CRC. -/
def slotValid (bs : List Byte) : Bool := fieldAt bs 0 4 = 0x4D4C4E46 && crc32c (bs.take 4092) = fieldAt bs 4092 4

/-- The slot that the ROM uses: the valid one of higher SEQ, slot 0 when they are equal. -/
def Flash.usedSlot (f : Flash) : Option Nat :=
  let a := f.slot 0
  let b := f.slot 1
  if slotValid a && slotValid b then some (if fieldAt a 4 4 < fieldAt b 4 4 then 1 else 0)
  else if slotValid a then some 0
  else if slotValid b then some 1
  else none

/-- The copy of a stage that PREF names: 0 A, 1 B. -/
def prefOf (slot : List Byte) (stage : Nat) : Nat := bitsOf (fieldAt slot 9 1) (stage - 1) 1

/-- The number of the entry of a stage's copy. -/
def entryOf (slot : List Byte) (stage copy : Nat) : Option Nat :=
  (List.range 8).find? fun e => fieldAt slot (64 + 16 * e) 1 = stage && fieldAt slot (65 + 16 * e) 1 = copy

/-- The longest image of a stage. -/
def stageCap (stage : Nat) : Nat := if stage = 1 then 512 * 1024 else if stage = 2 then 4 * 1024 * 1024 else 256 * 1024

/-! ### Images (R369, R392) -/

/-- The image at a copy of a stage: as many bytes as its header's LEN. -/
def Flash.image (f : Flash) (slot : List Byte) (stage copy : Nat) : Option (List Byte) :=
  (entryOf slot stage copy).map fun e =>
    let off := fieldAt slot (68 + 16 * e) 4
    f.array.readN off (min (fieldAt (f.array.readN off 4096) 12 4) (stageCap stage + 1))

/-- The checks of R369 but the counter's, with the form of the header. -/
def imageOk (stage : Nat) (img : List Byte) : Bool :=
  let pub := slice img 16 1793
  let zeroed := img.take 1824 ++ List.replicate 1280 0 ++ img.drop 3104
  fieldAt img 0 4 = 0x4D4C4E49 && fieldAt img 4 1 = stage && 4096 ≤ img.length && img.length ≤ stageCap stage &&
    fieldAt img 12 4 = img.length && shake256 pub 64 = Sys2Proof.Config.rootKeyDigest &&
    Sys2Proof.Config.falconVerify pub (shake256 zeroed 64) (slice img 1824 1280)

/-- Security version of an image. -/
def svnOf (img : List Byte) : Nat := fieldAt img 8 4

/-! ### The signed configuration (R393, R394) -/

/-- The configuration in an image's body, when the body passes R394 for a device. -/
def configOf (deviceId img : List Byte) : Option SignedCfg :=
  let b := img.drop 4096
  let n (o k : Nat) : Nat := fieldAt b o k
  let part := n 4 1
  let named : List (Nat × Nat) := [(5, 3), (82, 2), (86, 2), (94, 2)]
  let good := n 0 4 = 1 && part < 2 && slice b 8 32 = deviceId && popCount 256 (n 40 32) = (if part = 0 then 256 else 224) &&
    bitsOf (n 76 1) 0 4 ≤ 8 && n 77 1 ≤ 5 && n 78 1 < 64 && n 79 1 < 2 && n 80 2 ≤ (if part = 0 then 2200 else 2000) &&
    n 84 1 ≤ 16 && n 85 1 ≤ 64 && n 88 2 ≤ 256 && n 90 2 ≤ 256 && n 92 2 ≤ 16384 &&
    named.all (fun z => allZero (slice b z.1 z.2)) && allZero (b.drop 112)
  if good then
    some ⟨part, n 40 32, n 72 4, bitsOf (n 76 1) 0 4, bitsOf (n 76 1) 4 2, bitsOf (n 76 1) 6 2, n 77 1, n 78 1, n 79 1 = 1, n 80 2,
      n 84 1, n 85 1, n 88 2, n 90 2, n 92 2, n 96 4, n 100 4, n 104 4, n 108 4⟩
  else none

/-! ### The boot chain (R363 to R371, R395) -/

/-- What the ROM finds for a stage: the copy and image that pass, and the events of the copies that fail. -/
structure CopyPick where
  found : Option (Nat × List Byte)
  events : List Nat
  deriving DecidableEq, Repr

/-- Try the PREF copy of a stage, then the other. `low`: the flash counter; `good`: the stage's own checks. -/
def Flash.pick (f : Flash) (slot : List Byte) (stage low : Nat) (good : List Byte → Bool) : CopyPick :=
  let p := prefOf slot stage
  [p, 1 - p].foldl (fun (r : CopyPick) copy =>
    if r.found.isSome then r else
      match f.image slot stage copy with
      | some img =>
        if !(imageOk stage img && good img) then ⟨none, r.events ++ [0x01]⟩
        else if svnOf img < low then ⟨none, r.events ++ [0x02]⟩
        else ⟨some (copy, img), r.events⟩
      | none => ⟨none, r.events ++ [0x01]⟩) ⟨none, []⟩

/-- Log the failed copies of a stage. -/
def Dev.logPick (d : Dev) (stage : Nat) (p : CopyPick) : Dev := d.each p.events fun e d => d.logEvent e stage

/-- BOOT_STAT for a stage: the copy that passed, and whether the PREF copy failed. -/
def Dev.bootCopy (d : Dev) (stage : Nat) (p : CopyPick) : Dev :=
  let copy := match p.found with | some x => x.1 | none => 0
  let d := d.put F.bootStat_copy 0 (setBits (d.get F.bootStat_copy 0) (stage - 1) 1 copy)
  d.put F.bootStat_fallback 0 (setBits (d.get F.bootStat_fallback 0) (stage - 1) 1 (if p.events.isEmpty then 0 else 1))

/-- The device stays in boot, with the stages that have no passing copy (R370). -/
def Dev.stay (d : Dev) (missing : List Nat) : Dev := { d with sec := { d.sec with stuck := true, missing := missing } }

/-- The stages of which no copy passes some checks. -/
def Flash.lacking (f : Flash) (slot : List Byte) (stages : List Nat) (low : Nat) (good : Nat → List Byte → Bool) : List Nat :=
  stages.filter fun s => (f.pick slot s low (good s)).found.isNone

/-- The keys and identifiers that follow from PUFKEY (R364). -/
structure RootKeys where
  root : List Byte
  ctrKey : List Byte
  idPriv : List Byte
  idPub : List Byte
  deviceId : List Byte
  deriving DecidableEq, Repr

/-- Derive them. -/
def rootKeys (pufkey : List Byte) : RootKeys :=
  let root := shake256 (pufkey ++ ascii "MLN-ROOT") 64
  let id := Sys2Proof.Config.falconKeyGen (shake256 (root ++ ascii "MLN-ID") 64)
  ⟨root, shake256 (root ++ ascii "MLN-CTR") 32, id.1, id.2, shake256 id.2 32⟩

/-- The measurements M1 to M5 of Table 17.2. -/
def measOf (loader firmware config calibration : List Byte) : SMap (List Byte) :=
  [(1, Sys2Proof.Config.romMeasurement), (2, digest256 loader), (3, digest256 firmware), (4, digest256 config), (5, digest256 calibration)]

/-- The security root after the last image is verified: alias keys, certificates, measurements, versions. -/
def secOf (old : Sec) (k : RootKeys) (idCert : List Byte) (meas : SMap (List Byte)) (loader firmware config : List Byte) (calUsed : Nat) : Sec :=
  let m (i : Nat) : List Byte := SMap.get meas [] i
  let seed := shake256 (k.root ++ ascii "MLN-ALIAS" ++ m 2 ++ m 3 ++ m 4 ++ m 5) 64
  let alias_ := Sys2Proof.Config.falconKeyGen seed
  let kem := Sys2Proof.Config.kemKeyGen (shake256 (seed ++ ascii "MLN-KEM") 64)
  { old with ctrKey := k.ctrKey, aliasPriv := alias_.1, aliasPub := alias_.2, kemPriv := kem.1, kemPub := kem.2, deviceId := k.deviceId,
             idCert := idCert, aliasCert := Sys2Proof.Config.aliasCert k.idPriv (alias_.2 ++ kem.2) ((meas.map (·.2)).flatten),
             meas := meas, svnLoader := svnOf loader, svnFirmware := svnOf firmware, svnConfig := svnOf config,
             latchClosed := true, stuck := false, missing := [], calUsed := calUsed }

/-- A master's time state stands at MASTER from the start (R414, Table 19.3). -/
def Dev.timeStart (d : Dev) : Dev := if d.flag F.timeCfg_master 0 then d.put F.timeStat_state 0 TimeSt.master else d

/-- Fakin starts: registers from the configuration, the identity, the versions, tenant 0's LOCAL key, load nonces; the boot chain
is complete. -/
def Dev.startFakin (d : Dev) (cfg : SignedCfg) (sec : Sec) (counter : Nat) (certified : Bool) : Dev :=
  let d := { d with cfg := cfg, sec := sec }
  let run := min sec.svnLoader (min sec.svnFirmware sec.svnConfig)
  let d := ((d.put F.secStat_id_ok 0 (if certified then 1 else 0)).put F.secStat_cert_fail 0 (if certified then 0 else 1)).put F.secStat_ctr_ok 0 1
  let d := if certified then d else d.logEvent 0x05 0
  let d := d.each [0, 1, 2, 3] fun j d => d.setReg .secDevid 0 (fieldAt sec.deviceId (8 * j) 8) j
  let d := ((d.put F.secSvn_ctr 0 counter).put F.secSvn_run 0 run).put F.bootStat_cfg_svn 0 sec.svnConfig
  let d := (d.each (List.range 64) fun t d => d.freshNonce t).localKey 0
  (d.timeStart.put F.secStat_stage 0 3).put F.glbInfo_ready 0 1

/-- The ROM's sequence from a slot and a passing calibration image, once PUFKEY passes its check. -/
def Dev.bootWith (d : Dev) (f : Flash) (slot : List Byte) (cal : CopyPick) (calCopy : Nat) (calImg : List Byte) (k : RootKeys) : Flash × Dev :=
  let held : Bool := f.ctrKey.isNone || f.ctrKey == some k.ctrKey
  let f := if f.ctrKey.isNone then { f with ctrKey := some k.ctrKey } else f
  let low := if held then f.counter else 0
  let cfgPick := f.pick slot 3 low fun img => (configOf k.deviceId img).isSome
  let loader := f.pick slot 1 low fun _ => true
  let firmware := f.pick slot 2 low fun _ => true
  let cal : CopyPick := if svnOf calImg < low then
      match f.image slot 4 (1 - calCopy) with
      | some img => if calCopy = prefOf slot 4 && imageOk 4 img && low ≤ svnOf img then ⟨some (1 - calCopy, img), cal.events ++ [0x02]⟩ else ⟨none, cal.events ++ [0x02]⟩
      | none => ⟨none, cal.events ++ [0x02]⟩
    else cal
  let d := (((d.bootCopy 1 loader).bootCopy 2 firmware).bootCopy 3 cfgPick).bootCopy 4 cal
  let d := (((d.logPick 4 cal).logPick 3 cfgPick).logPick 1 loader).logPick 2 firmware
  let d := { d with sec := { d.sec with ctrKey := k.ctrKey, deviceId := k.deviceId, calUsed := calCopy } }
  match loader.found, firmware.found, cfgPick.found, cal.found with
  | some l, some fw, some c, some cl =>
    if !held then (f, (d.logEvent 0x03 0).stay [])
    else
      match configOf k.deviceId c.2 with
      | some cfg =>
        let cert := f.array.readN (fieldAt slot 12 4) (min (fieldAt slot 16 4) 8192)
        let meas := measOf l.2 fw.2 c.2 cl.2
        let sec := secOf d.sec k cert meas l.2 fw.2 c.2 cl.1
        (f, d.startFakin cfg sec f.counter (Sys2Proof.Config.certPublicKey cert = k.idPub))
      | none => (f, d.stay [3])
  | l, fw, c, cl =>
    let missing := (if l.isNone then [1] else []) ++ (if fw.isNone then [2] else []) ++ (if c.isNone then [3] else []) ++ (if cl.isNone then [4] else [])
    let d := if held then (d.put F.secStat_ctr_ok 0 1).put F.secSvn_ctr 0 f.counter else d.logEvent 0x03 0
    (f, d.stay missing)

/-- The ROM's sequence of R395 on a device at reset release, with the raw response of the PUF. -/
def Dev.bootRom (puf : List Byte) (f : Flash) (d : Dev) : Flash × Dev :=
  match f.usedSlot with
  | none => (f, d.stay [1, 2, 3, 4])
  | some si =>
    let slot := f.slot si
    let d := d.put F.bootStat_slot 0 si
    let cal := f.pick slot 4 0 fun _ => true
    match cal.found with
    | none => (f, ((d.bootCopy 4 cal).logPick 4 cal).stay (4 :: f.lacking slot [1, 2, 3] 0 fun _ _ => true))
    | some (copy, img) =>
      let helper := img.drop 4096
      let key := Sys2Proof.Config.pufReconstruct puf helper
      if digest256 key = Sys2Proof.Config.pufCheck helper then d.bootWith f slot cal copy img (rootKeys key)
      else
        let d := ((d.bootCopy 4 cal).logPick 4 cal).put F.secStat_puf_fail 0 1
        let d := { d.logEvent 0x04 0 with sec := { d.sec with calUsed := copy } }
        (f, d.stay (4 :: f.lacking slot [1, 2, 3] 0 fun _ _ => true))

/-- COLD_RESET: reset release; nothing of the device but the power-up domain survives. -/
def Dev.coldReset (puf : List Byte) (f : Flash) (d : Dev) : Flash × Dev := (d.heldInReset true).bootRom puf f

/-! ### Writing an image (R398, R401) -/

/-- Write an image to the copy of its stage, and the header with PREF at that copy and SEQ raised by one to the older slot. -/
def Flash.store (f : Flash) (stage copy : Nat) (img : List Byte) : Option Flash :=
  match f.usedSlot with
  | none => none
  | some si =>
    let slot := f.slot si
    (entryOf slot stage copy).map fun e =>
      let a := f.array.writeN (fieldAt slot (68 + 16 * e) 4) img
      let slot := patch slot 4 (leBytes 4 (fieldAt slot 4 4 + 1))
      let slot := patch slot 9 (leBytes 1 (setBits (fieldAt slot 9 1) (stage - 1) 1 copy))
      let slot := patch slot (72 + 16 * e) (leBytes 4 img.length)
      let slot := patch slot 4092 (leBytes 4 (crc32c (slot.take 4092)))
      { f with array := a.writeN ((1 - si) * 0x10000) slot }

/-- RECOVER, while the device stays in boot: a passing image goes to the copy of its stage that failed; once every stage has a
passing copy, the ROM resets the device itself. After a PUF failure the calibration copy that was used counts as failed, and a
configuration is not checked for the device. -/
def Dev.recover (image : List Byte) (f : Flash) (d : Dev) : Flash × Dev :=
  let stage := fieldAt image 4 1
  let pufFail : Bool := d.flag F.secStat_puf_fail 0
  let low := if d.flag F.secStat_ctr_ok 0 then d.get F.secSvn_ctr 0 else 0
  match d.sec.stuck, f.usedSlot with
  | true, some si =>
    let failed : Bool := d.sec.missing.contains stage || bitOf (d.get F.bootStat_fallback 0) (stage - 1)
    if stage = 0 || !failed then (f, d)
    else if !imageOk stage image || (stage = 3 && !pufFail && !d.sec.deviceId.isEmpty && (configOf d.sec.deviceId image).isNone) then
      (f, d.logEvent 0x01 stage)
    else if svnOf image < low then (f, d.logEvent 0x02 stage)
    else
      let copy := if stage = 4 && pufFail then d.sec.calUsed else prefOf (f.slot si) stage
      match f.store stage copy image with
      | none => (f, d)
      | some f =>
        let left := d.sec.missing.filter (· ≠ stage)
        let d := { d with sec := { d.sec with missing := left } }
        if left.isEmpty then
          let d := { d with freeIdx := d.freeIdx + 1 }
          (d.heldInReset true).bootRom (Sys2Proof.Config.pufResponse d.freeIdx) f
        else (f, d)
  | _, _ => (f, d)

/-! ### Warm device reset (R340) -/

/-- Forget what no register holds of the blocks that a warm reset returns to reset. -/
def Dev.clearBlocks (d : Dev) : Dev :=
  { d with ctxs := [], cores := [], queues := [], rings := [], sets := [], groups := [], ports := [], units := [], tests := [], shares := [],
           cutEdges := [], sends := [], treeEdges := [], mailboxCmd := 0,
           mem := { d.mem with usedTop := [], usedHeart := [], usedBase := [] },
           power := { Power.init with unitOut := d.power.unitOut, cryptoOut := d.power.cryptoOut, clamped := d.power.clamped,
                                      shut := d.power.shut, tokenTime := d.ns },
           sec := { d.sec with keys := [] } }

/-- A warm device reset: every tenant reset; ports, groups and registers of the warm domain; the tenants' keys erased, with a new
LOCAL key for tenant 0; the latches of TIME_HOST_IN and TIME_HOST_OUT are of that domain (Table 21.3). -/
def Dev.warm (d : Dev) : Dev :=
  let d := d.each ((List.range 256).filter fun c => d.ctxState c = CtxSt.tearing) fun c d => d.ctxTeardown c
  let d := d.each (List.range 64) fun t d => d.resetTenant t
  let d := (d.clearBlocks.resetAll .warm).each (List.range 64) fun t d => d.freshNonce t
  let d := { d with time := { d.time with inLatch := [], outLatch := [] } }
  (d.localKey 0).timeStart

/-- Whether firmware runs. -/
def Dev.running (d : Dev) : Bool := d.get F.secStat_stage 0 = 3 && !d.power.shut

/-- WARM_RESET: firmware starts a warm device reset. -/
def Dev.warmReset (d : Dev) : Dev := if d.running then d.warm else d

/-- FLR: a function-level reset, a hot reset or a change of the virtual functions (R346). -/
def Dev.flr (kind : FlrKind) (d : Dev) : Dev :=
  let st := d.get F.hostStat_state 0
  if !d.running || (st ≠ 1 && st ≠ 2) then d
  else match kind with
    | .function n => if n = 0 then d.warm else d.resetTenant n
    | .hot => d.warm
    | .vfDisable n => d.each ((List.range 64).filter fun t => n < t && t ≤ d.cfg.numVf) fun t d => d.resetTenant t

/-! ### The firmware mailbox (R401) -/

/-- A mailbox command ends. -/
def Dev.endMbx (d : Dev) (status : Nat) : Dev :=
  { (d.put F.mbxStat_status 0 status).put F.mbxStat_busy 0 0 with mailboxCmd := 0 }

/-- Run a mailbox command that was written to MBX_CMD and has not ended. -/
def Dev.withMbx (d : Dev) (cmd : Nat) (f : Dev → Dev) : Dev :=
  if d.running && d.flag F.mbxStat_busy 0 && d.mailboxCmd = cmd then f d else d

/-- VERSION. -/
def Dev.version (d : Dev) : Dev :=
  d.withMbx 1 fun d => (d.setReg .mbxRes 0 (d.sec.svnFirmware + Sys2Proof.Config.fwBuild.toNat * 2 ^ 32) 0).endMbx Status.ok

/-- FLASH_WRITE: the image in host memory goes to the copy of its stage that did not boot. -/
def Dev.flashWrite (f : Flash) (d : Dev) : Flash × Dev :=
  if !(d.running && d.flag F.mbxStat_busy 0 && d.mailboxCmd = 2) then (f, d) else
    let stage := d.reg .mbxArg 0 0
    let len := d.reg .mbxArg 0 2
    if stage = 0 || 4 < stage || stageCap stage < len || d.detached then (f, d.endMbx Status.integrity)
    else
      let img := d.hostRead 0 (d.reg .mbxArg 0 1) len
      let copy := 1 - bitsOf (d.get F.bootStat_copy 0) (stage - 1) 1
      if !imageOk stage img || svnOf img < d.get F.secSvn_ctr 0 || (stage = 3 && (configOf d.sec.deviceId img).isNone) then (f, d.endMbx Status.integrity)
      else match f.store stage copy img with
        | some f => (f, d.endMbx Status.ok)
        | none => (f, d.endMbx Status.integrity)

/-- REMOVE_CORE: it waits for the core's next full stop. -/
def Dev.removeCoreCmd (d : Dev) : Dev :=
  d.withMbx 3 fun d =>
    let k := d.reg .mbxArg 0 0
    let st := d.get F.coreState_state k
    if 256 ≤ k || st = CoreSt.absent || st = CoreSt.removed then d.endMbx Status.integrity
    else if d.removable k then (d.removeCore k).endMbx Status.ok
    else d

/-- TIME_ROLE: a master keeps MASTER, a follower starts FREE (R414). -/
def Dev.timeRole (d : Dev) : Dev :=
  d.withMbx 4 fun d =>
    let m := bitsOf (d.reg .mbxArg 0 0) 0 1
    let d := if d.get F.timeCfg_master 0 = m then d
      else (d.put F.timeCfg_master 0 m).put F.timeStat_state 0 (if m = 1 then TimeSt.master else TimeSt.free)
    d.endMbx Status.ok

/-- LOG_READ: the length of the log and its bytes are not stated: the number of bytes written is free, up to ARG1 (log entry 10). -/
def Dev.logRead (d : Dev) : Dev :=
  d.withMbx 5 fun d =>
    let (x, d) := d.freeVal
    let n := x.toNat % (d.reg .mbxArg 0 1 + 1)
    let d := d.hostWrite 0 (d.reg .mbxArg 0 0) ((List.range n).map Sys2Proof.Config.fwLogByte)
    (d.setReg .mbxRes 0 n 0).endMbx Status.ok

/-- WARM_RESET of the mailbox: it completes, then the warm device reset begins. -/
def Dev.mbxWarmReset (d : Dev) : Dev := d.withMbx 6 fun d => (d.endMbx Status.ok).warm

/-! ### The commands -/

/-- COLD_RESET (R395). -/
def execColdReset (puf : List Byte) (s : State) : Host.Outcome State Fault Refusal :=
  runFlash (Instr.wf (.coldReset puf)) (Dev.coldReset puf) s

/-- RECOVER (R398). -/
def execRecover (image : List Byte) (s : State) : Host.Outcome State Fault Refusal :=
  runFlash (Instr.wf (.recover image)) (Dev.recover image) s

/-- WARM_RESET (R340). -/
def execWarmReset (s : State) : Host.Outcome State Fault Refusal :=
  run (Instr.wf (.warmReset)) Dev.warmReset s

/-- FLR (R346). -/
def execFlr (kind : FlrKind) (s : State) : Host.Outcome State Fault Refusal :=
  run (Instr.wf (.flr kind)) (Dev.flr kind) s

/-- VERSION (R401). -/
def execVersion (s : State) : Host.Outcome State Fault Refusal :=
  run (Instr.wf (.version)) Dev.version s

/-- FLASH_WRITE (R401). -/
def execFlashWrite (s : State) : Host.Outcome State Fault Refusal :=
  runFlash (Instr.wf (.flashWrite)) Dev.flashWrite s

/-- REMOVE_CORE (R401). -/
def execRemoveCore (s : State) : Host.Outcome State Fault Refusal :=
  run (Instr.wf (.removeCore)) Dev.removeCoreCmd s

/-- TIME_ROLE (R414). -/
def execTimeRole (s : State) : Host.Outcome State Fault Refusal :=
  run (Instr.wf (.timeRole)) Dev.timeRole s

/-- LOG_READ (R401). -/
def execLogRead (s : State) : Host.Outcome State Fault Refusal :=
  run (Instr.wf (.logRead)) Dev.logRead s

/-- MBX_WARM_RESET (R401). -/
def execMbxWarmReset (s : State) : Host.Outcome State Fault Refusal :=
  run (Instr.wf (.mbxWarmReset)) Dev.mbxWarmReset s

end Sys2Proof.Machine
end

