-- ==== Sys2Proof/Machine/Selftest.lean ====
section
/-! DEFINITION. Self-tests (R422 to R424, Tables 20.1 and 20.2). -/

namespace Sys2Proof.Machine

/-- Indices that a block has (Table 20.1): cores, update units, ports, channel pairs, crypto engines. -/
def testRange (block : Nat) : Nat := if block = 0 then 256 else if block = 1 ∨ block = 2 then 32 else if block = 3 then 8 else 4

/-- Whether a context holds a block (Table 20.2). -/
def Dev.blockHeld (d : Dev) (block index : Nat) : Bool :=
  if block = 0 then d.get F.coreState_state index = CoreSt.held
  else if block = 1 then d.unitNamed index
  else if block = 2 then d.flag F.fabPortCfg_enable index && d.flag F.fabPortStat_level_set index
  else false

/-- Whether a block is a core that the core map does not list. -/
def Dev.noSuchBlock (d : Dev) (block index : Nat) : Bool := block = 0 && d.get F.coreState_state index = CoreSt.absent

/-- SELFTEST: the checks of R422; a request that passes them joins the requests of its block. -/
def Dev.selftest (q i : Nat) (d : Dev) : Dev :=
  d.withDesc q i 11 256 fun _ w bs d =>
    let block := fieldAt bs 17 1
    let index := fieldAt bs 18 2
    let level := fieldAt bs 20 1
    if fieldAt bs 16 1 ≠ 0 || 4 < block || testRange block ≤ index || 1 < level || !allZero (slice bs 21 3) || !allZero (slice bs 28 36) then
      d.complete w Status.internal 0
    else if d.noSuchBlock block index then d.complete w Status.integrity 0
    else { d.accept w with tests := d.tests ++ [⟨block, index, level, some w, d.ns, fieldAt bs 24 4, false⟩] }

/-- FIRMWARE_SELFTEST: Fakin asks for a test of a block that no context holds (Table 18.6). -/
def Dev.firmwareSelftest (block index level : Nat) (d : Dev) : Dev :=
  if d.running && !d.noSuchBlock block index && !d.blockHeld block index then
    { d with tests := d.tests ++ [⟨block, index, level, none, d.ns, 0, false⟩] }
  else d

/-- Whether a request is for a block. -/
def TestReq.on (t : TestReq) (block index : Nat) : Bool := t.block = block && t.index = index

/-- Change the first request for a block. -/
def Dev.modTest (d : Dev) (block index : Nat) (f : TestReq → Option TestReq) : Dev :=
  { d with tests := (d.tests.takeWhile fun t => !t.on block index) ++
      match d.tests.dropWhile fun t => !t.on block index with
      | t :: rest => (f t).toList ++ rest
      | [] => [] }

/-- The first request for a block. -/
def Dev.firstTest (d : Dev) (block index : Nat) : Option TestReq := d.tests.find? fun t => t.on block index

/-- SELFTEST_START: the first request for a block that is not held starts; a domain that is off takes a wake token,
or joins the queue for one, like any wake (R406, Table 20.4). -/
def Dev.selftestStart (block index : Nat) (d : Dev) : Dev :=
  match d.firstTest block index with
  | some t =>
    let n := testDomain block index
    if t.running || d.blockHeld block index || d.power.shut then d
    else if d.domOn n then d.modTest block index fun t => some { t with running := true }
    else
      let d := d.askWake n
      if d.domOn n then d.modTest block index fun t => some { t with running := true } else d
  | none => d

/-- A block fails its test (Table 20.2): a core is removed, a unit or an engine is out of service, a port loses its ENABLE. -/
def Dev.failBlock (d : Dev) (block index : Nat) : Dev :=
  if block = 0 then if d.get F.coreState_state index = CoreSt.free then d.removeCore index else d
  else if block = 1 then { d with power := { d.power with unitOut := (index :: d.power.unitOut).eraseDups } }
  else if block = 2 then
    let d := d.put F.fabPortCfg_enable index 0
    d.portDown index
  else if block = 4 then { d with power := { d.power with cryptoOut := (index :: d.power.cryptoOut).eraseDups } }
  else d

/-- SELFTEST_DONE: the running test of a block ends, with the failing part (0: none) and its duration. -/
def Dev.selftestDone (block index part timeUs : Nat) (d : Dev) : Dev :=
  match d.firstTest block index with
  | some t =>
    if !t.running then d else
      let d := d.modTest block index fun _ => none
      let d := if part = 0 then d else d.failBlock block index
      match t.who with
      | some w => d.complete w Status.ok ((if part = 0 then 0 else 1) + part % 256 * 2 ^ 8 + timeUs % 2 ^ 32 * 2 ^ 16)
      | none => d
  | none => d

/-- SELFTEST_WAIT_EXPIRY: the first waiting request whose WAIT_MS has passed ends with DEFERRED. -/
def Dev.selftestWaitExpiry (block index : Nat) (d : Dev) : Dev :=
  let late (t : TestReq) : Bool := t.on block index && !t.running && 0 < t.waitMs && t.since + t.waitMs * 1000000 ≤ d.ns
  match d.tests.find? late with
  | some t =>
    if !d.blockHeld block index then d else
      let d := { d with tests := d.tests.erase t }
      match t.who with | some w => d.complete w Status.deferred 0 | none => d
  | none => d

/-! ### The commands -/

/-- SELFTEST (R422). -/
def execSelftest (q i : Nat) (s : State) : Host.Outcome State Fault Refusal :=
  run (Instr.wf (.selftest q i)) (Dev.selftest q i) s

/-- SELFTEST_START (R423). -/
def execSelftestStart (block index : Nat) (s : State) : Host.Outcome State Fault Refusal :=
  run (Instr.wf (.selftestStart block index)) (Dev.selftestStart block index) s

/-- SELFTEST_DONE (R423). -/
def execSelftestDone (block index part timeUs : Nat) (s : State) : Host.Outcome State Fault Refusal :=
  run (Instr.wf (.selftestDone block index part timeUs)) (Dev.selftestDone block index part timeUs) s

/-- SELFTEST_WAIT_EXPIRY (R423). -/
def execSelftestWaitExpiry (block index : Nat) (s : State) : Host.Outcome State Fault Refusal :=
  run (Instr.wf (.selftestWaitExpiry block index)) (Dev.selftestWaitExpiry block index) s

/-- FIRMWARE_SELFTEST (R423). -/
def execFirmwareSelftest (block index level : Nat) (s : State) : Host.Outcome State Fault Refusal :=
  run (Instr.wf (.firmwareSelftest block index level)) (Dev.firmwareSelftest block index level) s

end Sys2Proof.Machine
end

