-- ==== Sys2Proof/Machine/RegWrite.lean ====
section
/-! DEFINITION. Host accesses to registers: where an offset stands, who may read and write it, what a write does to its fields
(R7, R58, R326, R337, R343, R432 to R434). -/

namespace Sys2Proof.Machine

/-! ### Where an offset stands (Tables 21.1 to 21.6) -/

/-- A register entry: register, instance, array index. -/
structure RegAt where
  reg : Reg
  inst : Nat
  idx : Nat
  deriving DecidableEq, Repr

/-- The entry of one register at an offset of a BAR, if the offset is one of its entries'. -/
def placeIn (r : Reg) (offset : Nat) : Option RegAt :=
  let s := regSpec r
  let (base, stride, count) := blockPlace s.block
  let rel := offset - base
  let inst := if stride = 0 then 0 else rel / stride
  let within := if stride = 0 then rel else rel % stride
  let k := within - s.offset
  if base ≤ offset && inst < count && s.offset ≤ within && k % s.stride = 0 && k / s.stride < s.count then some ⟨r, inst, k / s.stride⟩ else none

/-- The register entry at an offset of BAR0 or BAR2 that is a multiple of 8. -/
def regAt (bar offset : Nat) : Option RegAt :=
  Reg.all.findSome? fun r => if ((regSpec r).block = .que) = (bar = 2) then placeIn r offset else none

/-! ### Who reads and writes -/

/-- The tenant that owns a ring, a weight set or a collective group, if it exists. -/
def Dev.ringTenant (d : Dev) (r : Nat) : Option Nat := if d.flag F.silRingCfg_valid r then some (d.tenantOf (d.get F.silRingCfg_ctx r)) else none
def Dev.accSetTenant (d : Dev) (w : Nat) : Option Nat := if d.flag F.accSetCfg_valid w then some (d.tenantOf (d.get F.accSetCfg_ctx w)) else none
def Dev.groupTenant (d : Dev) (g : Nat) : Option Nat := if d.flag F.fabGrpCfg_valid g then some (d.tenantOf (d.get F.fabGrpCfg_ctx g)) else none

/-- The registers of a context window that a generation context does not have (Table 21.5). -/
def learningReg (r : Reg) : Bool :=
  [Reg.lrnStep, .lrnClipCfg, .lrnClipStat, .lrnStepStat, .updCtxCnt, .updCtxErr, .updCtxWatch].contains r

/-- Whether a function may read an entry. -/
def Dev.readable (d : Dev) (fn : Nat) (a : RegAt) : Bool :=
  let own (t : Option Nat) : Bool := fn = 0 || t = some fn
  match (regSpec a.reg).block with
  | .glb => if a.reg = .hostWinCfg || a.reg = .hostWinVa then
      d.served && d.flag F.hostWinCfg_valid 0 a.idx && own (some (d.tenantOf (d.get F.hostWinCfg_ctx 0 a.idx)))
    else true
  | .time => d.barOpen
  | .sec => d.barOpen && (fn = 0 || a.reg = .secDevid || a.reg = .secSvn)
  | .mbx => d.served && fn = 0
  | .unit => d.served && fn = 0
  | .pwr | .port | .tier | .fdie | .accGrp | .topo => d.served
  | .ten => d.served && own (some a.inst)
  | .set => d.served && own (d.accSetTenant a.inst)
  | .ring => d.served && own (d.ringTenant a.inst)
  | .fabGrp => d.served && own (d.groupTenant a.inst)
  | .ctx => d.served && !(learningReg a.reg && d.kindOf a.inst = 0) && own (if d.flag F.ctxCfg_valid a.inst then some (d.tenantOf a.inst) else none)
  | .que => d.served && own ((d.ctxOfQueue a.inst).map d.tenantOf)
  | .core =>
    let st := d.get F.coreState_state a.inst
    d.served && st ≠ CoreSt.absent && (fn = 0 || st ≠ CoreSt.held || d.tenantOf (d.get F.coreState_ctx a.inst) = fn)

/-- What a function's read of an entry returns: 0 where it may not read, and 0 in every WO field (R7, R432). -/
def Dev.regView (d : Dev) (fn : Nat) (a : RegAt) : Nat :=
  if !d.readable fn a then 0
  else if a.reg = .timeNow then d.ns
  else if a.reg = .timeFrac then SMap.get d.time.fracLatch 0 fn
  else if a.reg = .timeHostOut then SMap.get d.time.outLatch 0 fn
  else (regFields a.reg).foldl (fun v s => if s.acc = .wo then setBits v s.fld.lo s.fld.w 0 else v) (d.reg a.reg a.inst a.idx)

/-- Whether a function's write to an entry takes effect. -/
def Dev.regWritable (d : Dev) (fn : Nat) (a : RegAt) : Bool :=
  match (regSpec a.reg).block with
  | .glb | .time | .sec => d.barOpen && fn = 0
  | .mbx => d.served && fn = 0 && !d.flag F.mbxStat_busy 0
  | .pwr | .port | .tier | .fdie | .accGrp | .fabGrp => d.served && fn = 0
  | .ten | .unit | .set | .topo => false
  | .ring => d.served && d.ringTenant a.inst = some fn
  | .ctx => d.ctxWritable fn a.inst && !(learningReg a.reg && d.kindOf a.inst = 0)
  | .que => d.queWritable fn a.inst && !d.flag F.queCfg_enable a.inst
  | .core => d.coreWritable fn a.inst

/-! ### What a write does -/

/-- The registers whose writes are commands of their own. -/
def ownRow (r : Reg) : Bool :=
  [Reg.coreCntClr, .kvVbase, .kvPvbase, .kvHvbase, .kvPool, .lrnStep, .tierQuota, .tierProbe, .ckptJobId, .ckptJob, .tenCfg, .tenCreate,
   .tenCtl, .ctxCtl, .queDb, .queCqDb, .queCfg, .hostCtl, .tenKeyLoad, .tenRpt, .tenSecStat, .timeAdj].contains r

/-- The fields that an access of 64 bits, or of the low or the high half, acts on (R434). -/
def reached (wide : Bool) (offset : Nat) (s : FldSpec) : Bool :=
  wide || (if offset % 8 = 0 then s.fld.lo + s.fld.w ≤ 32 else 32 ≤ s.fld.lo)

/-- A write acts on one field by its access type. -/
def writeField (s : FldSpec) (v old : Nat) : Nat :=
  let x := bitsOf v s.fld.lo s.fld.w
  match s.acc with
  | .rw => setBits old s.fld.lo s.fld.w x
  | .w1c => setBits old s.fld.lo s.fld.w (if x = 0 then bitsOf old s.fld.lo s.fld.w else 0)
  | .w1s => if s.fld = F.secCtl_commit_svn || x = 0 then old else setBits old s.fld.lo s.fld.w x
  | .ro | .rc | .wo => old

/-- What follows from a port's ENABLE: 0 holds it DOWN, and a port set to 1 whose peer is named trains. -/
def Dev.portEnabled (d : Dev) (p : Nat) (was : Bool) : Dev :=
  let now := d.flag F.fabPortCfg_enable p
  if was && !now then d.portDown p
  else if !was && now && d.flag F.fabPortStat_level_set p && d.get F.fabPortStat_state p = 0 then d.put F.fabPortStat_state p portTrain
  else d

/-- MBX_CMD starts a command; one outside Table 18.7 ends with INTERNAL. -/
def Dev.startMbx (d : Dev) (cmd : Nat) : Dev :=
  if 1 ≤ cmd && cmd ≤ 6 then { d.put F.mbxStat_busy 0 1 with mailboxCmd := cmd }
  else (d.put F.mbxStat_busy 0 1).endMbx Status.internal

/-- A write that takes effect. -/
def Dev.writeReg (d : Dev) (a : RegAt) (offset : Nat) (wide : Bool) (value : Nat) : Dev :=
  let v := if wide then value else if offset % 8 = 0 then value % 2 ^ 32 else value % 2 ^ 32 * 2 ^ 32
  let fs := (regFields a.reg).filter (reached wide offset)
  let was := d.flag F.fabPortCfg_enable a.inst
  let new := fs.foldl (fun x s => writeField s v x) (d.reg a.reg a.inst a.idx)
  let d := d.setReg a.reg a.inst new a.idx
  if a.reg = .fabPortCfg then d.portEnabled a.inst was
  else if a.reg = .mbxCmd && !fs.isEmpty then d.startMbx (bitsOf v 0 8)
  else d

/-- REG_WRITE: a write to a register that has no command of its own, or to a function's MSI-X table. -/
def Dev.regWrite (fn bar offset : Nat) (wide : Bool) (value : Word) (d : Dev) : Dev :=
  if bar = 2 && 0x4000000 ≤ offset && offset < 0x4008000 then
    if d.served then
      { d with msix := d.msix.writeN (fn * 2 ^ 15 + (offset - 0x4000000)) (leBytes (if wide then 8 else 4) value.toNat) }
    else d
  else
    match regAt bar (offset / 8 * 8) with
    | some a => if !ownRow a.reg && d.regWritable fn a then d.writeReg a offset wide value.toNat else d
    | none => d

/-! ### The commands -/

/-- REG_WRITE (R7). -/
def execRegWrite (fn bar offset : Nat) (wide : Bool) (value : Word) (s : State) : Host.Outcome State Fault Refusal :=
  run (Instr.wf (.regWrite fn bar offset wide value)) (Dev.regWrite fn bar offset wide value) s

end Sys2Proof.Machine
end

