-- ==== Sys2Proof/Machine/Dispatch.lean ====
section
/-! DEFINITION. The dispatch: one arm for each command. -/

namespace Sys2Proof.Machine

/-- The effect of a command on everything but the queue. -/
def exec (i : Instr) (s : State) : Host.Outcome State Fault Refusal :=
  match i with
  | .launch q ix => Sys2Proof.Machine.execLaunch q ix s
  | .clausePlace ref => Sys2Proof.Machine.execClausePlace ref s
  | .clauseComplete ctx id lengths => Sys2Proof.Machine.execClauseComplete ctx id lengths s
  | .handlePush core seq chain handle => Sys2Proof.Machine.execHandlePush core seq chain handle s
  | .handlePop core seq chain => Sys2Proof.Machine.execHandlePop core seq chain s
  | .learningFullStop ctx rsp => Sys2Proof.Machine.execLearningFullStop ctx rsp s
  | .barrierMet ctx rsp => Sys2Proof.Machine.execBarrierMet ctx rsp s
  | .barrierAbort ctx => Sys2Proof.Machine.execBarrierAbort ctx s
  | .generationFullStop ctx => Sys2Proof.Machine.execGenerationFullStop ctx s
  | .coreReset core => Sys2Proof.Machine.execCoreReset core s
  | .coreRemove core => Sys2Proof.Machine.execCoreRemove core s
  | .cntClrStall fn core => Sys2Proof.Machine.execCntClrStall fn core s
  | .cntClrLag fn core => Sys2Proof.Machine.execCntClrLag fn core s
  | .cntClrWcet fn core => Sys2Proof.Machine.execCntClrWcet fn core s
  | .matrixInstruction core seq op rsp => Sys2Proof.Machine.execMatrixInstruction core seq op rsp s
  | .engineOutputWrite core seq op rsp => Sys2Proof.Machine.execEngineOutputWrite core seq op rsp s
  | .conversionInstruction core seq op rsp => Sys2Proof.Machine.execConversionInstruction core seq op rsp s
  | .scaleFormingInstruction core seq op rsp => Sys2Proof.Machine.execScaleFormingInstruction core seq op rsp s
  | .attentionInstruction core seq op rsp => Sys2Proof.Machine.execAttentionInstruction core seq op rsp s
  | .attentionBackward core seq op rsp => Sys2Proof.Machine.execAttentionBackward core seq op rsp s
  | .activationInstruction core seq op rsp => Sys2Proof.Machine.execActivationInstruction core seq op rsp s
  | .activationBackward core seq op rsp => Sys2Proof.Machine.execActivationBackward core seq op rsp s
  | .dropoutInstruction core seq op rsp => Sys2Proof.Machine.execDropoutInstruction core seq op rsp s
  | .normBackward core seq op rsp => Sys2Proof.Machine.execNormBackward core seq op rsp s
  | .vocabHeadInstruction core seq op rsp => Sys2Proof.Machine.execVocabHeadInstruction core seq op rsp s
  | .vocabHeadBackward core seq op rsp => Sys2Proof.Machine.execVocabHeadBackward core seq op rsp s
  | .vectorDraw core seq op => Sys2Proof.Machine.execVectorDraw core seq op s
  | .kvAppendWrite core seq op rsp => Sys2Proof.Machine.execKvAppendWrite core seq op rsp s
  | .start q ix => Sys2Proof.Machine.execStart q ix s
  | .cancel q ix => Sys2Proof.Machine.execCancel q ix s
  | .pause q ix => Sys2Proof.Machine.execPause q ix s
  | .resume q ix => Sys2Proof.Machine.execResume q ix s
  | .pool q ix => Sys2Proof.Machine.execPool q ix s
  | .mask q ix => Sys2Proof.Machine.execMask q ix s
  | .prefillStep ctx seq table => Sys2Proof.Machine.execPrefillStep ctx seq table s
  | .decodeStep ctx pool table scores => Sys2Proof.Machine.execDecodeStep ctx pool table scores s
  | .stepBoundary ctx seq => Sys2Proof.Machine.execStepBoundary ctx seq s
  | .promptShipped ctx seq => Sys2Proof.Machine.execPromptShipped ctx seq s
  | .remotePrefillRefused ctx seq => Sys2Proof.Machine.execRemotePrefillRefused ctx seq s
  | .pauseMoveDone ctx seq => Sys2Proof.Machine.execPauseMoveDone ctx seq s
  | .resumeMoveDone ctx seq => Sys2Proof.Machine.execResumeMoveDone ctx seq s
  | .ttlExpire ctx seq => Sys2Proof.Machine.execTtlExpire ctx seq s
  | .evict q ix => Sys2Proof.Machine.execEvict q ix s
  | .kvBaseWrite fn ctx which value => Sys2Proof.Machine.execKvBaseWrite fn ctx which value s
  | .kvPoolWrite fn ctx pages => Sys2Proof.Machine.execKvPoolWrite fn ctx pages s
  | .silCreate q ix => Sys2Proof.Machine.execSilCreate q ix s
  | .silDestroy q ix => Sys2Proof.Machine.execSilDestroy q ix s
  | .silAppend q ix rsp => Sys2Proof.Machine.execSilAppend q ix rsp s
  | .silDraw q ix rsp => Sys2Proof.Machine.execSilDraw q ix rsp s
  | .recordCommit ring rsp => Sys2Proof.Machine.execRecordCommit ring rsp s
  | .lrnStepWrite fn ctx value => Sys2Proof.Machine.execLrnStepWrite fn ctx value s
  | .upd core seq offset rsp => Sys2Proof.Machine.execUpd core seq offset rsp s
  | .apply ctx id rsp => Sys2Proof.Machine.execApply ctx id rsp s
  | .watch ctx id => Sys2Proof.Machine.execWatch ctx id s
  | .unwatch ctx id => Sys2Proof.Machine.execUnwatch ctx id s
  | .reduce ctx id => Sys2Proof.Machine.execReduce ctx id s
  | .updChunk ctx id unit rsp => Sys2Proof.Machine.execUpdChunk ctx id unit rsp s
  | .factPassB ctx id => Sys2Proof.Machine.execFactPassB ctx id s
  | .updComplete ctx id => Sys2Proof.Machine.execUpdComplete ctx id s
  | .wsCreate q ix rsp => Sys2Proof.Machine.execWsCreate q ix rsp s
  | .send q ix rsp => Sys2Proof.Machine.execSend q ix rsp s
  | .sendComplete q ix => Sys2Proof.Machine.execSendComplete q ix s
  | .wsDestroy q ix => Sys2Proof.Machine.execWsDestroy q ix s
  | .await q ix => Sys2Proof.Machine.execAwait q ix s
  | .accordFlitArrive port flit => Sys2Proof.Machine.execAccordFlitArrive port flit s
  | .bankRelease set => Sys2Proof.Machine.execBankRelease set s
  | .shareDetach group gset epoch edge => Sys2Proof.Machine.execShareDetach group gset epoch edge s
  | .detachFlitArrive flit => Sys2Proof.Machine.execDetachFlitArrive flit s
  | .asmTmo set => Sys2Proof.Machine.execAsmTmo set s
  | .map q ix => Sys2Proof.Machine.execMap q ix s
  | .unmap q ix => Sys2Proof.Machine.execUnmap q ix s
  | .move q ix => Sys2Proof.Machine.execMove q ix s
  | .hint q ix => Sys2Proof.Machine.execHint q ix s
  | .moveGranule ctx id rsp => Sys2Proof.Machine.execMoveGranule ctx id rsp s
  | .tierRequestComplete req va uncorrectable => Sys2Proof.Machine.execTierRequestComplete req va uncorrectable s
  | .tierTimeoutExpiry req va => Sys2Proof.Machine.execTierTimeoutExpiry req va s
  | .patrolScrub tier frame corrected uncorrectable passEnd => Sys2Proof.Machine.execPatrolScrub tier frame corrected uncorrectable passEnd s
  | .tierQuotaWrite fn ctx tier limit => Sys2Proof.Machine.execTierQuotaWrite fn ctx tier limit s
  | .tierProbe fn ctx va => Sys2Proof.Machine.execTierProbe fn ctx va s
  | .dma core seq ch offset next => Sys2Proof.Machine.execDma core seq ch offset next s
  | .dmaWait core seq ch n => Sys2Proof.Machine.execDmaWait core seq ch n s
  | .dmaStat core seq ch => Sys2Proof.Machine.execDmaStat core seq ch s
  | .dmaClr core seq ch => Sys2Proof.Machine.execDmaClr core seq ch s
  | .ptWait core seq n => Sys2Proof.Machine.execPtWait core seq n s
  | .ptStat core seq => Sys2Proof.Machine.execPtStat core seq s
  | .ptClr core seq => Sys2Proof.Machine.execPtClr core seq s
  | .dmaTransfer core ch rsp => Sys2Proof.Machine.execDmaTransfer core ch rsp s
  | .dmaTransferComplete core ch => Sys2Proof.Machine.execDmaTransferComplete core ch s
  | .dmaRetry core ch addr => Sys2Proof.Machine.execDmaRetry core ch addr s
  | .remoteWriteArrive group rank tag dst data rsp => Sys2Proof.Machine.execRemoteWriteArrive group rank tag dst data rsp s
  | .dmaCopy q ix rsp busErrors addr => Sys2Proof.Machine.execDmaCopy q ix rsp busErrors addr s
  | .flitReceive port flit symbols => Sys2Proof.Machine.execFlitReceive port flit symbols s
  | .replayRequest port seq => Sys2Proof.Machine.execReplayRequest port seq s
  | .portTraining port lanes kx => Sys2Proof.Machine.execPortTraining port lanes kx s
  | .laneFail port => Sys2Proof.Machine.execLaneFail port s
  | .retrainTimeout port => Sys2Proof.Machine.execRetrainTimeout port s
  | .portDown port => Sys2Proof.Machine.execPortDown port s
  | .rekey port dir kx => Sys2Proof.Machine.execRekey port dir kx s
  | .rekeyRetry port kx => Sys2Proof.Machine.execRekeyRetry port kx s
  | .keyLimitReached port => Sys2Proof.Machine.execKeyLimitReached port s
  | .group q ix => Sys2Proof.Machine.execGroup q ix s
  | .joinReceive group rank digest => Sys2Proof.Machine.execJoinReceive group rank digest s
  | .groupJoinTimeout group => Sys2Proof.Machine.execGroupJoinTimeout group s
  | .collDestroy q ix => Sys2Proof.Machine.execCollDestroy q ix s
  | .allReduce q ix rsp => Sys2Proof.Machine.execAllReduce q ix rsp s
  | .reduceScatter q ix rsp => Sys2Proof.Machine.execReduceScatter q ix rsp s
  | .allGather q ix rsp => Sys2Proof.Machine.execAllGather q ix rsp s
  | .broadcast q ix rsp => Sys2Proof.Machine.execBroadcast q ix rsp s
  | .barrier q ix => Sys2Proof.Machine.execBarrier q ix s
  | .coll core seq offset rsp => Sys2Proof.Machine.execColl core seq offset rsp s
  | .collWait core seq group n => Sys2Proof.Machine.execCollWait core seq group n s
  | .collStat core seq group => Sys2Proof.Machine.execCollStat core seq group s
  | .collOperationComplete group op rsp => Sys2Proof.Machine.execCollOperationComplete group op rsp s
  | .collAbortTimeout group op => Sys2Proof.Machine.execCollAbortTimeout group op s
  | .abortReceive group op rank cause => Sys2Proof.Machine.execAbortReceive group op rank cause s
  | .collShareDetach group op edge => Sys2Proof.Machine.execCollShareDetach group op edge s
  | .recal fn port => Sys2Proof.Machine.execRecal fn port s
  | .recalStart port => Sys2Proof.Machine.execRecalStart port s
  | .recalComplete port lanes => Sys2Proof.Machine.execRecalComplete port lanes s
  | .area q ix => Sys2Proof.Machine.execArea q ix s
  | .save q ix => Sys2Proof.Machine.execSave q ix s
  | .saveWritesDone ctx rsp => Sys2Proof.Machine.execSaveWritesDone ctx rsp s
  | .saveOutcome ctx rsp => Sys2Proof.Machine.execSaveOutcome ctx rsp s
  | .restore q ix rsp => Sys2Proof.Machine.execRestore q ix rsp s
  | .query q ix rsp => Sys2Proof.Machine.execQuery q ix rsp s
  | .ckptJobWrite fn ctx which value => Sys2Proof.Machine.execCkptJobWrite fn ctx which value s
  | .tenCreate fn tenant value => Sys2Proof.Machine.execTenCreate fn tenant value s
  | .ctxReset fn ctx => Sys2Proof.Machine.execCtxReset fn ctx s
  | .ctxDestroy fn ctx => Sys2Proof.Machine.execCtxDestroy fn ctx s
  | .ctxTeardown ctx => Sys2Proof.Machine.execCtxTeardown ctx s
  | .tenantReset fn tenant => Sys2Proof.Machine.execTenantReset fn tenant s
  | .tenCfgWrite fn tenant value => Sys2Proof.Machine.execTenCfgWrite fn tenant value s
  | .cores q ix => Sys2Proof.Machine.execCores q ix s
  | .coresApply ctx => Sys2Proof.Machine.execCoresApply ctx s
  | .queDb fn q tail => Sys2Proof.Machine.execQueDb fn q tail s
  | .queCqDb fn q head => Sys2Proof.Machine.execQueCqDb fn q head s
  | .queEnable fn q value => Sys2Proof.Machine.execQueEnable fn q value s
  | .queDisable fn q value => Sys2Proof.Machine.execQueDisable fn q value s
  | .descriptorTake ctx lost => Sys2Proof.Machine.execDescriptorTake ctx lost s
  | .completionWrite q => Sys2Proof.Machine.execCompletionWrite q s
  | .topo q ix rsp => Sys2Proof.Machine.execTopo q ix rsp s
  | .base q ix => Sys2Proof.Machine.execBase q ix s
  | .win q ix => Sys2Proof.Machine.execWin q ix s
  | .power q ix => Sys2Proof.Machine.execPower q ix s
  | .thermal q ix => Sys2Proof.Machine.execThermal q ix s
  | .detach q ix => Sys2Proof.Machine.execDetach q ix s
  | .hostWindowRead fn offset len mem rsp => Sys2Proof.Machine.execHostWindowRead fn offset len mem rsp s
  | .hostWindowWrite fn offset mem data rsp => Sys2Proof.Machine.execHostWindowWrite fn offset mem data rsp s
  | .linkL0Timeout => Sys2Proof.Machine.execLinkL0Timeout s
  | .ideFailure => Sys2Proof.Machine.execIdeFailure s
  | .viral => Sys2Proof.Machine.execViral s
  | .reattach fn => Sys2Proof.Machine.execReattach fn s
  | .hostAttach => Sys2Proof.Machine.execHostAttach s
  | .hostLinkTrainingStart => Sys2Proof.Machine.execHostLinkTrainingStart s
  | .flr kind => Sys2Proof.Machine.execFlr kind s
  | .tenKeyLoad fn tenant addr => Sys2Proof.Machine.execTenKeyLoad fn tenant addr s
  | .tenRpt fn tenant addr => Sys2Proof.Machine.execTenRpt fn tenant addr s
  | .erase fn tenant => Sys2Proof.Machine.execErase fn tenant s
  | .commitSvn fn flashOk => Sys2Proof.Machine.execCommitSvn fn flashOk s
  | .getVersion req => Sys2Proof.Machine.execGetVersion req s
  | .getCapabilities req => Sys2Proof.Machine.execGetCapabilities req s
  | .negotiateAlgorithms req falcon shake kem => Sys2Proof.Machine.execNegotiateAlgorithms req falcon shake kem s
  | .getDigests req => Sys2Proof.Machine.execGetDigests req s
  | .getCertificate req slot offset len => Sys2Proof.Machine.execGetCertificate req slot offset len s
  | .challenge req slot => Sys2Proof.Machine.execChallenge req slot s
  | .getMeasurements req index => Sys2Proof.Machine.execGetMeasurements req index s
  | .keyExchange req kemOffered => Sys2Proof.Machine.execKeyExchange req kemOffered s
  | .finish req session ok => Sys2Proof.Machine.execFinish req session ok s
  | .endSession req session => Sys2Proof.Machine.execEndSession req session s
  | .heartbeat req session => Sys2Proof.Machine.execHeartbeat req session s
  | .keyUpdate req session => Sys2Proof.Machine.execKeyUpdate req session s
  | .chunkSend req handle seqNo last => Sys2Proof.Machine.execChunkSend req handle seqNo last s
  | .chunkGet req handle seqNo => Sys2Proof.Machine.execChunkGet req handle seqNo s
  | .ideKm req session cachemem => Sys2Proof.Machine.execIdeKm req session cachemem s
  | .noiseHealthFailure => Sys2Proof.Machine.execNoiseHealthFailure s
  | .coldReset puf => Sys2Proof.Machine.execColdReset puf s
  | .recover image => Sys2Proof.Machine.execRecover image s
  | .warmReset => Sys2Proof.Machine.execWarmReset s
  | .version => Sys2Proof.Machine.execVersion s
  | .flashWrite => Sys2Proof.Machine.execFlashWrite s
  | .removeCore => Sys2Proof.Machine.execRemoveCore s
  | .timeRole => Sys2Proof.Machine.execTimeRole s
  | .logRead => Sys2Proof.Machine.execLogRead s
  | .mbxWarmReset => Sys2Proof.Machine.execMbxWarmReset s
  | .wakeRequest domain => Sys2Proof.Machine.execWakeRequest domain s
  | .wakeGrant => Sys2Proof.Machine.execWakeGrant s
  | .tokenRefill => Sys2Proof.Machine.execTokenRefill s
  | .domainIdleOff domain => Sys2Proof.Machine.execDomainIdleOff domain s
  | .selfThrottleSample domain temp => Sys2Proof.Machine.execSelfThrottleSample domain temp s
  | .junctionClampStep domain temp => Sys2Proof.Machine.execJunctionClampStep domain temp s
  | .packageFloorSample watts => Sys2Proof.Machine.execPackageFloorSample watts s
  | .currentClamp rail milliamps => Sys2Proof.Machine.execCurrentClamp rail milliamps s
  | .thermalShutdown die => Sys2Proof.Machine.execThermalShutdown die s
  | .railMonitorTrip rail => Sys2Proof.Machine.execRailMonitorTrip rail s
  | .powerLoss => Sys2Proof.Machine.execPowerLoss s
  | .beaconSend => Sys2Proof.Machine.execBeaconSend s
  | .beaconReceive port rank hop time => Sys2Proof.Machine.execBeaconReceive port rank hop time s
  | .linkDelayMeasure port delayPs => Sys2Proof.Machine.execLinkDelayMeasure port delayPs s
  | .holdover => Sys2Proof.Machine.execHoldover s
  | .timeAdj fn value => Sys2Proof.Machine.execTimeAdj fn value s
  | .tsyncInEdge time => Sys2Proof.Machine.execTsyncInEdge time s
  | .wholeSecond => Sys2Proof.Machine.execWholeSecond s
  | .timeNowRead fn half => Sys2Proof.Machine.execTimeNowRead fn half s
  | .timeHostInRead fn wide departNs => Sys2Proof.Machine.execTimeHostInRead fn wide departNs s
  | .selftest q ix => Sys2Proof.Machine.execSelftest q ix s
  | .selftestStart block index => Sys2Proof.Machine.execSelftestStart block index s
  | .selftestDone block index part timeUs => Sys2Proof.Machine.execSelftestDone block index part timeUs s
  | .selftestWaitExpiry block index => Sys2Proof.Machine.execSelftestWaitExpiry block index s
  | .regWrite fn bar offset wide value => Sys2Proof.Machine.execRegWrite fn bar offset wide value s
  | .hostLinkTrained width rate => Sys2Proof.Machine.execHostLinkTrained width rate s
  | .configRequest fn => Sys2Proof.Machine.execConfigRequest fn s
  | .currentClampRelease rail => Sys2Proof.Machine.execCurrentClampRelease rail s
  | .resetPinAssert => Sys2Proof.Machine.execResetPinAssert s
  | .firmwareSelftest block index level => Sys2Proof.Machine.execFirmwareSelftest block index level s

end Sys2Proof.Machine
end

