-- ==== Sys2Proof/Safety.lean ====
section
/-! DEFINITION. What a safe run is: every step answers a next state; and the terms in which claims name where a command
completes. -/

namespace Sys2Proof.Machine

/-- A state whose step neither faults nor is refused. -/
def Steps (s : State) : Prop := ∃ t, step s = .next t

/-- Every command that waits names something the device has. -/
def State.WellFormed (s : State) : Prop := ∀ i ∈ s.pending, i.wf = true

/-- A state with another device and everything else as it was. -/
def State.withDev (s : State) (d : Dev) : State := { s with dev := d }

/-- Some steps in a row, up to the first that stops. -/
def steps : Nat → State → Host.Outcome State Fault Refusal
  | 0, s => .next s
  | n + 1, s =>
    match step s with
    | .next t => steps n t
    | o => o

/-- The draw ports of a core hold windows of their tiles' sequences: what draws leave, from no tile at all on (R223). -/
def Dev.PortsSound (d : Dev) (core : Nat) : Prop :=
  ∀ (port : Nat) (g : GenPort), SMap.find (d.core core).ports port = some g →
    g.words = advance g.index (tileSeed g.seed g.tensor g.row g.col)

/-- The commands that read or write the attached flash: the boot, recovery, and the two that store to it (R390, R372). -/
def usesFlash : Instr → Bool
  | .coldReset _ => true
  | .recover _ => true
  | .flashWrite => true
  | .commitSvn _ _ => true
  | _ => false

/-- A descriptor of a class and an operation (256: any) stands taken, and not yet accepted, at index `i` of queue `q` of
context `c`: `w` names it and `bs` are its 64 bytes. -/
def Dev.Stands (d : Dev) (q i cls op c : Nat) (w : Waiter) (bs : List Byte) : Prop :=
  q < 16384 ∧ i < 65536 ∧ d.ctxOfQueue q = some c ∧ (∃ o sd tm, d.desc q i = some ⟨i, w.period, bs, false, o, sd, tm⟩) ∧
    w.q = q ∧ w.idx = i ∧ fieldAt bs 0 1 = cls ∧ (op = 256 ∨ fieldAt bs 16 1 = op)

/-- Clause `y` of context `c` runs on a core's sequencer, and neither a current clamp nor throttling withholds the core's clock. -/
def Dev.Runs (d : Dev) (core seq c : Nat) (y : Clause) : Prop :=
  core < 256 ∧ seq < 3 ∧ d.clauseOn core seq = some (c, y) ∧ d.withheld core = false

/-- Clause `y` of context `c` runs, and the loaded slot table gives its sequencer one of the units that an instruction needs (R28). -/
def Dev.Ready (d : Dev) (core seq c : Nat) (y : Clause) (units : List Nat) : Prop :=
  d.Runs core seq c y ∧ units.any (d.slotGives core seq) = true

/-- A part of an instruction gives a value and a device, and does not fault its context. -/
def Gives {α : Type} (m : ClauseM α) (d : Dev) (x : α) (d' : Dev) : Prop := m d = .ok x d'

/-- A completion is due on a waiter's queue: its status and result word, last in the queue's order. -/
def Dev.DueLast (d : Dev) (w : Waiter) (status result : Nat) : Prop :=
  ∃ earlier, (d.queue w.q).due = earlier ++ [⟨w.idx, w.period, status, result⟩]

/-- The queue of a descriptor is in the enable period in which it was taken, so its completion is not dropped (R333). -/
def Dev.Awaited (d : Dev) (w : Waiter) : Prop :=
  d.flag F.queCfg_enable w.q = true ∧ (d.queue w.q).period = w.period

end Sys2Proof.Machine
end

