-- ==== Sys2Proof/Certificates/Slice0/Obligations.lean ====
section
/-! DEFINITION. The statements about the model: for each family of commands where they complete and with what effect, and
the manual's rules over commands, registers, memories and steps. -/

open Sys2Proof Sys2Proof.Machine

/-! ### The machine -/

/-- A step with a command in front of the queue is that command's effect with the rest of the queue. -/
def Obligations.StepRunsTheFrontCommand : Prop :=
  ∀ (s : State) (i : Instr) (rest : List Instr),
    step { s with pending := i :: rest } = exec i { s with pending := rest }

/-- A command that names something the device does not have stops, by name (the model's choice of a stop, log entry 16); every
other command answers a next state. -/
def Obligations.CommandsStopOnlyOnAbsentUnits : Prop :=
  ∀ (i : Instr) (s : State), (i.wf = false → exec i s = .fault .noSuchInstance) ∧ (i.wf = true → ∃ t, exec i s = .next t)

/-- No command changes the queue of the commands behind it. -/
def Obligations.CommandsKeepTheQueue : Prop :=
  ∀ (i : Instr) (s t : State), exec i s = .next t → t.pending = s.pending

/-! ### Clauses (chapter 2) -/

/-- LAUNCH, with a descriptor and a context that pass the first checks of Table 2.4: where its image passes too and the context's
kind allows the clause, it queues the clause behind those whose descriptors were taken before its own; where the image does not, it ends with the image's status. -/
def Obligations.LaunchQueuesItsClause : Prop :=
  ∀ (s : State) (q i c : Nat) (w : Waiter) (bs : List Byte) (r : Except Nat (List Byte)) (d1 : Dev),
    s.dev.Stands q i 1 256 c w bs → launchForm bs = true → fieldAt bs 24 2 ≠ 0 →
    fieldAt bs 24 2 ≤ (s.dev.coresOf c).length → s.dev.loadImage c (fieldAt bs 16 8) = (r, d1) →
    genAllowed (d1.kindOf c) (bitOf (fieldAt bs 27 1) 0) (fieldAt bs 26 1) = true →
    ∃ t, exec (.launch q i) s = .next t ∧
      (∀ h, r = .ok h → ∃ y, (t.dev.ctx c).clauses = insertClause y (d1.ctx c).clauses ∧
        (∀ x, s.dev.desc q i = some x → y.ord = x.ord) ∧ y.ref = .desc q i ∧ y.who = some w ∧ y.placed = false ∧ y.k = fieldAt bs 24 2 ∧ y.tense = fieldAt bs 26 1 ∧
        y.gen = bitOf (fieldAt bs 27 1) 0 ∧ y.expectCyc = fieldAt bs 32 4 ∧ y.wcetCyc = fieldAt bs 36 4 ∧
        y.digest = slice h 664 64) ∧
      (∀ st, r = .error st → d1.Awaited w → t.dev.DueLast w st 0 ∧ (t.dev.ctx c).clauses = (d1.ctx c).clauses)

/-- A waiting clause that is first among those that can be placed, of a LAUNCH or of a pool's step, is placed on its context's
lowest-numbered eligible cores, on all of them at once; a core that leaves at the next full stop takes none (log entry 70). -/
def Obligations.PlacementTakesTheLowestEligibleCores : Prop :=
  ∀ (s : State) (ref : ClauseRef) (c : Nat) (y : Clause), wfRef ref = true →
    (match ref with | .desc q _ => s.dev.ctxOfQueue q | .step x _ _ => some x) = some c → s.dev.working c = true →
    (s.dev.ctx c).clauses.find? (s.dev.placeable c) = some y → y.ref = ref →
    ∃ t, exec (.clausePlace ref) s = .next t ∧ t = s.withDev (s.dev.placeClause c y) ∧
      ((s.dev.eligibles c y).take y.k).length = y.k ∧
      (∀ k ∈ (s.dev.eligibles c y).take y.k, s.dev.eligible c y k = true ∧ k ∈ s.dev.coresOf c) ∧
      (∀ k ∈ (s.dev.eligibles c y).take y.k, ∀ k' ∈ s.dev.coresOf c, s.dev.eligible c y k' = true →
        k' ∉ s.dev.leaving → k' ∉ (s.dev.eligibles c y).take y.k → k < k')

/-- A placed clause whose sequencers issue and whose transfers have completed completes: it leaves its context, and its LAUNCH
completes OK with result word 0. -/
def Obligations.ClauseCompletionEndsItsLaunch : Prop :=
  ∀ (s : State) (c id : Nat) (lengths : List Nat) (y : Clause) (w : Waiter), c < 256 → s.dev.working c = true →
    (s.dev.ctx c).clauses.find? (fun z => z.id = id) = some y → y.placed = true → y.who = some w →
    lengths.length = y.cores.length → s.dev.Awaited w →
    (∀ k ∈ y.cores, s.dev.get F.coreSeqStat_state k y.tense = SeqSt.issue ∧ s.dev.xfersDone k y.tense = true) →
    ∃ t, exec (.clauseComplete c id lengths) s = .next t ∧ (∀ z ∈ (t.dev.ctx c).clauses, z.id ≠ id) ∧ t.dev.DueLast w 0 0

/-- HANDLE_PUSH gives the handle to the next core of the chain's consumer, last in the bound queue, once the sequencer's
transfers have completed; HANDLE_POP takes the oldest handle of the queue bound on its core, and one whose FMT is reserved faults the context. -/
def Obligations.HandlesPassInOrder : Prop :=
  (∀ (s : State) (core seq chain c k hq : Nat) (y : Clause) (h : Chain) (v : Word), s.dev.Runs core seq c y → chain < 1024 →
    SMap.find (s.dev.ctx c).chains chain = some h → h.bound[h.turn % max 1 h.bound.length]? = some (k, hq) → k < 256 → hq < 32 →
    s.dev.get F.coreHqStat_fill k hq < 64 → s.dev.xfersDone core seq = true →
    ∃ t, exec (.handlePush core seq chain v) s = .next t ∧
      SMap.get (t.dev.core k).handles [] hq = SMap.get (s.dev.core k).handles [] hq ++ [v] ∧
      t.dev.get F.coreHqStat_fill k hq = s.dev.get F.coreHqStat_fill k hq + 1 ∧
      t.dev.get F.coreSeqStat_state core seq = SeqSt.issue) ∧
  (∀ (s : State) (core seq chain c hq : Nat) (y : Clause) (h : Chain) (v : Word) (rest : List Word),
    s.dev.Runs core seq c y → chain < 1024 → SMap.find (s.dev.ctx c).chains chain = some h → h.clause = y.id →
    h.bound.find? (fun p => p.1 = core) = some (core, hq) → hq < 32 → rest.length < 64 →
    SMap.get (s.dev.core core).handles [] hq = v :: rest →
    ∃ t, exec (.handlePop core seq chain) s = .next t ∧
      (bitsOf v.toNat 56 4 ≠ 0xF → t.dev.out = .toClause core seq v.toNat :: s.dev.out ∧
        SMap.get (t.dev.core core).handles [] hq = rest ∧ t.dev.get F.coreHqStat_fill core hq = rest.length) ∧
      (bitsOf v.toNat 56 4 = 0xF → t.dev = ((((s.dev.issues core seq).modCore core fun x =>
        { x with handles := SMap.set x.handles hq rest }).put F.coreHqStat_fill core rest.length hq).faultCtx c
          Status.formatUnknown core seq 0)))

/-! ### Full stops (chapters 2, 7) -/

/-- The learning full stop, once the conditions of R47 hold, rounds and clears the partial sums, discards the role's handles and
enters the job's barrier with the device's own flag and sum: a job of one device meets it at once, a group's enters the group's series.
A job's barrier is met where its operation has brought the flag and the sum, and aborted with its operation or after it; a generation
full stop empties the handle queues of the cores that a pending request names. -/
def Obligations.FullStopsComplete : Prop :=
  (∀ (s : State) (c : Nat) (rsp : TierRsp) (d1 : Dev), c < 256 → s.dev.working c = true →
    s.dev.get F.lrnStepStat_phase c = LrnSt.run → s.dev.stopReady c = true →
    d1 = (((s.dev.clearSums c).discardHandles (s.dev.lrnCores c)).put F.lrnStepStat_phase c LrnSt.stopping).modCtx c
      (fun x => { x with inBarrier := true }) →
    (d1.jobGroup c = none → exec (.learningFullStop c rsp) s =
      .next (s.withDev (d1.barrierEffect c (s.dev.ownFlag c) (s.dev.ownSum c) rsp))) ∧
    (∀ g, d1.jobGroup c = some g → d1.inGroup c g = true → exec (.learningFullStop c rsp) s =
      .next (s.withDev (d1.enterBarrier c g (s.dev.ownFlag c) (s.dev.ownSum c) rsp))) ∧
    (∀ g, d1.jobGroup c = some g → d1.inGroup c g = false → exec (.learningFullStop c rsp) s = .next (s.withDev (d1.abortEffect c)))) ∧
  (∀ (s : State) (c g : Nat) (rsp : TierRsp) (o : CollOp), c < 256 → s.dev.jobGroup c = some g →
    (s.dev.group g).stopOp = some o → (s.dev.ctx c).inBarrier = true → s.dev.working c = true → s.dev.inGroup c g = true →
    o.ready (s.dev.ranksOf g) s.dev.ownRank = true →
    exec (.barrierMet c rsp) s =
      .next (s.withDev ((s.dev.finishOp g o Status.ok 0 rsp).barrierEffect c o.stopResult.2 o.stopResult.1 rsp))) ∧
  (∀ (s : State) (c g : Nat) (o : CollOp) (t0 : Nat), c < 256 → s.dev.jobGroup c = some g → (s.dev.ctx c).inBarrier = true →
    s.dev.working c = true → s.dev.inGroup c g = true → (s.dev.group g).stopOp = some o → s.dev.get F.fabGrpCfg_mode g ≠ 1 →
    o.issued = some t0 → t0 + 1000 * s.dev.get F.fabGrpCtl_tmo_us g < s.dev.ns →
    exec (.barrierAbort c) s = .next (s.withDev ((s.dev.abortOp g o.num (s.dev.groupRank g) 1).abortEffect c))) ∧
  (∀ (s : State) (c g : Nat), c < 256 → s.dev.jobGroup c = some g → (s.dev.ctx c).inBarrier = true →
    s.dev.working c = true → (s.dev.group g).stopOp = none →
    exec (.barrierAbort c) s = .next (s.withDev (s.dev.abortEffect c))) ∧
  (∀ (s : State) (c : Nat) (ks : List Nat), c < 256 → s.dev.working c = true →
    ks = (s.dev.ctx c).stopping.filter (fun k => s.dev.ownsCore c k && s.dev.genRole k) → ks ≠ [] →
    (∀ k ∈ ks, s.dev.coreStopped k = true) →
    exec (.generationFullStop c) s =
      .next (s.withDev (((((s.dev.discardHandles ks).clearHalts ks).endStepWait ks).issueHeld ks).removeSlow c ks)))

/-! ### Cores (chapters 1, 2) -/

/-- A core that no working context holds is reset: its local store, handles, sequencers, channels, generator and registers of
core domain return to their reset values. A core is removed where it is FREE or at a full stop of its role. Whoever may write a
core's window clears its counters. -/
def Obligations.CoreCommandsComplete : Prop :=
  (∀ (s : State) (k : Nat), k < 256 → s.dev.get F.coreState_state k = CoreSt.free →
    exec (.coreReset k) s = .next (s.withDev (s.dev.resetCore k))) ∧
  (∀ (s : State) (k : Nat), k < 256 → s.dev.get F.coreState_state k = CoreSt.free →
    ∃ t, exec (.coreRemove k) s = .next t ∧ t.dev.get F.coreState_state k = CoreSt.removed) ∧
  (∀ (s : State) (fn k j : Nat), fn < 64 → k < 256 → j < 24 → s.dev.coreWritable fn k = true →
    ∃ t, exec (.cntClrStall fn k) s = .next t ∧ t.dev.get F.coreStallCtr_count k j = 0) ∧
  (∀ (s : State) (fn k : Nat), fn < 64 → k < 256 → s.dev.coreWritable fn k = true →
    ∃ t, exec (.cntClrLag fn k) s = .next t ∧ t.dev.get F.coreLagCyc_lag k = 0) ∧
  (∀ (s : State) (fn k : Nat), fn < 64 → k < 256 → s.dev.coreWritable fn k = true →
    ∃ t, exec (.cntClrWcet fn k) s = .next t ∧ t.dev.get F.coreWcetOvr_count k = 0 ∧ t.dev.get F.coreWcetOvr_last_over k = 0)

/-- A core reset leaves every register of core domain of that core at its reset value, its record empty, and every other
register, core and memory as before. -/
def Obligations.CoreResetScope : Prop :=
  ∀ (s : State) (k : Nat), k < 256 → s.dev.get F.coreState_state k = CoreSt.free →
    ∃ t, exec (.coreReset k) s = .next t ∧ t.dev.core k = Core.init ∧
      (∀ (r : Reg) (j : Nat), (regSpec r).block = .core → (regSpec r).dom = .core →
        t.dev.reg r k j = (resetWord s.dev.cfg r k j).toNat) ∧
      (∀ (r : Reg) (i j : Nat), ((regSpec r).block ≠ .core ∨ (regSpec r).dom ≠ .core ∨ i ≠ k) →
        t.dev.reg r i j = s.dev.reg r i j) ∧
      (∀ k', k' ≠ k → t.dev.core k' = s.dev.core k') ∧ t.dev.mem = s.dev.mem ∧ t.dev.ctxs = s.dev.ctxs

/-! ### Generation (chapters 4, 5) -/

/-- The descriptors of generation complete with their effects: a START that admission takes is admitted; CANCEL, PAUSE, RESUME
and EVICT act on a live rollout; POOL creates and deletes; MASK fills a slot. -/
def Obligations.GenerationDescriptorsComplete : Prop :=
  (∀ (s : State) (q i c : Nat) (w : Waiter) (bs : List Byte) (x : Pool) (g : Got) (d1 : Dev), s.dev.Stands q i 4 0 c w bs →
    startForm bs = true → s.dev.rollout c (fieldAt bs 20 3) = none →
    s.dev.mapped c (fieldAt bs 32 8) (4 * fieldAt bs 24 4) = true → fieldAt bs 54 2 < 1024 →
    s.dev.ringOf c (fieldAt bs 54 2) = true →
    s.dev.startPools c (bitsOf (fieldAt bs 18 1) 0 4) (bitsOf (fieldAt bs 18 1) 4 4) = some x →
    s.dev.admission c (bitsOf (fieldAt bs 18 1) 0 4) x (fieldAt bs 24 4) (fieldAt bs 28 4) (fieldAt bs 40 4)
      (bitOf (fieldAt bs 17 1) 0) = none →
    s.dev.readVa c none [] (fieldAt bs 32 8) (4 * fieldAt bs 24 4) = (g, d1) →
    exec (.start q i) s = .next (s.withDev (d1.takeIn c w bs x g.raw))) ∧
  (∀ (s : State) (q i c : Nat) (w : Waiter) (bs : List Byte) (r : Rollout), s.dev.Stands q i 4 1 c w bs →
    seqForm bs false = true → s.dev.rollout c (fieldAt bs 20 3) = some r → r.st = .running →
    exec (.cancel q i) s = .next (s.withDev ((s.dev.accept w).modRollout c (fieldAt bs 20 3) fun r => { r with cancels := r.cancels ++ [w] }))) ∧
  (∀ (s : State) (q i c : Nat) (w : Waiter) (bs : List Byte) (r : Rollout), s.dev.Stands q i 4 1 c w bs →
    seqForm bs false = true → s.dev.rollout c (fieldAt bs 20 3) = some r → r.st = .paused →
    exec (.cancel q i) s = .next (s.withDev ((s.dev.complete w Status.ok 0).endRollout c (fieldAt bs 20 3) Status.cancelled 1))) ∧
  (∀ (s : State) (q i c : Nat) (w : Waiter) (bs : List Byte) (r : Rollout), s.dev.Stands q i 4 2 c w bs →
    seqForm bs true = true → 1000 ≤ fieldAt bs 24 4 → fieldAt bs 24 4 ≤ 3600000000 →
    s.dev.rollout c (fieldAt bs 20 3) = some r → r.st = .running →
    exec (.pause q i) s = .next (s.withDev ((s.dev.accept w).modRollout c (fieldAt bs 20 3) fun r => { r with pauses := r.pauses ++ [(w, fieldAt bs 24 4)] }))) ∧
  (∀ (s : State) (q i c : Nat) (w : Waiter) (bs : List Byte) (r : Rollout), s.dev.Stands q i 4 3 c w bs →
    seqForm bs false = true → s.dev.rollout c (fieldAt bs 20 3) = some r → r.st = .paused →
    (∃ x, s.dev.desc q i = some x ∧ x.time < r.expiry.getD 0) → s.dev.rangeHeld c r = false →
    exec (.resume q i) s = .next (s.withDev ((s.dev.accept w).applyResume c (fieldAt bs 20 3) w))) ∧
  (∀ (s : State) (q i c : Nat) (w : Waiter) (bs : List Byte) (prog : List Nat) (x : Pool) (d1 : Dev), s.dev.Stands q i 4 4 c w bs →
    poolForm bs = true → s.dev.poolLive c (poolId bs) = false → fieldAt bs 20 2 ≠ 0 → s.dev.poolWrong c bs = false →
    fieldAt bs 20 2 ≤ (s.dev.poolFree c (poolId bs)).length →
    (bitOf (fieldAt bs 17 1) 6 = true → s.dev.pinnedElsewhere c < 16) →
    s.dev.stepProgram c (fieldAt bs 24 8) = (.ok prog, d1) →
    x = poolFrom bs ((s.dev.poolFree c (poolId bs)).take (fieldAt bs 20 2)) prog →
    d1.windowsBlocked c (x.sets.filter fun n => !((d1.poolOf c (poolId bs)).elim [] Pool.sets).contains n) = false →
    d1.tablesFit c (d1.withWindows c x.sets) 0 = true →
    exec (.pool q i) s =
      .next (s.withDev ((d1.makePool c (poolId bs) x (bitOf (fieldAt bs 17 1) 7)).complete w Status.ok 0))) ∧
  (∀ (s : State) (q i c : Nat) (w : Waiter) (bs : List Byte), s.dev.Stands q i 4 4 c w bs →
    poolForm bs = true → s.dev.poolLive c (poolId bs) = false → fieldAt bs 20 2 = 0 →
    exec (.pool q i) s = .next (s.withDev ((s.dev.deletePool c (poolId bs)).complete w Status.ok 0))) ∧
  (∀ (s : State) (q i c : Nat) (w : Waiter) (bs : List Byte) (g : Got) (d1 : Dev), s.dev.Stands q i 4 5 c w bs →
    fieldAt bs 18 2 < 64 → 1 ≤ fieldAt bs 20 4 → fieldAt bs 20 4 ≤ 2 ^ 20 → fieldAt bs 24 8 % 64 = 0 → fieldAt bs 17 1 = 0 →
    allZero (slice bs 32 32) = true → s.dev.readVa c none [] (fieldAt bs 24 8) (ceilDiv (fieldAt bs 20 4) 8) = (g, d1) →
    g.bad = none → ∃ t, exec (.mask q i) s = .next t ∧
      SMap.find (t.dev.ctx c).masks (fieldAt bs 18 2) = some (fieldAt bs 20 4, g.raw) ∧ (d1.Awaited w → t.dev.DueLast w 0 0)) ∧
  (∀ (s : State) (q i c : Nat) (w : Waiter) (bs : List Byte) (r : Rollout) (p : Pool), s.dev.Stands q i 9 256 c w bs →
    fieldAt bs 16 1 = 0 → fieldAt bs 17 1 ≤ 1 → fieldAt bs 23 1 = 0 → 1 ≤ fieldAt bs 24 4 → fieldAt bs 24 4 ≤ 65536 →
    allZero (slice bs 28 36) = true → s.dev.rollout c (fieldAt bs 20 3) = some r → s.dev.poolOf c r.decPool = some p →
    p.pinned = false → r.st = .running →
    exec (.evict q i) s = .next (s.withDev ((s.dev.accept w).modRollout c (fieldAt bs 20 3) fun r =>
      { r with evicts := r.evicts ++ [⟨w, fieldAt bs 17 1, fieldAt bs 18 2, fieldAt bs 24 4⟩] })))

/-- The steps of a rollout complete where their conditions hold: a prefill chunk and a decode step of a pool begin; a rollout
passes its step boundary; a shipped prompt makes it RUNNING; the moves of a pause and a resume make it PAUSED and RUNNING; a
refused remote prefill and an expired time to live end it. -/
def Obligations.RolloutEventsComplete : Prop :=
  (∀ (s : State) (c seq : Nat) (table : Word) (r : Rollout) (x y : Pool), c < 256 → seq < 2 ^ 24 →
    s.dev.rollout c seq = some r → s.dev.poolOf c r.prePool = some x → s.dev.poolOf c r.decPool = some y → r.st = .prefill →
    r.inStep = false → r.filled < r.promptLen → (r.peer.isSome || y.peerRank = 0xFFFF) = true → s.dev.canStep c x = true → x.gone = false → y.gone = false →
    exec (.prefillStep c seq table) s = .next (s.withDev (s.dev.beginStep c r.prePool x
      [⟨seq, r.slot, r.filled, r.filled + min x.chunk (r.promptLen - r.filled)⟩] false table))) ∧
  (∀ (s : State) (c p : Nat) (table : Word) (scores : List SeqScores) (x : Pool), c < 256 → p < 16 → s.dev.poolOf c p = some x →
    x.role ≠ 0 → s.dev.batchOf c p ≠ [] → s.dev.canStep c x = true → x.gone = false →
    exec (.decodeStep c p table scores) s = .next (s.withDev ((s.dev.beginStep c p x ((s.dev.batchOf c p).map fun r =>
        ⟨r.seq, r.slot, r.promptLen + r.tokens, r.promptLen + r.tokens + 1⟩) true table).each (s.dev.batchOf c p)
          fun r d => d.chooseFor c x scores r.seq))) ∧
  (∀ (s : State) (c seq : Nat) (r : Rollout) (x : Pool) (run : StepRun), c < 256 → seq < 2 ^ 24 →
    s.dev.rollout c seq = some r → s.dev.poolOf c r.stepPool = some x → x.step = some run → r.inStep = true →
    s.dev.stepBusy c r.stepPool = false → run.seqs.contains seq = true → s.dev.working c = true →
    exec (.stepBoundary c seq) s = .next (s.withDev (s.dev.passBoundary c seq r r.stepPool x run))) ∧
  (∀ (s : State) (c seq : Nat) (r : Rollout) (x : Pool), c < 256 → seq < 2 ^ 24 → s.dev.rollout c seq = some r →
    s.dev.poolOf c r.decPool = some x → x.peerRank ≠ 0xFFFF → r.st = .prefill → r.inStep = false → s.dev.working c = true →
    r.ending = none → r.filled = r.promptLen → r.peer = none →
    exec (.promptShipped c seq) s = .next (s.withDev (s.dev.modRollout c seq fun r => { r with st := .running, filled := r.promptLen }))) ∧
  (∀ (s : State) (c seq : Nat) (r : Rollout) (x : Pool), c < 256 → seq < 2 ^ 24 → s.dev.rollout c seq = some r →
    s.dev.poolOf c r.decPool = some x → x.peerRank ≠ 0xFFFF → r.st = .prefill → s.dev.working c = true →
    exec (.remotePrefillRefused c seq) s = .next (s.withDev (s.dev.endRollout c seq Status.deferred 6))) ∧
  (∀ (s : State) (c seq ttl : Nat) (r : Rollout) (w : Waiter) (m : Move), c < 256 → seq < 2 ^ 24 →
    s.dev.rollout c seq = some r → s.dev.doneMove c (.pause seq) = some m → r.st = .pausing → s.dev.working c = true →
    r.pausing = some (w, ttl) → r.resumes = [] → r.evicts = [] →
    exec (.pauseMoveDone c seq) s = .next (s.withDev (((s.dev.dropMove c m.id).complete w Status.ok 0).modRollout c seq fun r =>
        { r with st := .paused, pausing := none, resumes := [], expiry := some (s.dev.ns + 1000 * ttl) }))) ∧
  (∀ (s : State) (c seq : Nat) (r : Rollout) (w : Waiter) (m : Move), c < 256 → seq < 2 ^ 24 →
    s.dev.rollout c seq = some r → s.dev.doneMove c (.resume seq) = some m → r.st = .resuming → s.dev.working c = true →
    r.resumes = [w] →
    exec (.resumeMoveDone c seq) s = .next (s.withDev (((s.dev.complete w Status.ok 0).dropMove c m.id).modRollout c seq fun r =>
        { r with st := .running, resumes := [], expiry := none }))) ∧
  (∀ (s : State) (c seq t0 : Nat) (r : Rollout), c < 256 → seq < 2 ^ 24 → s.dev.rollout c seq = some r → r.st = .paused →
    s.dev.working c = true → r.expiry = some t0 → t0 ≤ s.dev.ns → s.dev.resumeTaken c seq t0 = false →
    exec (.ttlExpire c seq) s = .next (s.withDev (s.dev.endRollout c seq Status.expired 3)))

/-! ### Engine and vector instructions (chapters 3, 5, 7, 10) -/

/-- The engine instructions of the number formats complete where their operands read, their records are legal and their
destinations take the bytes: the matrix instruction with its dot products, the output path, the conversion and the scale pass
with the values converted under their records. A malformed instruction of an image, which the model lets this row carry, faults the
context (R57; log entry 71). -/
def Obligations.NumberInstructionsComplete : Prop :=
  (∀ (s : State) (core seq c : Nat) (y : Clause) (op : MatOp) (rsp : TierRsp) (ra rb : TRec) (a b : List (List Elt))
    (d1 d2 d3 : Dev), s.dev.Ready core seq c y engines → op.malformed = false →
    Gives (fetch ⟨c, core, seq, y, rsp⟩ op.a op.m op.k true) (s.dev.issuesOn core seq engines (MatOp.spans op)) (ra, a) d1 →
    Gives (fetch ⟨c, core, seq, y, rsp⟩ op.b op.n op.k true) d1 (rb, b) d2 → groupOk op.group = true →
    (blockSize ra.fmt ≠ 0 → ra.axis = 1) → (blockSize rb.fmt ≠ 0 → rb.axis = 1) →
    Gives (putBytes ⟨c, core, seq, y, rsp⟩ op.y
      (f32Bytes ((a.map fun x => b.map fun z => dot ra rb op.group x z).flatten.map (·.1))))
      (d2.flagResults c core (!y.gen) ((a.map fun x => b.map fun z => dot ra rb op.group x z).flatten.flatMap (·.2))) () d3 →
    exec (.matrixInstruction core seq op rsp) s = .next (s.withDev d3)) ∧
  (∀ (s : State) (core seq c : Nat) (y : Clause) (op : MatOp) (rsp : TierRsp), s.dev.Runs core seq c y → op.malformed = true →
    exec (.matrixInstruction core seq op rsp) s = .next (s.withDev (s.dev.faultCtx c Status.integrity core seq 0))) ∧
  (∀ (s : State) (core seq c : Nat) (y : Clause) (op : ConvOp) (rsp : TierRsp) (xs : List (List W32))
    (rds : List (List Round)) (d1 d2 d3 : Dev), s.dev.Ready core seq c y engines → coordsOk op.row0 op.rows op.col0 op.cols = true →
    Gives (fetchF32 ⟨c, core, seq, y, rsp⟩ op.src op.rows op.cols) (s.dev.issuesOn core seq engines (ConvOp.spans op)) xs d1 →
    Gives (checkRec (TRec.ofWords op.dst.recLo.toNat op.dst.recHi.toNat) false true) d1 () d1 →
    Gives (rounds ⟨c, core, seq, y, rsp⟩ (TRec.ofWords op.dst.recLo.toNat op.dst.recHi.toNat) 1 op.tensor op.row0 op.col0 op.rows
      op.cols) d1 rds d2 →
    Gives (writeOut ⟨c, core, seq, y, rsp⟩ (TRec.ofWords op.dst.recLo.toNat op.dst.recHi.toNat) op.dst.addr rds xs op.cols) d2 () d3 →
    exec (.engineOutputWrite core seq op rsp) s = .next (s.withDev d3)) ∧
  (∀ (s : State) (core seq c : Nat) (y : Clause) (op : ConvOp) (rsp : TierRsp) (xs : List (List W32))
    (rds : List (List Round)) (d1 d2 d3 : Dev), s.dev.Ready core seq c y vectorUnit → coordsOk op.row0 op.rows op.col0 op.cols = true →
    Gives (fetchF32 ⟨c, core, seq, y, rsp⟩ op.src op.rows op.cols) (s.dev.issuesOn core seq vectorUnit (ConvOp.spans op)) xs d1 →
    Gives (checkRec (TRec.ofWords op.dst.recLo.toNat op.dst.recHi.toNat) false true) d1 () d1 →
    Gives (rounds ⟨c, core, seq, y, rsp⟩ (TRec.ofWords op.dst.recLo.toNat op.dst.recHi.toNat) 0 op.tensor op.row0 op.col0 op.rows
      op.cols) d1 rds d2 →
    Gives (writeConv ⟨c, core, seq, y, rsp⟩ (TRec.ofWords op.dst.recLo.toNat op.dst.recHi.toNat) op.dst.addr true rds xs op.cols)
      d2 () d3 →
    exec (.conversionInstruction core seq op rsp) s = .next (s.withDev d3)) ∧
  (∀ (s : State) (core seq c : Nat) (y : Clause) (op : ScaleOp) (rsp : TierRsp) (xs : List (List W32)) (vals : List (List Ext))
    (r : TRec) (ts : W32) (d1 d2 d3 : Dev), s.dev.Ready core seq c y vectorUnit →
    Gives (fetchF32 ⟨c, core, seq, y, rsp⟩ op.src op.rows op.cols) (s.dev.issuesOn core seq vectorUnit (TRef.spans op.src op.rows op.cols ++ TRef.spans op.dst op.rows op.cols)) xs d1 →
    r = TRec.ofWords op.dst.recLo.toNat op.dst.recHi.toNat → Gives (checkRec r false false) d1 () d1 →
    vals = xs.map (fun row => row.map f32) →
    ts = (if isFb r.fmt || isScaledPlain r.fmt then tensorScale r.fmt (amaxOf (f32 op.amaxIn :: vals.flatten)) else one32) →
    Gives (if isFb r.fmt || isScaledPlain r.fmt then putF32 ⟨c, core, seq, y, rsp⟩ op.tsOut [[ts]] else pure ()) d1 () d2 →
    Gives (if blockSize r.fmt ≠ 0 then putBytes ⟨c, core, seq, y, rsp⟩ (BitVec.ofNat 64 r.scaleRef)
      ((r.lines (Ext.zero false) op.cols vals).flatMap fun l =>
        (chunksOf (blockSize r.fmt) l).map fun b => BitVec.ofNat 8 (blockScale r.fmt ts (amaxOf b))) else pure ()) d2 () d3 →
    exec (.scaleFormingInstruction core seq op rsp) s = .next (s.withDev d3)) ∧
  (∀ (s : State) (core seq c : Nat) (y : Clause) (op : DrawOp) (us : List W32) (d1 d2 : Dev),
    s.dev.Ready core seq c y vectorUnit → coordsOk op.row0 op.rows op.col0 op.cols = true → 2 ^ 40 ≤ op.tensor.toNat →
    (s.dev.issuesOn core seq vectorUnit [(op.dst, 4 * (op.rows * op.cols))]).drawRect core 0 (Env.seed ⟨c, core, seq, y, []⟩ (s.dev.issuesOn core seq vectorUnit [(op.dst, 4 * (op.rows * op.cols))])) op.tensor op.row0 op.col0
      op.rows op.cols = (us, d1) →
    Gives (putBytes ⟨c, core, seq, y, []⟩ op.dst (f32Bytes us)) d1 () d2 →
    exec (.vectorDraw core seq op) s = .next (s.withDev d2))

/-- The vector instructions of a learning step complete where their operands read and their destinations take the bytes: every
activation of Table 7.1 forward and every one but normalisation backward, dropout, the backward normalisation, the vocabulary head
and its backward half. The smooth activations without a stated bit pattern are free values (log entry 4). -/
def Obligations.LearningInstructionsComplete : Prop :=
  (∀ (s : State) (core seq c : Nat) (y : Clause) (op : ActOp) (rsp : TierRsp) (xs : List (List W32)) (keep : W32 → Bool)
    (f : W32 → W32) (d1 d2 d3 : Dev), s.dev.Ready core seq c y vectorUnit →
    ((op.kind = .relu ∧ keep = (fun x => fgt x 0#32) ∧ f = fun x => if (f32 x).isNan then qnan else if fgt x 0#32 then x else 0#32) ∨
      (∃ a, op.kind = .leaky a ∧ keep = (fun x => fgt x 0#32) ∧ f = fun x => if fgt x 0#32 then x else fmul x a) ∨
      (∃ lo hi, op.kind = .clamp lo hi ∧ keep = (fun x => x != 0x80000000#32 && (fgt x lo && fgt hi x)) ∧
        f = fun x => if (f32 x).isNan then qnan else if fgt x lo && fgt hi x then x else if fgt x lo then hi else lo)) →
    Gives (fetchF32 ⟨c, core, seq, y, rsp⟩ op.x op.rows op.cols) (s.dev.issuesOn core seq vectorUnit (ActOp.spans op)) xs d1 →
    Gives (if op.kept.addr ≠ 0 then putBytes ⟨c, core, seq, y, rsp⟩ op.kept.addr (bitBytes (xs.map fun r => r.map keep)) else pure ())
      d1 () d2 →
    Gives (putF32 ⟨c, core, seq, y, rsp⟩ op.y (xs.map fun r => r.map f)) d2 () d3 →
    exec (.activationInstruction core seq op rsp) s = .next (s.withDev d3)) ∧
  (∀ (s : State) (core seq c : Nat) (y : Clause) (op : ActOp) (rsp : TierRsp) (xs : List (List W32)) (f : W32 → W32) (d1 d2 d3 : Dev),
    s.dev.Ready core seq c y vectorUnit →
    ((op.kind = .gelu ∧ f = Sys2Proof.Config.gelu) ∨ (op.kind = .silu ∧ f = fun x => fmul x (flogistic x))) →
    Gives (fetchF32 ⟨c, core, seq, y, rsp⟩ op.x op.rows op.cols) (s.dev.issuesOn core seq vectorUnit (ActOp.spans op)) xs d1 →
    Gives (keepInput ⟨c, core, seq, y, rsp⟩ op.kept xs op.cols) d1 () d2 →
    Gives (putF32 ⟨c, core, seq, y, rsp⟩ op.y (xs.map fun r => r.map f)) d2 () d3 →
    exec (.activationInstruction core seq op rsp) s = .next (s.withDev d3)) ∧
  (∀ (s : State) (core seq c : Nat) (y : Clause) (op : ActOp) (rsp : TierRsp) (xs x2 : List (List W32)) (d1 d2 d3 d4 : Dev),
    s.dev.Ready core seq c y vectorUnit → op.kind = .gated →
    Gives (fetchF32 ⟨c, core, seq, y, rsp⟩ op.x op.rows op.cols) (s.dev.issuesOn core seq vectorUnit (ActOp.spans op)) xs d1 →
    Gives (fetchPlain ⟨c, core, seq, y, rsp⟩ op.x2 op.rows op.cols) d1 x2 d2 →
    Gives (keepInput ⟨c, core, seq, y, rsp⟩ op.kept xs op.cols) d2 () d3 →
    Gives (putF32 ⟨c, core, seq, y, rsp⟩ op.y ((xs.zip x2).map fun (a, b) => (a.zip b).map fun (x, z) =>
      fmul (Sys2Proof.Config.gate x) z)) d3 () d4 →
    exec (.activationInstruction core seq op rsp) s = .next (s.withDev d4)) ∧
  (∀ (s : State) (core seq c : Nat) (y : Clause) (op : ActOp) (rsp : TierRsp) (xs g : List (List W32)) (meanVar : Bool) (eps : W32)
    (rs : List (W32 × W32 × List W32)) (d1 d2 d3 d4 d5 : Dev), s.dev.Ready core seq c y vectorUnit →
    ((op.kind = .rmsNorm eps ∧ meanVar = false) ∨ (op.kind = .meanVarNorm eps ∧ meanVar = true)) →
    Gives (fetchF32 ⟨c, core, seq, y, rsp⟩ op.x op.rows op.cols) (s.dev.issuesOn core seq vectorUnit (ActOp.spans op)) xs d1 →
    Gives (fetchPlain ⟨c, core, seq, y, rsp⟩ op.x2 1 op.cols) d1 g d2 → rs = xs.map (fun x => normRow meanVar eps x (g.headD [])) →
    Gives (if op.kept.addr ≠ 0 then putF32 ⟨c, core, seq, y, rsp⟩ op.kept.addr [rs.map (·.2.1)] else pure ()) d2 () d3 →
    Gives (if op.kept.addr ≠ 0 ∧ meanVar = true then putF32 ⟨c, core, seq, y, rsp⟩ op.aux [rs.map (·.1)] else pure ()) d3 () d4 →
    Gives (putF32 ⟨c, core, seq, y, rsp⟩ op.y (rs.map (·.2.2))) d4 () d5 →
    exec (.activationInstruction core seq op rsp) s = .next (s.withDev d5)) ∧
  (∀ (s : State) (core seq c : Nat) (y : Clause) (op : ActBwOp) (rsp : TierRsp) (dy : List (List W32)) (bits : List (List Bool))
    (drop : W32 → W32) (d1 d2 d3 : Dev), s.dev.Ready core seq c y vectorUnit →
    (((op.kind = .relu ∨ ∃ lo hi, op.kind = .clamp lo hi) ∧ drop = fun _ => 0#32) ∨ (∃ a, op.kind = .leaky a ∧ drop = fun g => fmul g a)) →
    Gives (fetchPlain ⟨c, core, seq, y, rsp⟩ op.dy op.rows op.cols) (s.dev.issuesOn core seq vectorUnit (ActBwOp.spans op)) dy d1 →
    Gives (fetchBits ⟨c, core, seq, y, rsp⟩ op.kept.addr op.rows op.cols) d1 bits d2 →
    Gives (putF32 ⟨c, core, seq, y, rsp⟩ op.dx ((dy.zip bits).map fun (g, b) => (g.zip b).map fun (g, b) => if b then g else drop g))
      d2 () d3 →
    exec (.activationBackward core seq op rsp) s = .next (s.withDev d3)) ∧
  (∀ (s : State) (core seq c : Nat) (y : Clause) (op : ActBwOp) (rsp : TierRsp) (dy xs : List (List W32)) (grad : W32 → W32)
    (d1 d2 d3 : Dev), s.dev.Ready core seq c y vectorUnit →
    ((op.kind = .gelu ∧ grad = Sys2Proof.Config.geluGrad) ∨ (op.kind = .silu ∧ grad = Sys2Proof.Config.siluGrad)) →
    Gives (fetchPlain ⟨c, core, seq, y, rsp⟩ op.dy op.rows op.cols) (s.dev.issuesOn core seq vectorUnit (ActBwOp.spans op)) dy d1 →
    Gives (fetchF32 ⟨c, core, seq, y, rsp⟩ op.kept op.rows op.cols) d1 xs d2 →
    Gives (putF32 ⟨c, core, seq, y, rsp⟩ op.dx ((dy.zip xs).map fun (g, x) => (g.zip x).map fun (g, x) => fmul g (grad x))) d2 () d3 →
    exec (.activationBackward core seq op rsp) s = .next (s.withDev d3)) ∧
  (∀ (s : State) (core seq c : Nat) (y : Clause) (op : ActBwOp) (rsp : TierRsp) (dy xs x2 : List (List W32)) (d1 d2 d3 d4 d5 : Dev),
    s.dev.Ready core seq c y vectorUnit → op.kind = .gated →
    Gives (fetchPlain ⟨c, core, seq, y, rsp⟩ op.dy op.rows op.cols) (s.dev.issuesOn core seq vectorUnit (ActBwOp.spans op)) dy d1 →
    Gives (fetchF32 ⟨c, core, seq, y, rsp⟩ op.kept op.rows op.cols) d1 xs d2 →
    Gives (fetchPlain ⟨c, core, seq, y, rsp⟩ op.x2 op.rows op.cols) d2 x2 d3 →
    Gives (putF32 ⟨c, core, seq, y, rsp⟩ op.dx ((dy.zip (xs.zip x2)).map fun (g, x, z) => (g.zip (x.zip z)).map fun (g, x, z) =>
      fmul (fmul g z) (Sys2Proof.Config.gateGrad x))) d3 () d4 →
    Gives (putF32 ⟨c, core, seq, y, rsp⟩ op.dx2 ((dy.zip (xs.zip x2)).map fun (g, x, z) => (g.zip (x.zip z)).map fun (g, x, _) =>
      fmul g (Sys2Proof.Config.gate x))) d4 () d5 →
    exec (.activationBackward core seq op rsp) s = .next (s.withDev d5)) ∧
  (∀ (s : State) (core seq c : Nat) (y : Clause) (op : DropOp) (rsp : TierRsp) (xs : List (List W32)) (us : List W32)
    (d1 d2 d3 : Dev), s.dev.Ready core seq c y vectorUnit → coordsOk op.row0 op.rows op.col0 op.cols = true → 2 ^ 40 ≤ op.tensor.toNat →
    Gives (fetchPlain ⟨c, core, seq, y, rsp⟩ op.src op.rows op.cols) (s.dev.issuesOn core seq vectorUnit [(op.src, 4 * (op.rows * op.cols)), (op.dst, 4 * (op.rows * op.cols))]) xs d1 →
    d1.drawRect core 0 (Env.seed ⟨c, core, seq, y, rsp⟩ d1) op.tensor op.row0 op.col0 op.rows op.cols = (us, d2) →
    Gives (putF32 ⟨c, core, seq, y, rsp⟩ op.dst ((xs.zip (chunksOf op.cols us)).map fun (x, u) =>
      (x.zip u).map fun (x, u) => if u.toNat < op.thr.toNat then 0#32 else
        fmul x (Env.scalar ⟨c, core, seq, y, rsp⟩ d1 op.scl))) d2 () d3 →
    exec (.dropoutInstruction core seq op rsp) s = .next (s.withDev d3)) ∧
  (∀ (s : State) (core seq c : Nat) (y : Clause) (op : NormBwOp) (rsp : TierRsp) (rows : List NormRow)
    (buf : List W32) (d1 : Dev), s.dev.Ready core seq c y vectorUnit →
    Gives (normIn op ⟨c, core, seq, y, rsp⟩) (s.dev.issuesOn core seq vectorUnit (NormBwOp.spans op)) (rows, buf) d1 →
    (∀ (sums : List (W32 × W32)) (d2 d3 d4 : Dev),
      ((op.part = .whole ∧ sums = rows.map (normPartial op.meanVar) ∧ d2 = d1) ∨
        ∃ w xs, op.part = .finish w ∧ Gives (fetchPlain ⟨c, core, seq, y, rsp⟩ w op.rows 2) d1 xs d2 ∧ sums = sumPairs xs) →
      Gives (putF32 ⟨c, core, seq, y, rsp⟩ op.dx (normDxRows op rows sums)) d2 () d3 →
      Gives (putF32 ⟨c, core, seq, y, rsp⟩ op.dgamma [normGamma rows buf]) d3 () d4 →
      exec (.normBackward core seq op rsp) s = .next (s.withDev d4)) ∧
    (∀ (w : Word) (d2 : Dev), op.part = .push w →
      Gives (putF32 ⟨c, core, seq, y, rsp⟩ w (sumRows (rows.map (normPartial op.meanVar)))) d1 () d2 →
      exec (.normBackward core seq op rsp) s = .next (s.withDev d2)) ∧
    (∀ (ws : List Word) (w : Word) (ps : List (List (W32 × W32))) (d2 d3 : Dev), op.part = .join ws w →
      Gives (ws.mapM fun a => return sumPairs (← fetchPlain ⟨c, core, seq, y, rsp⟩ a op.rows 2)) d1 ps d2 →
      Gives (putF32 ⟨c, core, seq, y, rsp⟩ w (sumRows (normTotals (rows.map (normPartial op.meanVar)) ps))) d2 () d3 →
      exec (.normBackward core seq op rsp) s = .next (s.withDev d3))) ∧
  (∀ (s : State) (core seq c : Nat) (y : Clause) (op : VocabOp) (rsp : TierRsp) (rx rw : TRec) (x w : List (List Elt))
    (d1 d2 : Dev), s.dev.Ready core seq c y engines →
    Gives (vocabIn ⟨c, core, seq, y, rsp⟩ op) (s.dev.issuesOn core seq engines (VocabOp.spans op)) (rx, x, rw, w) d1 →
    Gives (putF32 ⟨c, core, seq, y, rsp⟩ op.lse [x.map fun r => lse (numbered (logits rx rw op.group r w))])
      (d1.flagResults c core (!y.gen) (x.flatMap fun r => logitSteps rx rw op.group r w)) () d2 →
    exec (.vocabHeadInstruction core seq op rsp) s = .next (s.withDev d2)) ∧
  (∀ (s : State) (core seq c : Nat) (y : Clause) (op : VocabBwOp) (rsp : TierRsp) (rx rw : TRec)
    (x w : List (List Elt)) (dz : List (List W32)) (d1 d2 d3 : Dev), s.dev.Ready core seq c y engines →
    Gives (vocabBackIn op ⟨c, core, seq, y, rsp⟩) (s.dev.issuesOn core seq engines (VocabBwOp.spans op)) ((rx, x), (rw, w), dz) d1 →
    Gives (putF32 ⟨c, core, seq, y, rsp⟩ op.dx
      (dz.map fun z => combine op.fwd.dim z (w.map fun r => r.map (Elt.val rw))))
      (d1.flagResults c core (!y.gen) ((x.flatMap fun r => logitSteps rx rw op.fwd.group r w) ++ dz.flatten)) () d2 →
    Gives (putF32 ⟨c, core, seq, y, rsp⟩ op.dw ((List.range op.fwd.vocab).map fun i =>
      combine op.fwd.dim (dz.map fun z => z.getD i 0#32) (x.map fun r => r.map (Elt.val rx)))) d2 () d3 →
    exec (.vocabHeadBackward core seq op rsp) s = .next (s.withDev d3))

/-- The attention instructions and the append of keys and values complete where their operands read and their destinations take
the bytes. -/
def Obligations.AttentionInstructionsComplete : Prop :=
  (∀ (s : State) (core seq c : Nat) (y : Clause) (op : AttnOp) (rsp : TierRsp) (inp : KeyInput) (rq ro : TRec)
    (rows : List ((KeySet × Nat × Nat × Nat) × List Elt × Nat)) (rds : List (List Round)) (outs : List RowOut) (d1 d2 d3 d4 d5 : Dev),
    s.dev.Ready core seq c y engines → coordsOk op.row0 0 op.col0 0 = true →
    Gives (attnRows ⟨c, core, seq, y, rsp⟩ op) (s.dev.issuesOn core seq engines (AttnOp.spans op)) (inp, rq, rows) d1 →
    ro = TRec.ofWords op.o.recLo.toNat op.o.recHi.toNat → Gives (checkRec ro false true) d1 () d1 →
    Gives (rounds ⟨c, core, seq, y, rsp⟩ ro 1 op.tensor op.row0 op.col0 rows.length inp.dim) d1 rds d5 →
    outs = rows.map (fun ((k, qpos, _, h), q, bits) => attendRow op inp rq q qpos bits (k.heads.getD h [])) →
    Gives (writeOut ⟨c, core, seq, y, rsp⟩ ro op.o.addr rds (outs.map (·.o)) inp.dim)
      ((d5.flagResults c core (!y.gen) ((outs.filter fun o => !bitOf o.stat 0).flatMap fun o => o.lse :: o.o ++ o.steps)).incSat
        F.kvStat_empty_rows c (outs.filter fun o => bitOf o.stat 0).length) () d2 →
    Gives (putBytes ⟨c, core, seq, y, rsp⟩ op.lse (f32Bytes (outs.map (·.lse)))) d2 () d3 →
    Gives (putBytes ⟨c, core, seq, y, rsp⟩ op.stat (outs.map fun o => BitVec.ofNat 8 o.stat)) d3 () d4 →
    exec (.attentionInstruction core seq op rsp) s = .next (s.withDev d4)) ∧
  (∀ (s : State) (core seq c : Nat) (y : Clause) (op : AttnBwOp) (rsp : TierRsp) (x : BackInput)
    (d1 d2 d3 d4 : Dev), s.dev.Ready core seq c y engines →
    Gives (attnBackIn op ⟨c, core, seq, y, rsp⟩) (s.dev.issuesOn core seq engines (AttnOp.spans op.fwd)) x d1 →
    Gives (putF32 ⟨c, core, seq, y, rsp⟩ op.dq (backGrads op x).1)
      ((d1.flagResults c core (!y.gen) (backSteps op x)).flagConv c core (!y.gen) false ((backProbs op x).any (·.sat))
        ((backProbs op x).any (·.badIn))) () d2 →
    Gives (putF32 ⟨c, core, seq, y, rsp⟩ op.dk ((backGrads op x).2.flatten.flatMap (·.dk))) d2 () d3 →
    Gives (putF32 ⟨c, core, seq, y, rsp⟩ op.dv ((backGrads op x).2.flatten.flatMap (·.dv))) d3 () d4 →
    exec (.attentionBackward core seq op rsp) s = .next (s.withDev d4)) ∧
  (∀ (s : State) (core seq c : Nat) (y : Clause) (op : KvAppendOp) (rsp : TierRsp) (l : KvLayout) (d1 d2 : Dev),
    s.dev.Ready core seq c y engines → Gives (readLayout ⟨c, core, seq, y, rsp⟩ op.layout) (s.dev.issuesOn core seq engines [(op.layout, 64)]) l d1 →
    op.layer < l.layers → op.head < l.heads → op.row.length = l.dim → op.pos < 65536 / max l.ppg 1 * l.tpg →
    Gives (appendRow ⟨c, core, seq, y, rsp⟩ l (d1.kvBase c op.pre op.slot) op) d1 () d2 →
    exec (.kvAppendWrite core seq op rsp) s = .next (s.withDev d2))

/-- An instruction whose slot table gives its sequencer none of the units that it needs waits: one stall cycle under SLOT, and no
other effect; while a clamp withholds the core's clock the cycle counts under THROTTLE. -/
def Obligations.InstructionsWaitForTheirUnit : Prop :=
  (∀ (s : State) (core seq c : Nat) (y : Clause) (op : MatOp) (rsp : TierRsp), s.dev.Runs core seq c y → op.malformed = false →
    engines.any (s.dev.slotGives core seq) = false →
    ∃ t, exec (.matrixInstruction core seq op rsp) s = .next t ∧ t.dev = s.dev.stalls core seq Cause.slot ∧
      t.dev.get F.coreStallCtr_count core (8 * seq + 1) = (s.dev.get F.coreStallCtr_count core (8 * seq + 1) + 1) % 2 ^ 64 ∧
      t.dev.get F.coreSeqStat_state core seq = SeqSt.stall ∧ t.dev.get F.coreSeqStat_cause core seq = 1) ∧
  (∀ (s : State) (core seq c : Nat) (y : Clause) (op : DrawOp), core < 256 → seq < 3 → s.dev.clauseOn core seq = some (c, y) →
    coordsOk op.row0 op.rows op.col0 op.cols = true → s.dev.withheld core = true →
    ∃ t, exec (.vectorDraw core seq op) s = .next t ∧ t.dev = s.dev.stalls core seq Cause.throttle ∧
      t.dev.get F.coreStallCtr_count core (8 * seq) = (s.dev.get F.coreStallCtr_count core (8 * seq) + 1) % 2 ^ 64)

/-! ### Sillage (chapter 6) -/

/-- The SILLAGE descriptors complete: CREATE makes an empty ring of its capacity, DESTROY frees one, APPEND commits the host's
records and answers how many, DRAW writes the records that it selects and answers how many; a generated record that waits commits
when it can be written. -/
def Obligations.SillageCommandsComplete : Prop :=
  (∀ (s : State) (q i c : Nat) (w : Waiter) (bs : List Byte), s.dev.Stands q i 6 0 c w bs →
    silForm bs [(20, 4), (40, 24)] = true → fieldAt bs 17 1 = 0 → fieldAt bs 24 8 % pageBytes = 0 → fieldAt bs 24 8 ≠ 0 →
    fieldAt bs 32 8 % 2 ^ 30 = 0 → s.dev.flag F.silRingCfg_valid (fieldAt bs 18 2) = false →
    fieldAt bs 32 8 + alignUp (fieldAt bs 24 8) (2 ^ 30) ≤ 2 ^ 50 →
    (s.dev.ctx c).anyLeaf (fieldAt bs 32 8 / pageBytes) (alignUp (fieldAt bs 24 8) (2 ^ 30) / pageBytes) = false →
    s.dev.deviceMeets c (fieldAt bs 32 8) (alignUp (fieldAt bs 24 8) (2 ^ 30)) = false →
    s.dev.quotaOk c 1 (fieldAt bs 24 8) = true → heartFrames s.dev.cfg ≠ 0 →
    ∃ t, exec (.silCreate q i) s = .next t ∧ t.dev.reg .silRingBase (fieldAt bs 18 2) = fieldAt bs 32 8 ∧
      t.dev.flag F.silRingCfg_valid (fieldAt bs 18 2) = true ∧ t.dev.ring (fieldAt bs 18 2) = Ring.init ∧
      (s.dev.Awaited w → t.dev.DueLast w 0 0)) ∧
  (∀ (s : State) (q i c : Nat) (w : Waiter) (bs : List Byte), s.dev.Stands q i 6 1 c w bs →
    silForm bs [(17, 1), (20, 44)] = true → s.dev.ringOf c (fieldAt bs 18 2) = true →
    (s.dev.ctx c).rollouts.any (fun x => x.ring = fieldAt bs 18 2) = false → (s.dev.ring (fieldAt bs 18 2)).waiting = [] →
    exec (.silDestroy q i) s = .next (s.withDev ((s.dev.freeRing (fieldAt bs 18 2)).complete w Status.ok 0))) ∧
  (∀ (s : State) (q i c : Nat) (w : Waiter) (bs : List Byte) (rsp : TierRsp) (acc st : Nat) (d1 : Dev),
    s.dev.Stands q i 6 2 c w bs → silForm bs [(17, 1), (40, 24)] = true → 1 ≤ fieldAt bs 20 4 → fieldAt bs 20 4 ≤ 65535 →
    s.dev.ringOf c (fieldAt bs 18 2) = true →
    s.dev.appendGo c (fieldAt bs 18 2) rsp (fieldAt bs 24 8) (fieldAt bs 32 8) (fieldAt bs 20 4) 0 0 0 = ((acc, st), d1) →
    exec (.silAppend q i rsp) s = .next (s.withDev (d1.complete w st (acc + (fieldAt bs 20 4 - acc) * 2 ^ 32)))) ∧
  (∀ (s : State) (q i c : Nat) (w : Waiter) (bs : List Byte) (rsp : TierRsp) (x : Desc) (cs : List RingRec) (k g st : Nat) (d1 : Dev),
    s.dev.Stands q i 6 3 c w bs → s.dev.desc q i = some x → silForm bs [(56, 8)] = true → fieldAt bs 17 1 < 3 → 1 ≤ fieldAt bs 20 4 →
    fieldAt bs 20 4 ≤ 65536 → s.dev.ringOf c (fieldAt bs 18 2) = true →
    cs = candidates (s.dev.ring (fieldAt bs 18 2)).live (fieldAt bs 17 1) (fieldAt bs 40 4) (fieldAt bs 44 4) → cs ≠ [] →
    (s.dev.incMod F.silRingCnt_draws (fieldAt bs 18 2)).drawGo c (fieldAt bs 18 2) rsp (fieldAt bs 24 8) (fieldAt bs 32 8)
      ((List.range (fieldAt bs 20 4)).filterMap fun j =>
        (cs[drawPick x.seed (fieldAt bs 18 2)
          (s.dev.get F.silRingCnt_draws (fieldAt bs 18 2)) cs.length j]?).map Pick.live) 0 0 0 = ((k, g, st), d1) →
    exec (.silDraw q i rsp) s = .next (s.withDev (d1.complete w st (k + g * 2 ^ 32)))) ∧
  (∀ (s : State) (ring : Nat) (rsp : TierRsp) (x : RingWait) (rest : List RingWait) (d1 : Dev), ring < 1024 →
    (s.dev.ring ring).waiting = x :: rest → s.dev.flag F.silRingCfg_valid ring = true →
    (s.dev.modRing ring fun y => { y with waiting := rest }).commitRecord ring x.header x.payload rsp = (none, d1) →
    exec (.recordCommit ring rsp) s = .next (s.withDev (d1.settle (s.dev.get F.silRingCfg_ctx ring) x.seq)))

/-- A generated record that cannot commit is discarded and counted in GEN_DROP; where the ring had no room for it, FULL is set. -/
def Obligations.UncommittedGeneratedRecordsAreCounted : Prop :=
  ∀ (s : State) (ring st : Nat) (rsp : TierRsp) (x : RingWait) (rest : List RingWait) (d1 : Dev), ring < 1024 →
    (s.dev.ring ring).waiting = x :: rest → s.dev.flag F.silRingCfg_valid ring = true →
    (s.dev.modRing ring fun y => { y with waiting := rest }).commitRecord ring x.header x.payload rsp = (some st, d1) →
    exec (.recordCommit ring rsp) s = .next (s.withDev
      ((if st = Status.quota then
          (d1.incSat F.silRingStat_gen_drop ring).put F.silRingStat_full ring 1
        else d1.incSat F.silRingStat_gen_drop ring).settle (s.dev.get F.silRingCfg_ctx ring) x.seq))

/-! ### Update units (chapter 8) -/

/-- The update descriptors complete: UPD queues a descriptor that passes its checks, its lists among them, at every unit it names;
APPLY, WATCH, UNWATCH and REDUCE begin theirs, an APPLY without PEND APPLY to be skipped; a unit runs its next chunk when the context's
turn has come; FACT goes on to pass B; a descriptor completes, its region's count written first. -/
def Obligations.UpdateCommandsComplete : Prop :=
  (∀ (s : State) (core seq off c st : Nat) (y : Clause) (rsp : TierRsp) (list srcs : List Nat) (d1 : Dev), s.dev.Runs core seq c y →
    off % 64 = 0 → off + 192 ≤ storeBytes →
    (∀ k ∈ (UDesc.of (s.dev.lsRead core off 192)).unitList, s.dev.unitQueue k < 256) →
    s.dev.updCheck c seq (s.dev.lsRead core off 192) = none →
    UEnv.lists ⟨c, UDesc.of (s.dev.lsRead core off 192), none, rsp⟩ (s.dev.ctx c).latPend s.dev = (.ok (st, list, srcs), d1) →
    ∃ t x, exec (.upd core seq off rsp) s = .next t ∧ (t.dev.ctx c).upds = (d1.ctx c).upds ++ [x] ∧
      x.bytes = s.dev.lsRead core off 192 ∧ x.core = core ∧ x.seq = seq ∧ x.begun = false ∧ x.status = st ∧ x.list = list ∧
      x.srcs = srcs ∧ x.next.map (·.1) = (UDesc.of (s.dev.lsRead core off 192)).unitList) ∧
  (∀ (s : State) (c id : Nat) (rsp : TierRsp) (x : Upd), c < 256 → s.dev.working c = true →
    (s.dev.ctx c).upds.find? (fun z => z.id = id) = some x → (UDesc.of x.bytes).op = 0 → x.begun = false → x.status = 0 →
    ((s.dev.ctx c).latPend ≠ 1 → exec (.apply c id rsp) s =
      .next (s.withDev ((s.dev.modUpd c id fun z => { z with begun := true }).endEarly c id 0 true))) ∧
    (∀ (cs : List (List Byte)) (d1 : Dev), (s.dev.ctx c).latPend = 1 →
      Gives (if (UDesc.of x.bytes).emb then x.list.mapM fun r =>
          UEnv.read ⟨c, UDesc.of x.bytes, none, rsp⟩ ((UDesc.of x.bytes).cnt + 4 * r) 4 else do
        let b ← UEnv.read ⟨c, UDesc.of x.bytes, none, rsp⟩ (UDesc.of x.bytes).cnt 4
        pure [b]) (s.dev.modUpd c id fun z => { z with begun := true }) cs d1 →
      exec (.apply c id rsp) s = .next (s.withDev (d1.modUpd c id fun z =>
        { z with total := (UDesc.of x.bytes).chunks, counts := cs.map leNat })))) ∧
  (∀ (s : State) (c id : Nat) (x : Upd), c < 256 → s.dev.working c = true →
    (s.dev.ctx c).upds.find? (fun z => z.id = id) = some x → (UDesc.of x.bytes).op = 1 → x.begun = false →
    (s.dev.ctx c).watches.length < 256 →
    ((s.dev.modUpd c id fun z => { z with begun := true }).ctxs.foldl (fun n e => n + e.2.watches.length) 0) < 4096 →
    ∃ t, exec (.watch c id) s = .next t ∧ (t.dev.ctx c).watches = (s.dev.ctx c).watches ++
      [⟨(UDesc.of x.bytes).g, (UDesc.of x.bytes).elems, (UDesc.of x.bytes).grec.fmt, (UDesc.of x.bytes).grec.ts,
        (UDesc.of x.bytes).unitList.headD 0⟩]) ∧
  (∀ (s : State) (c id : Nat) (x : Upd), c < 256 → s.dev.working c = true →
    (s.dev.ctx c).upds.find? (fun z => z.id = id) = some x → (UDesc.of x.bytes).op = 2 → x.begun = false →
    ∃ t, exec (.unwatch c id) s = .next t ∧
      (t.dev.ctx c).watches = (s.dev.ctx c).watches.filter fun z => z.addr ≠ (UDesc.of x.bytes).g) ∧
  (∀ (s : State) (c id : Nat) (x : Upd), c < 256 → s.dev.working c = true →
    (s.dev.ctx c).upds.find? (fun z => z.id = id) = some x → (UDesc.of x.bytes).op = 3 → x.begun = false → x.status = 0 →
    exec (.reduce c id) s = .next (s.withDev ((s.dev.modUpd c id fun z => { z with begun := true }).modUpd c id fun z =>
      { z with total := (UDesc.of x.bytes).chunks }))) ∧
  (∀ (s : State) (c id unit k : Nat) (rsp : TierRsp) (x x' : Upd) (d1 : Dev), c < 256 → unit < 32 → s.dev.working c = true →
    (s.dev.ctx c).upds.find? (fun z => z.id = id) = some x → x.next.find? (fun e => e.1 = unit) = some (unit, k) →
    x.begun = true → k < x.total → s.dev.unitTurn unit = some c →
    Gives (UEnv.chunk ⟨c, UDesc.of x.bytes, some unit, rsp⟩ x (s.dev.ctx c).latFactor k)
      (s.dev.modUnit unit fun y => { y with last := some c }) x' d1 →
    exec (.updChunk c id unit rsp) s = .next (s.withDev ((d1.modUpd c id fun _ => { x' with next := x.next.map fun e =>
      if e.1 = unit then (unit, k + (UDesc.of x.bytes).unitList.length) else e }).incMod F.updUnitStat_chunks unit))) ∧
  (∀ (s : State) (c id : Nat) (x : Upd) (rs : W32) (d1 : Dev), c < 256 → s.dev.working c = true →
    (s.dev.ctx c).upds.find? (fun z => z.id = id) = some x → (UDesc.of x.bytes).fact = true → x.passB = false →
    x.skipped = false → x.status = 0 → x.passDone = true →
    Gives (UEnv.factStats ⟨c, UDesc.of x.bytes, none, []⟩ x) s.dev rs d1 →
    exec (.factPassB c id) s = .next (s.withDev (d1.modUpd c id fun z => { z with
      passB := true, rs := rs, next := (List.range (UDesc.of x.bytes).unitList.length).map fun i =>
        ((UDesc.of x.bytes).unitList.getD i 0, i) }))) ∧
  (∀ (s : State) (c id : Nat) (x x' : Upd) (d1 : Dev), c < 256 → s.dev.working c = true →
    (s.dev.ctx c).upds.find? (fun z => z.id = id) = some x → x.passDone = true →
    ((UDesc.of x.bytes).fact && !x.passB && x.status = 0 && !x.skipped) = false → (UDesc.of x.bytes).chain = 0xFFFF →
    d1 = (if x.written then s.dev else s.dev.writeCount c x (UDesc.of x.bytes)) →
    (d1.ctx c).upds.find? (fun z => z.id = id) = some x' →
    exec (.updComplete c id) s = .next (s.withDev
      (((d1.modCtx c fun z => { z with upds := z.upds.filter fun u => u.id ≠ id }).countUpd c x'.status x.skipped).showUnits)))

/-! ### Accord (chapter 9) -/

/-- The PUBLISH descriptors complete: CREATE makes a set with its image in both banks' frames, SEND sends the shards
that it can read as far as no pause holds their flits, DESTROY ends a set, AWAIT waits on one; a SEND none of whose flits waits any more
completes with the number of its shards and of the edges detached from it. -/
def Obligations.PublishDescriptorsComplete : Prop :=
  (∀ (s : State) (q i c f0 f1 : Nat) (w : Waiter) (bs : List Byte) (rsp : TierRsp) (t img : Got) (d1 d2 : Dev),
    s.dev.Stands q i 5 0 c w bs → publishForm bs = true → s.dev.flag F.accSetCfg_valid (fieldAt bs 18 2) = false →
    s.dev.mapped c (fieldAt bs 48 8) (fieldAt bs 32 8) = true → s.dev.mapped c (fieldAt bs 40 8) (8 * fieldAt bs 22 2) = true →
    fieldAt bs 24 8 + fieldAt bs 32 8 ≤ 2 ^ 50 →
    (s.dev.ctx c).anyLeaf ((granules (fieldAt bs 24 8) (fieldAt bs 32 8)).headD 0)
      (granules (fieldAt bs 24 8) (fieldAt bs 32 8)).length = false →
    s.dev.deviceMeets c (fieldAt bs 24 8) (fieldAt bs 32 8) = false →
    s.dev.readVa c none rsp (fieldAt bs 40 8) (8 * fieldAt bs 22 2) = (t, d1) → t.bad = none →
    tableOk t.raw (fieldAt bs 22 2) (fieldAt bs 32 8) = true → d1.quotaOk c 0 (2 * fieldAt bs 32 8) = true →
    d1.tablesFit c ((granules (fieldAt bs 24 8) (fieldAt bs 32 8)).foldl
      (fun ls g => SMap.set ls g (windowLeaf (fieldAt bs 18 2))) (s.dev.ctx c).leaves) (2 * fieldAt bs 32 8) = true →
    d1.bankRun (ceilDiv (fieldAt bs 32 8) pageBytes) = some f0 →
    (d1.setUsed 0 (SMap.set (d1.used 0) f0 (ceilDiv (fieldAt bs 32 8) pageBytes))).bankRun
      (ceilDiv (fieldAt bs 32 8) pageBytes) = some f1 →
    d1.readVa c none rsp (fieldAt bs 48 8) (fieldAt bs 32 8) = (img, d2) → img.bad = none →
    exec (.wsCreate q i rsp) s = .next (s.withDev
      ((d2.makeSet c (fieldAt bs 18 2) bs img.raw (shardTable t.raw (fieldAt bs 22 2)) f0 f1).complete w Status.ok 0))) ∧
  (∀ (s : State) (q i c : Nat) (w : Waiter) (bs : List Byte) (rsp : TierRsp) (t : Got) (list : List (Nat × Nat)) (st : Option Nat)
    (shards : List Nat) (fs rest : List AccFlit) (d1 d2 d3 : Dev), s.dev.Stands q i 5 1 c w bs → publishForm bs = true → s.dev.ownsSet c (fieldAt bs 18 2) = true →
    fieldAt bs 56 4 ≠ 0xFFFFFFFF → s.dev.mapped c (fieldAt bs 40 8) (16 * fieldAt bs 22 2) = true →
    s.dev.readVa c none rsp (fieldAt bs 40 8) (16 * fieldAt bs 22 2) = (t, d1) → t.bad = none →
    (∀ k < fieldAt bs 22 2, allZero (slice t.raw (16 * k + 2) 6) = true) →
    list = (List.range (fieldAt bs 22 2)).map (fun k => (fieldAt t.raw (16 * k) 2, fieldAt t.raw (16 * k + 8) 8)) →
    (∀ e ∈ list, e.1 < d1.shardsOf (fieldAt bs 18 2)) →
    (∀ e ∈ list, d1.mapped c e.2 ((((d1.wset (fieldAt bs 18 2)).table[e.1]?).map (·.2)).getD 0) = true) →
    d1.readShards c (fieldAt bs 18 2) (fieldAt bs 56 4) rsp list = (st, shards, fs, d2) →
    (d2.accept w).inject (fieldAt bs 18 2) fs = (rest, d3) →
    exec (.send q i rsp) s = .next (s.withDev
      { d3 with sends := d3.sends ++ [⟨w, fieldAt bs 18 2, fieldAt bs 56 4, shards, st.getD 0, rest⟩] })) ∧
  (∀ (s : State) (q i : Nat) (x : Sending), q < 16384 → i < 65536 →
    s.dev.sends.find? (fun x => x.who.q = q && x.who.idx = i) = some x → s.dev.stillSending x = false → s.dev.Awaited x.who →
    ∃ t, exec (.sendComplete q i) s = .next t ∧
      t.dev.DueLast x.who x.status (x.shards.length + s.dev.edgesCut x % 2 ^ 16 * 2 ^ 32) ∧ ∀ y ∈ t.dev.sends, y.who ≠ x.who) ∧
  (∀ (s : State) (q i c : Nat) (w : Waiter) (bs : List Byte), s.dev.Stands q i 5 2 c w bs → publishForm bs = true →
    s.dev.ownsSet c (fieldAt bs 18 2) = true → (∀ x < 256, s.dev.poolNames x (fieldAt bs 18 2) = false) →
    exec (.wsDestroy q i) s = .next (s.withDev ((s.dev.endSet (fieldAt bs 18 2) Status.integrity).complete w Status.ok 0))) ∧
  (∀ (s : State) (q i c : Nat) (w : Waiter) (bs : List Byte), s.dev.Stands q i 5 3 c w bs → publishForm bs = true →
    s.dev.ownsSet c (fieldAt bs 18 2) = true →
    ∃ t, exec (.await q i) s = .next t ∧
      (t.dev.wset (fieldAt bs 18 2)).awaits = (s.dev.wset (fieldAt bs 18 2)).awaits ++ [w])

/-- The events of a publish complete: a flit goes to every set it is bound for, a released bank takes the flits held for it, a
share that stands at its cap too long is detached, a detach flit abandons the publish, an assembly that stands still is abandoned. -/
def Obligations.PublishEventsComplete : Prop :=
  (∀ (s : State) (port : Nat) (f : AccFlit), port < 32 → f.kind < 2 →
    exec (.accordFlitArrive port f) s = .next (s.withDev
      (s.dev.each (s.dev.boundSets f.group f.gset) fun w d => d.acceptFlit (if port < 16 then 0 else 1) f w).watchAccord)) ∧
  (∀ (s : State) (w : Nat), w < 256 → s.dev.flag F.accSetCfg_valid w = true → s.dev.get F.accSetStat_state w = setHeld →
    s.dev.inactiveRead w = false →
    exec (.bankRelease w) s = .next (s.withDev
      ((((s.dev.modWset w fun x => { x with held := [] }).put F.accSetStat_state w setAssembling).each (s.dev.wset w).held
        fun h d => d.acceptFlit h.1 h.2 w).watchAccord))) ∧
  (∀ (s : State) (g gset epoch since : Nat) (edge : Option Nat), g < 64 → gset < 65536 → epoch < 4294967296 →
    (g, gset, epoch, edge, since) ∈ s.dev.shares → since + 1000 * max 1 (s.dev.get F.accGrpCfg_stall_us g) < s.dev.ns →
    s.dev.shareAtCap g gset epoch edge = true →
    (edge = none → exec (.shareDetach g gset epoch edge) s =
      .next (s.withDev ((s.dev.abandonPublish g gset epoch).incSat F.accGrpStat_detaches g))) ∧
    (∀ p, edge = some p → p < 32 → exec (.shareDetach g gset epoch edge) s =
      .next (s.withDev ((s.dev.detachEdge g gset epoch p).enqueue p
        (flitsOf p 0xFFFF g (.acc ⟨2, g, gset, epoch, 0, 0, 0, (s.dev.detachEdge g gset epoch p).groupRank g, []⟩) 0))))) ∧
  (∀ (s : State) (f : AccFlit), Instr.wf (.detachFlitArrive f) = true → f.kind = 2 →
    exec (.detachFlitArrive f) s = .next (s.withDev (s.dev.abandonPublish f.group f.gset f.epoch))) ∧
  (∀ (s : State) (w : Nat), w < 256 → s.dev.flag F.accSetCfg_valid w = true → s.dev.get F.accSetStat_state w ≠ setSteady →
    (s.dev.wset w).asmTime + 10 ^ 6 * (s.dev.wset w).tmoMs ≤ s.dev.ns →
    exec (.asmTmo w) s = .next (s.withDev ((s.dev.abandonEpoch w (s.dev.get F.accSetStat_asm w)).watchAccord)))

/-! ### Tiers (chapter 11) -/

/-- The MIGRATE descriptors complete: a LAZY MAP makes its leaves, UNMAP drops them, MOVE reserves places for all and begins,
HINT sets the preference of every leaf. -/
def Obligations.MigrateDescriptorsComplete : Prop :=
  (∀ (s : State) (q i c : Nat) (w : Waiter) (bs : List Byte) (m : Migrate), s.dev.Stands q i 7 0 c w bs → m = Migrate.of bs →
    migrateForm bs true = true → s.dev.moveHolds c m.g0 m.gn = false → s.dev.migrateAhead c q i m = false → m.va + m.len ≤ 2 ^ 50 →
    (s.dev.ctx c).anyLeaf m.g0 m.gn = false → s.dev.deviceMeets c m.va m.len = false → m.lazy = true →
    s.dev.noHeart m.tier = false →
    exec (.map q i) s = .next (s.withDev ((s.dev.setLeaves c
      (m.starts.foldl (fun ls k => SMap.set ls k m.leaf) (s.dev.ctx c).leaves)).complete w Status.ok m.starts.length))) ∧
  (∀ (s : State) (q i c : Nat) (w : Waiter) (bs : List Byte) (m : Migrate), s.dev.Stands q i 7 1 c w bs → m = Migrate.of bs →
    migrateForm bs false = true → s.dev.moveHolds c m.g0 m.gn = false → s.dev.migrateAhead c q i m = false → s.dev.allMapped c m.g0 m.gn = true →
    cutsLeaf ((s.dev.ctx c).leavesIn m.g0 m.gn) m.g0 m.gn = false → s.dev.deviceMeets c m.va m.len = false →
    (∀ e ∈ (s.dev.ctx c).leavesIn m.g0 m.gn, e.2.kind = .map) →
    exec (.unmap q i) s = .next (s.withDev ((s.dev.dropLeaves c (((s.dev.ctx c).leavesIn m.g0 m.gn).map (·.1))).complete w
      Status.ok ((s.dev.ctx c).leavesIn m.g0 m.gn).length))) ∧
  (∀ (s : State) (q i c : Nat) (w : Waiter) (bs : List Byte) (m : Migrate) (left : List (Nat × Nat × Nat)) (d1 : Dev),
    s.dev.Stands q i 7 2 c w bs → m = Migrate.of bs → migrateForm bs false = true → s.dev.moveHolds c m.g0 m.gn = false → s.dev.migrateAhead c q i m = false →
    s.dev.allMapped c m.g0 m.gn = true → cutsLeaf ((s.dev.ctx c).leavesIn m.g0 m.gn) m.g0 m.gn = false →
    (∀ e ∈ (s.dev.ctx c).leavesIn m.g0 m.gn, e.2.kind = .map) → (s.dev.ctx c).rollouts = [] → m.fallback = false →
    s.dev.noHeart m.tier = false →
    s.dev.reserveAll c m.tier [m.tier] ((s.dev.ctx c).leavesIn m.g0 m.gn) [] = (some left, d1) →
    exec (.move q i) s = .next (s.withDev
      (((d1.accept w).retierRings c m.va m.len m.tier).startMove c (.desc w) m.g0 m.gn m.tier left))) ∧
  (∀ (s : State) (q i c : Nat) (w : Waiter) (bs : List Byte) (m : Migrate), s.dev.Stands q i 7 3 c w bs → m = Migrate.of bs →
    migrateForm bs false = true → s.dev.moveHolds c m.g0 m.gn = false → s.dev.migrateAhead c q i m = false → s.dev.allMapped c m.g0 m.gn = true →
    cutsLeaf ((s.dev.ctx c).leavesIn m.g0 m.gn) m.g0 m.gn = false →
    (∀ e ∈ (s.dev.ctx c).leavesIn m.g0 m.gn, e.2.kind = .map) → s.dev.noHeart m.tier = false →
    exec (.hint q i) s = .next (s.withDev ((s.dev.each ((s.dev.ctx c).leavesIn m.g0 m.gn) fun e d =>
      d.setLeaf c e.1 { e.2 with pref := m.tier, fallback := m.fallback }).complete w Status.ok
        ((s.dev.ctx c).leavesIn m.g0 m.gn).length)))

/-- The events and register writes of the tiers complete: a mover moves its next granule, a failed request reaches its requester
(a timeout once the tier's time has passed), patrol scrub counts its corrections and its passes, a quota that TIER_CAP can hold is set, the probe shows a leaf. -/
def Obligations.TierEventsComplete : Prop :=
  (∀ (s : State) (c id k t f : Nat) (rsp : TierRsp) (m : Move) (rest : List (Nat × Nat × Nat)) (l : Leaf) (d1 : Dev), c < 256 →
    s.dev.working c = true → (s.dev.ctx c).moves.find? (fun x => x.id = id) = some m → m.left = (k, t, f) :: rest →
    SMap.find (s.dev.ctx c).leaves k = some l → s.dev.moveMeets c k l t f rsp = (none, d1) →
    exec (.moveGranule c id rsp) s = .next (s.withDev ((d1.switchLeaf c k l t f).turnMove c
      { m with left := rest, moved := m.moved + 1, below := m.below + if t = m.dest then 0 else 1 }))) ∧
  (∀ (s : State) (c id va : Nat), c < 256 →
    exec (.tierRequestComplete (.move c id) va true) s = .next (s.withDev (s.dev.moveGranule c id [(va, false)]))) ∧
  (∀ (s : State) (c id va tier : Nat) (m : Move), c < 256 → (s.dev.ctx c).moves.find? (fun x => x.id = id) = some m →
    s.dev.tierAt c va = some tier → tier ≠ 0 → m.since + s.dev.tierTmo tier ≤ s.dev.ns →
    exec (.tierTimeoutExpiry (.move c id) va) s = .next (s.withDev (s.dev.moveGranule c id [(va, true)]))) ∧
  (∀ (s : State) (frame n : Nat), Instr.wf (.patrolScrub 0 frame n false true) = true →
    ∃ t, exec (.patrolScrub 0 frame n false true) s = .next t ∧
      t.dev.get F.tierStat_corrected 0 = satAdd F.tierStat_corrected.w (s.dev.get F.tierStat_corrected 0) n ∧
      t.dev.get F.tierScrub_top_passes 0 = (s.dev.get F.tierScrub_top_passes 0 + 1) % 2 ^ F.tierScrub_top_passes.w) ∧
  (∀ (s : State) (c tier limit : Nat), Instr.wf (.tierQuotaWrite 0 c tier limit) = true → s.dev.served = true →
    s.dev.flag F.ctxCfg_valid c = true → s.dev.limits tier (some c) + limit ≤ s.dev.get F.tierCap_frames 0 tier →
    exec (.tierQuotaWrite 0 c tier limit) s = .next (s.withDev ((s.dev.put F.tierQuota_limit c limit tier).countAssigned))) ∧
  (∀ (s : State) (fn c va k : Nat) (l : Leaf), Instr.wf (.tierProbe fn c va) = true → s.dev.ctxWritable0 fn c = true →
    (s.dev.ctx c).leafAt (va / pageBytes) = some (k, l) →
    exec (.tierProbe fn c va) s = .next (s.withDev (s.dev.setReg .tierProbeRes c (s.dev.leafWord k l))))

/-! ### Data movement (chapter 12) -/

/-- The DMA and particle instructions complete: an issue with a legal record and a free slot adds a transfer (held for
the full stop where it is a prefetch that R48 holds), a wait that is met
issues, STAT returns the first bad status and forgets it, CLR ends a halt. -/
def Obligations.TransferInstructionsComplete : Prop :=
  (∀ (s : State) (core seq ch off c : Nat) (next : Bool) (y : Clause), s.dev.Runs core seq c y → ch < 8 → off < 2 ^ 22 →
    s.dev.ownsChannel core seq ch = true → off % 64 = 0 → off + 64 ≤ storeBytes →
    s.dev.xrecOk c (s.dev.lsRead core off 64) = true → (XRec.of (s.dev.lsRead core off 64)).part = false →
    s.dev.slotFree core ch = true → s.dev.pathHalted core ch = false →
    ∃ t x, exec (.dma core seq ch off next) s = .next t ∧ (t.dev.core core).xfers = (s.dev.core core).xfers ++ [x] ∧ x.seq = seq ∧
      x.path = ch ∧ x.record = s.dev.lsRead core off 64 ∧ x.num = (s.dev.core core).xferNo ∧ x.moved = 0 ∧ x.ended = none ∧
      x.sent = false ∧ x.held = (next && s.dev.holdsNext c)) ∧
  (∀ (s : State) (core seq ch n c : Nat) (y : Clause), s.dev.Runs core seq c y → Instr.wf (.dmaWait core seq ch n) = true →
    s.dev.ownsChannel core seq ch = true → (s.dev.onPath core ch).length ≤ n →
    exec (.dmaWait core seq ch n) s = .next (s.withDev (s.dev.issues core seq))) ∧
  (∀ (s : State) (core seq ch c : Nat) (y : Clause), s.dev.Runs core seq c y → ch < 8 → s.dev.ownsChannel core seq ch = true →
    ∃ t, exec (.dmaStat core seq ch) s = .next t ∧
      t.dev.out = .toClause core seq (SMap.get (s.dev.core core).firstBad 0 ch) :: s.dev.out ∧
      (t.dev.core core).firstBad = SMap.erase (s.dev.core core).firstBad ch) ∧
  (∀ (s : State) (core seq ch c : Nat) (y : Clause), s.dev.Runs core seq c y → ch < 8 → s.dev.ownsChannel core seq ch = true →
    ∃ t, exec (.dmaClr core seq ch) s = .next t ∧ t.dev.get F.dmaChCtl_halted core ch = 0) ∧
  (∀ (s : State) (core seq n c : Nat) (y : Clause), s.dev.Runs core seq c y → Instr.wf (.ptWait core seq n) = true →
    (s.dev.onPath core (8 + seq)).length ≤ n →
    exec (.ptWait core seq n) s = .next (s.withDev (s.dev.issues core seq))) ∧
  (∀ (s : State) (core seq c : Nat) (y : Clause), s.dev.Runs core seq c y →
    ∃ t, exec (.ptStat core seq) s = .next t ∧
      t.dev.out = .toClause core seq (SMap.get (s.dev.core core).firstBad 0 (8 + seq)) :: s.dev.out ∧
      (t.dev.core core).firstBad = SMap.erase (s.dev.core core).firstBad (8 + seq)) ∧
  (∀ (s : State) (core seq c : Nat) (y : Clause), s.dev.Runs core seq c y →
    ∃ t, exec (.ptClr core seq) s = .next t ∧ t.dev.get F.dmaPtStat_halted core seq = 0)

/-- The life of a transfer completes: its bytes move, its completion is recorded, a failed request is retried; a remote write
lands and is acknowledged; the DMA command copies and answers its bytes, those before the failing request after a fourth bus error. -/
def Obligations.TransfersComplete : Prop :=
  (∀ (s : State) (core path n : Nat) (rsp : TierRsp) (x : Xfer) (d1 : Dev), core < 256 → path < 11 →
    (s.dev.core core).xfers.find? (·.idle path) = some x → x.held = false → s.dev.get F.coreState_state core = CoreSt.held →
    s.dev.working (s.dev.get F.coreState_ctx core) = true → (XRec.of x.record).remote = false →
    s.dev.moveAll (s.dev.get F.coreState_ctx core) (s.dev.readerOf core x.seq x.next) rsp true (XRec.of x.record)
      (XRec.of x.record).size = (none, n, d1) →
    exec (.dmaTransfer core path rsp) s = .next (s.withDev ((d1.modXfer core x.num fun x =>
      { x with ended := some Status.ok, moved := n }).countMoved core x.path n none))) ∧
  (∀ (s : State) (core path : Nat) (x : Xfer), core < 256 → path < 8 →
    (s.dev.core core).xfers.find? (fun x => x.path = path) = some x → x.ended = some 0 →
    ∃ t, exec (.dmaTransferComplete core path) s = .next t ∧
      (t.dev.core core).xfers = (s.dev.core core).xfers.erase x ∧ t.dev.get F.dmaChStat_last core path = 0 ∧
      (t.dev.core core).firstBad = (s.dev.core core).firstBad) ∧
  (∀ (s : State) (core path k used : Nat) (addr : Word) (x : Xfer), core < 256 → path < 8 →
    (s.dev.core core).xfers.find? (fun x => x.path = path && x.ended.isNone && !x.held) = some x → x.sent = false →
    (XRec.of x.record).hits addr.toNat = some k → used = (if x.retryAt = addr.toNat / 256 then x.retries else 0) →
    used < s.dev.get F.dmaChCtl_retry core path →
    ∃ t, exec (.dmaRetry core path addr) s = .next t ∧
      (t.dev.core core).xfers = modFirst (fun y => y.num = x.num)
        (fun y => { y with retryAt := addr.toNat / 256, retries := used + 1 }) (s.dev.core core).xfers ∧
      t.dev.get F.dmaChErr_retries core path = satAdd F.dmaChErr_retries.w (s.dev.get F.dmaChErr_retries core path) 1) ∧
  (∀ (s : State) (g rank a n : Nat) (tag : WriteTag) (dst : Word) (data : List Byte) (rsp : TierRsp) (m : Nat × Nat)
    (e : Option (Nat × Nat)) (d1 : Dev), g < 64 → rank < 4096 → s.dev.member g rank = some m →
    s.dev.inGroup (s.dev.get F.fabGrpCfg_ctx g) g = true → s.dev.working (s.dev.get F.fabGrpCfg_ctx g) = true →
    m.1 ≠ s.dev.ownRank → Addr.of dst.toNat = .va a →
    s.dev.putPieces (s.dev.get F.fabGrpCfg_ctx g) rsp true (requestsOf a data) 0 = (e, n, d1) →
    exec (.remoteWriteArrive g rank tag dst data rsp) s = .next (s.withDev
      (d1.send m.1 g (.dmaAck g (d1.groupRank g) tag (match e with | some b => b.1 | none => 0)) 0))) ∧
  (∀ (s : State) (q i c errs n : Nat) (addr : Word) (stop : Option Nat) (w : Waiter) (bs : List Byte) (rsp : TierRsp) (g : Got)
    (d1 d2 : Dev), s.dev.Stands q i 2 256 c w bs → fieldAt bs 16 1 = 0 → allZero (slice bs 17 7) = true →
    allZero (slice bs 32 32) = true → fieldAt bs 24 8 % 64 = 0 → s.dev.readVa c none rsp (fieldAt bs 24 8) 64 = (g, d1) →
    g.bad = none → (XRec.of g.raw).trans = false → (XRec.of g.raw).remote = false → (XRec.of g.raw).part = false →
    bitOf (XRec.of g.raw).dst 63 = false → ((XRec.of g.raw).zero = false → bitOf (XRec.of g.raw).src 63 = false) →
    (XRec.of g.raw).zeros g.raw = true → (XRec.of g.raw).shapes = true →
    stop = (if 3 < errs then (XRec.of g.raw).hits addr.toNat else none) →
    d1.moveAll c none rsp false (XRec.of g.raw) (stop.getD (XRec.of g.raw).size) = (none, n, d2) →
    exec (.dmaCopy q i rsp errs addr) s =
      .next (s.withDev (d2.complete w (if stop.isSome then Status.dmaHalt else Status.ok) n)))

/-! ### Ports (chapter 13) -/

/-- The events of a fabric port complete: a flit that passes its checks is taken and delivered, a replay request sends again what
is not acknowledged, training brings a port that authenticates the peer that ENV TOPO named to UP, a failed lane retrains a port,
a late retrain and a key limit take it DOWN, a rekey renews its keys, and a recalibration runs. -/
def Obligations.PortEventsComplete : Prop :=
  (∀ (s : State) (p : Nat) (f : Flit) (symbols : List Nat), p < 32 → s.dev.portIsUp p = true → f.bytes.length = 256 →
    bitsOf (fieldAt f.bytes 224 1) 6 2 = 0 → (bitsOf (fieldAt f.bytes 224 1) 0 2 = 2 ∨ bitOf (fieldAt f.bytes 224 1) 5 = false) →
    crc32c (f.bytes.take 252) = fieldAt f.bytes 252 4 →
    fieldAt f.bytes 228 4 = (s.dev.port p).rxSeq → f.tagOk = true → bitsOf (fieldAt f.bytes 224 1) 0 2 = classOf f.msg →
    exec (.flitReceive p f symbols) s =
      .next (s.withDev ((((s.dev.countCodewords p symbols).incMod F.fabPortFlits_rx p).modPort p fun x =>
        { x with rxSeq := (x.rxSeq + 1) % 2 ^ 32, replay := x.replay.filter fun k => !seqLe k.seq (fieldAt f.bytes 232 4),
                 keyCount := SMap.set x.keyCount 1 (SMap.get x.keyCount 0 1 + 1) }).route p f))) ∧
  (∀ (s : State) (p seq : Nat), Instr.wf (.replayRequest p seq) = true → s.dev.portIsUp p = true →
    (s.dev.port p).replayRun.2 = 0 →
    ∃ t, exec (.replayRequest p seq) s = .next t ∧
      t.dev.out = (((s.dev.port p).replay.filter fun k => seqLe seq k.seq).map fun k => Out.replayed p k).reverse ++ s.dev.out ∧
      (t.dev.port p).replayRun = (seq, 1)) ∧
  (∀ (s : State) (p w : Nat) (lanes : BitVec 4) (same : Bool), p < 32 →
    s.dev.portIsUp p = false → s.dev.flag F.fabPortCfg_enable p = true → s.dev.flag F.fabPortStat_level_set p = true →
    s.dev.domOn (288 + p) = true → s.dev.widthAllowed p lanes = some w → (s.dev.port p).retrainAt = none →
    (s.dev.port p).topoRank < 2 ^ F.fabPortStat_peer.w →
    s.dev.exchange (.ok (s.dev.port p).topoRank same) = some (s.dev.port p).topoRank →
    ∃ t, exec (.portTraining p lanes (.ok (s.dev.port p).topoRank same)) s = .next t ∧
      t.dev.get F.fabPortStat_state p = portUp ∧ t.dev.get F.fabPortStat_width p = w ∧
      t.dev.get F.fabPortStat_peer p = (s.dev.port p).topoRank) ∧
  (∀ (s : State) (p : Nat), p < 32 → s.dev.portIsUp p = true →
    exec (.laneFail p) s = .next (s.withDev (s.dev.retrain p))) ∧
  (∀ (s : State) (p t0 : Nat), p < 32 → (s.dev.port p).retrainAt = some t0 → s.dev.get F.fabPortStat_state p = portTrain →
    t0 + 200000 < s.dev.ns → exec (.retrainTimeout p) s = .next (s.withDev (s.dev.portFall p))) ∧
  (∀ (s : State) (p : Nat), p < 32 → s.dev.get F.fabPortStat_state p ≠ 0 →
    exec (.portDown p) s = .next (s.withDev (s.dev.portFall p))) ∧
  (∀ (s : State) (p dir : Nat) (same : Bool), Instr.wf (.rekey p dir (.ok (s.dev.port p).topoRank same)) = true →
    s.dev.portIsUp p = true → (s.dev.worn p rekeyAfter).contains dir = true → (s.dev.port p).rekeyAt = none →
    s.dev.exchange (.ok (s.dev.port p).topoRank same) = some (s.dev.port p).topoRank →
    ∃ t, exec (.rekey p dir (.ok (s.dev.port p).topoRank same)) s = .next t ∧
      SMap.get (t.dev.port p).keyIndex 0 dir = (SMap.get (s.dev.port p).keyIndex 0 dir + 1) % 2 ^ 32 ∧
      SMap.get (t.dev.port p).keyCount 0 dir = 0) ∧
  (∀ (s : State) (p t0 : Nat) (kx : KeyExchange), Instr.wf (.rekeyRetry p kx) = true → (s.dev.port p).rekeyAt = some t0 →
    s.dev.portIsUp p = true → t0 + 10 ^ 8 ≤ s.dev.ns →
    exec (.rekeyRetry p kx) s = .next (s.withDev (s.dev.newKeys p (s.dev.worn p rekeyAfter) kx))) ∧
  (∀ (s : State) (p : Nat), p < 32 → s.dev.portIsUp p = true → s.dev.worn p keyLimit ≠ [] →
    exec (.keyLimitReached p) s = .next (s.withDev (s.dev.portFall p))) ∧
  (∀ (s : State) (p : Nat), p < 32 → s.dev.served = true →
    ∃ t, exec (.recal 0 p) s = .next t ∧ t.dev.get F.fabPortCfg_recal p = 1) ∧
  (∀ (s : State) (p : Nat), p < 32 → s.dev.flag F.fabPortCfg_recal p = true → s.dev.portIsUp p = true →
    (s.dev.port p).recal = false → s.dev.groupsOver p = [] →
    ∃ t, exec (.recalStart p) s = .next t ∧ (t.dev.port p).recal = true) ∧
  (∀ (s : State) (p w : Nat) (lanes : BitVec 4), p < 32 → (s.dev.port p).recal = true → s.dev.widthAllowed p lanes = some w →
    ∃ t, exec (.recalComplete p lanes) s = .next t ∧ (t.dev.port p).recal = false ∧ t.dev.get F.fabPortCfg_recal p = 0 ∧
      t.dev.get F.fabPortStat_width p = w)

/-! ### Collectives (chapter 13) -/

/-- The collective descriptors complete: a GROUP with a good table sends its JOIN and waits for the others, DESTROY frees a group,
and the five operations enter their group's series. -/
def Obligations.CollectiveDescriptorsComplete : Prop :=
  (∀ (s : State) (q i c : Nat) (w : Waiter) (bs : List Byte) (t : Got) (d1 : Dev), s.dev.Stands q i 3 0 c w bs →
    (CollRec.of bs).formOk bs = true →
    s.dev.readVa c none [] (CollRec.of bs).src (4 * (CollRec.of bs).count) = (t, d1) → t.bad = none →
    ((List.range (CollRec.of bs).count).map fun k => fieldAt t.raw (4 * k) 4).all (fun v => bitsOf v 20 12 = 0) = true →
    d1.flag F.fabGrpCfg_valid (CollRec.of bs).group = false → (d1.group (CollRec.of bs).group).forming = none →
    ((((List.range (CollRec.of bs).count).map fun k => fieldAt t.raw (4 * k) 4).map fun v => (bitsOf v 0 12, bitsOf v 12 8)).filter
      fun m => m.1 = d1.ownRank) = [(d1.ownRank, c)] →
    ∃ (f : Forming) (d2 : Dev), f.who = w ∧ f.ctx = c ∧ f.since = d1.ns ∧
      f.members = ((List.range (CollRec.of bs).count).map fun k => fieldAt t.raw (4 * k) 4).map
        (fun v => (bitsOf v 0 12, bitsOf v 12 8)) ∧
      f.tmo = (if (CollRec.of bs).tmo = 0 then 2000 else (CollRec.of bs).tmo) ∧
      d2 = ((d1.accept w).modGroup (CollRec.of bs).group fun x => { Group.init with joins := x.joins, forming := some f }) ∧
      exec (.group q i) s = .next (s.withDev
        ((d2.sendTree (f.members.map (·.1)) (CollRec.of bs).group (.join d1.ownRank f.digest) 32 []).tryForm (CollRec.of bs).group))) ∧
  (∀ (s : State) (q i c : Nat) (w : Waiter) (bs : List Byte), s.dev.Stands q i 3 1 c w bs →
    (CollRec.of bs).formOk bs = true → s.dev.groupUsable c (CollRec.of bs).group = true →
    exec (.collDestroy q i) s = .next (s.withDev
      ((s.dev.freeGroup (CollRec.of bs).group Status.collAbort).complete w Status.ok 0))) ∧
  (∀ (s : State) (q i op c : Nat) (w : Waiter) (bs : List Byte) (rsp : TierRsp), s.dev.Stands q i 3 op c w bs → op ≠ 256 →
    s.dev.collCheck c false bs = none →
    (op = 2 → exec (.allReduce q i rsp) s = .next (s.withDev ((s.dev.accept w).issueOp bs (some w) none rsp))) ∧
    (op = 3 → exec (.reduceScatter q i rsp) s = .next (s.withDev ((s.dev.accept w).issueOp bs (some w) none rsp))) ∧
    (op = 4 → exec (.allGather q i rsp) s = .next (s.withDev ((s.dev.accept w).issueOp bs (some w) none rsp))) ∧
    (op = 5 → exec (.broadcast q i rsp) s = .next (s.withDev ((s.dev.accept w).issueOp bs (some w) none rsp))) ∧
    (op = 6 → exec (.barrier q i) s = .next (s.withDev ((s.dev.accept w).issueOp bs (some w) none []))))

/-- What happens to a group and its operations completes: a JOIN is kept, a GROUP times out after 1 s, COLL issues from local
store, COLL_WAIT and COLL_STAT answer, an operation whose data are here is written and ends, or lets its checkpoint or restore go on
(log entry 77), an operation times out, another member's ABORT ends it, and a receiver's share that stands at its cap too long is
detached. -/
def Obligations.CollectiveEventsComplete : Prop :=
  (∀ (s : State) (g rank : Nat) (dg : List Byte), Instr.wf (.joinReceive g rank dg) = true → rank ≠ s.dev.ownRank →
    exec (.joinReceive g rank dg) s = .next (s.withDev ((s.dev.modGroup g fun x =>
      { x with joins := x.joins.filter (fun j => j.1 ≠ rank) ++ [(rank, dg)] }).tryForm g))) ∧
  (∀ (s : State) (g : Nat) (f : Forming), g < 64 → (s.dev.group g).forming = some f → f.since + 10 ^ 9 ≤ s.dev.ns →
    exec (.groupJoinTimeout g) s = .next (s.withDev (s.dev.failForm g f Status.collTimeout))) ∧
  (∀ (s : State) (core seq off c : Nat) (y : Clause) (rsp : TierRsp), s.dev.Runs core seq c y → off + 64 ≤ storeBytes →
    s.dev.collCheck c true (s.dev.lsRead core off 64) = none →
    exec (.coll core seq off rsp) s = .next (s.withDev
      ((s.dev.issues core seq).issueOp (s.dev.lsRead core off 64) none (some (core, seq)) rsp))) ∧
  (∀ (s : State) (core seq g n c : Nat) (y : Clause), s.dev.Runs core seq c y → g < 64 →
    ((s.dev.group g).ops.filter fun o => o.core = some (core, seq)).length ≤ n →
    exec (.collWait core seq g n) s = .next (s.withDev (s.dev.issues core seq))) ∧
  (∀ (s : State) (core seq g c : Nat) (y : Clause), s.dev.Runs core seq c y → g < 64 →
    ∃ t, exec (.collStat core seq g) s = .next t ∧
      t.dev.out = .toClause core seq (SMap.get (s.dev.core core).collBad 0 (seq * 64 + g)) :: s.dev.out ∧
      (t.dev.core core).collBad = SMap.erase (s.dev.core core).collBad (seq * 64 + g)) ∧
  (∀ (s : State) (g num c : Nat) (o : CollOp) (rsp : TierRsp), g < 64 → (s.dev.group g).op num = some o →
    s.dev.flag F.fabGrpCfg_valid g = true → c = s.dev.get F.fabGrpCfg_ctx g → o.ready (s.dev.ranksOf g) s.dev.ownRank = true →
    (∀ (bad : Option Nat) (n : Nat) (d1 : Dev), o.use = .user → o.mine = true →
      s.dev.collDeliver c rsp o (s.dev.ranksOf g) = (bad, n, d1) →
      exec (.collOperationComplete g num rsp) s = .next (s.withDev
        (d1.finishOp g o (if o.status ≠ 0 then o.status else bad.getD Status.ok) n rsp))) ∧
    (o.use = .plan → exec (.collOperationComplete g num rsp) s = .next (s.withDev ((s.dev.finishOp g o Status.ok 0 rsp).planKnown c
      (fieldAt (((o.downs.head?).map (·.2.2)).getD []) 0 8 % 2)))) ∧
    (o.use = .summary → exec (.collOperationComplete g num rsp) s =
      .next (s.withDev ((s.dev.finishOp g o Status.ok 0 rsp).summariesKnown c g o rsp))) ∧
    (o.use = .vote → exec (.collOperationComplete g num rsp) s =
      .next (s.withDev ((s.dev.finishOp g o Status.ok 0 rsp).votesKnown c o rsp)))) ∧
  (∀ (s : State) (g num t0 : Nat) (o : CollOp), g < 64 → (s.dev.group g).op num = some o → o.issued = some t0 →
    s.dev.flag F.fabGrpCfg_valid g = true → s.dev.get F.fabGrpCfg_mode g = 0 →
    t0 + 1000 * s.dev.get F.fabGrpCtl_tmo_us g < s.dev.ns →
    exec (.collAbortTimeout g num) s = .next (s.withDev (s.dev.abortOp g num (s.dev.groupRank g) 1))) ∧
  (∀ (s : State) (g num rank cause : Nat), Instr.wf (.abortReceive g num rank cause) = true →
    s.dev.flag F.fabGrpCfg_valid g = true →
    exec (.abortReceive g num rank cause) s = .next (s.withDev (s.dev.abortHere g num rank cause))) ∧
  (∀ (s : State) (g num since : Nat) (edge : Option Nat) (o : CollOp), g < 64 → (s.dev.group g).op num = some o →
    (edge, since) ∈ o.caps → since + 1000 * orElse (s.dev.get F.fabGrpCtl_stall_us g) 1 < s.dev.ns →
    s.dev.collAtCap g o edge = true →
    (edge = none → exec (.collShareDetach g num edge) s =
      .next (s.withDev ((s.dev.incSat F.fabGrpStat_detaches g).detachHere g o))) ∧
    (∀ p d1, edge = some p → p < 32 → d1 = (((s.dev.incSat F.fabGrpStat_detaches g).dropWaiting fun q x =>
        q = p && downFlits g num x).modOp g num fun o => { o with cut := o.cut ++ [p], caps := o.caps.filter fun e => e.1 ≠ edge }) →
      exec (.collShareDetach g num edge) s =
        .next (s.withDev (d1.enqueue p (flitsOf p 0xFFFF g (.collDetach num d1.ownRank) 0)))))

/-! ### Checkpoints (chapter 14) -/

/-- The checkpoint descriptors complete: AREA maps and unmaps, a SAVE that its checks accept is armed, a RESTORE tries its
candidates, QUERY answers the two commit records. -/
def Obligations.CheckpointDescriptorsComplete : Prop :=
  (∀ (s : State) (q i c : Nat) (w : Waiter) (bs : List Byte) (d1 : Dev), s.dev.Stands q i 8 0 c w bs →
    allZero (slice bs 17 7) = true → allZero (slice bs 48 16) = true → fieldAt bs 24 8 % 2 ^ 30 = 0 →
    fieldAt bs 32 8 % 2 ^ 22 = 0 → fieldAt bs 40 8 % 2 ^ 21 = 0 → fieldAt bs 32 8 ≠ 0 →
    s.dev.mapArea c (fieldAt bs 24 8) (fieldAt bs 32 8) (fieldAt bs 40 8) = .ok d1 →
    exec (.area q i) s = .next (s.withDev (d1.complete w Status.ok 0))) ∧
  (∀ (s : State) (q i c : Nat) (w : Waiter) (bs : List Byte) (a : Area), s.dev.Stands q i 8 0 c w bs →
    allZero (slice bs 17 7) = true → allZero (slice bs 48 16) = true → fieldAt bs 24 8 % 2 ^ 30 = 0 →
    fieldAt bs 40 8 % 2 ^ 21 = 0 → fieldAt bs 32 8 = 0 → s.dev.areaAt c (fieldAt bs 24 8) = some a →
    (s.dev.ctx c).ckpt = none → (s.dev.ctx c).restore = none →
    exec (.area q i) s = .next (s.withDev ((s.dev.unmapArea c a).complete w Status.ok 0))) ∧
  (∀ (s : State) (q i c : Nat) (w : Waiter) (bs : List Byte) (a : Area) (g : Got) (d1 : Dev), s.dev.Stands q i 8 1 c w bs →
    fieldAt bs 17 1 ≤ 2 → allZero (slice bs 18 2) = true → fieldAt bs 20 4 ≤ 65535 → allZero (slice bs 60 4) = true →
    s.dev.kindOf c ≠ 0 → s.dev.areaAt c (fieldAt bs 24 8) = some a →
    s.dev.readVa c none [] (fieldAt bs 32 8) (160 * fieldAt bs 20 4) = (g, d1) → g.bad = none →
    d1.entriesCheck c ((List.range (fieldAt bs 20 4)).map fun k => Entry.of (slice g.raw (160 * k) 160)) false = none →
    (shardPlaces ((List.range (fieldAt bs 20 4)).map fun k => Entry.of (slice g.raw (160 * k) 160))
      (64 + 32 * fieldAt bs 20 4)).2 ≤ fieldAt bs 56 4 * 4096 →
    d1.stepNow c ≤ fieldAt bs 40 8 → (d1.ctx c).ckpt = none →
    ∃ t, exec (.save q i) s = .next t ∧ t.dev.get F.ckptStat_phase c = 1 ∧
      (t.dev.ctx c).ckpt = some ⟨w, bs ++ g.raw, fieldAt bs 24 8, a.len, 0, 0, 0, [], 0, [], 0⟩) ∧
  (∀ (s : State) (q i c : Nat) (w : Waiter) (bs : List Byte) (a : Area) (g : Got) (rsp : TierRsp)
    (ra rb : List Byte) (sa sb tier : Option Nat) (cs : List (Nat × List Byte)) (d1 d2 d3 : Dev), s.dev.Stands q i 8 2 c w bs →
    fieldAt bs 17 1 ≤ 2 → allZero (slice bs 18 2) = true → 1 ≤ fieldAt bs 20 4 → fieldAt bs 20 4 ≤ 65535 →
    allZero (slice bs 40 24) = true → s.dev.kindOf c ≠ 0 → s.dev.areaAt c (fieldAt bs 24 8) = some a →
    s.dev.readVa c none [] (fieldAt bs 32 8) (160 * fieldAt bs 20 4) = (g, d1) → g.bad = none →
    d1.entriesCheck c ((List.range (fieldAt bs 20 4)).map fun k => Entry.of (slice g.raw (160 * k) 160)) true = none →
    d1.get F.lrnStepStat_phase c = LrnSt.idle → (d1.ctx c).ckpt = none → (d1.ctx c).restore = none → d1.jobReady c = true →
    d1.readRecord c rsp (fieldAt bs 24 8) a.len 0 = (ra, sa, d2) → d2.readRecord c rsp (fieldAt bs 24 8) a.len 1 = (rb, sb, d3) →
    cs = candidatesOf (fieldAt bs 17 1) ra rb (d3.reg .ckptJobId c) → tier = (match sa with | some st => some st | none => sb) →
    exec (.restore q i rsp) s = .next (s.withDev ((d3.accept w).tryNext c rsp
      ⟨w, g.raw, fieldAt bs 24 8, a.len, cs, (0, []), 0, 0, none, tier⟩ cs tier))) ∧
  (∀ (s : State) (q i c n : Nat) (w : Waiter) (bs : List Byte) (a : Area) (rsp : TierRsp) (ra rb : List Byte) (d1 d2 d3 : Dev),
    s.dev.Stands q i 8 3 c w bs → allZero (slice bs 17 7) = true → allZero (slice bs 40 24) = true →
    s.dev.areaAt c (fieldAt bs 24 8) = some a → s.dev.writable c (fieldAt bs 32 8) 256 = true →
    s.dev.readRecord c rsp a.va a.len 0 = (ra, none, d1) → d1.readRecord c rsp a.va a.len 1 = (rb, none, d2) →
    d2.writeVa c rsp (fieldAt bs 32 8)
      ((if commitValid ra (d2.reg .ckptJobId c) then ra else List.replicate 128 0) ++
       (if commitValid rb (d2.reg .ckptJobId c) then rb else List.replicate 128 0)) = (none, n, d3) →
    exec (.query q i rsp) s = .next (s.withDev (d3.complete w Status.ok 0)))

/-- The events of a SAVE and the writes of the context registers complete: a member writes its shards and directory once the plan
is here, and enters the gathering of the summaries; the outcome ends the SAVE (a job of one device judges for itself); and CKPT_JOB, CKPT_JOB_ID, LRN_STEP and the KV windows take what their owner writes. -/
def Obligations.ContextRegistersTakeWrites : Prop :=
  (∀ (s : State) (c : Nat) (rsp : TierRsp) (k k' : Ckpt) (d1 d2 : Dev), c < 256 → (s.dev.ctx c).ckpt = some k →
    s.dev.get F.ckptStat_phase c = 3 → s.dev.working c = true → s.dev.writeMember c k rsp = (k', d1) →
    k'.status ≠ Status.collAbort →
    d2 = ((d1.modCtx c fun x => { x with ckpt := some k' }).releaseHold c).put F.ckptStat_phase c 4 →
    (d2.jobGroup c = none → exec (.saveWritesDone c rsp) s = .next (s.withDev d2)) ∧
    (∀ g, d2.jobGroup c = some g → d2.inGroup c g = true → exec (.saveWritesDone c rsp) s =
      .next (s.withDev (d2.enterOp g (ownOp (k'.base + 1) .summary ⟨4, 0, 64, 0, 0⟩ k'.summary.bytes) rsp)))) ∧
  (∀ (s : State) (c : Nat) (rsp : TierRsp) (k : Ckpt), c < 256 →
    (s.dev.ctx c).ckpt = some k → s.dev.get F.ckptStat_phase c = 4 → s.dev.working c = true →
    (∀ st d1, s.dev.jobGroup c = none → s.dev.judge c k [k.summary] rsp = (st, d1) →
      exec (.saveOutcome c rsp) s = .next (s.withDev (d1.endSave c k (if k.status ≠ 0 then k.status else st)))) ∧
    (∀ g o, s.dev.jobGroup c = some g → (s.dev.group g).ops.find? (fun o => o.use = .outcome && o.num = k.base + 2) = some o →
      o.ready (s.dev.ranksOf g) s.dev.ownRank = true →
      exec (.saveOutcome c rsp) s = .next (s.withDev ((s.dev.finishOp g o Status.ok 0 rsp).endSave c k
        (if k.status ≠ 0 then k.status else fieldAt (((o.downs.head?).map (·.2.2)).getD []) 0 8))))) ∧
  (∀ (s : State) (fn c : Nat) (v : Word), Instr.wf (.ckptJobWrite fn c 0 v) = true → s.dev.ctxWritable fn c = true →
    s.dev.get F.lrnStepStat_phase c = LrnSt.idle →
    exec (.ckptJobWrite fn c 0 v) s = .next (s.withDev (s.dev.setReg .ckptJobId c v.toNat)) ∧
    exec (.ckptJobWrite fn c 1 v) s = .next (s.withDev (s.dev.put F.ckptJob_grp c v.toNat))) ∧
  (∀ (s : State) (fn c : Nat) (v : Word), Instr.wf (.lrnStepWrite fn c v) = true → s.dev.ctxWritable fn c = true →
    s.dev.kindOf c ≠ 0 → s.dev.get F.lrnStepStat_phase c = LrnSt.idle →
    exec (.lrnStepWrite fn c v) s = .next (s.withDev (s.dev.setReg .lrnStep c v.toNat))) ∧
  (∀ (s : State) (fn c : Nat) (v : Word), Instr.wf (.kvBaseWrite fn c 0 v) = true → s.dev.ctxWritable fn c = true →
    s.dev.get F.genStat_live c = 0 →
    exec (.kvBaseWrite fn c 0 v) s = .next (s.withDev (s.dev.put F.kvVbase_base c (bitsOf v.toNat 30 34))) ∧
    exec (.kvBaseWrite fn c 1 v) s = .next (s.withDev (s.dev.put F.kvPvbase_base c (bitsOf v.toNat 30 34))) ∧
    exec (.kvBaseWrite fn c 2 v) s = .next (s.withDev (s.dev.put F.kvHvbase_base c (bitsOf v.toNat 23 41)))) ∧
  (∀ (s : State) (fn c pages : Nat), Instr.wf (.kvPoolWrite fn c pages) = true → s.dev.ctxWritable fn c = true →
    (s.dev.get F.kvPool_pages c < pages → s.dev.quotaOk c 0 ((pages - s.dev.get F.kvPool_pages c) * pageBytes) = true ∧
      pages - s.dev.get F.kvPool_pages c ≤ s.dev.freeFrames 0) →
    ∃ t, exec (.kvPoolWrite fn c pages) s = .next t ∧ t.dev.get F.kvPool_pages c = pages)

/-! ### Tenants and contexts (chapter 15) -/

/-- The commands of chapter 15 on tenants and contexts complete: a creation that its checks pass makes a context, a reset and a
destruction act at once on a context that is not TEARING, a TEARING context becomes TORN, a tenant reset destroys its contexts, a
budget is set, and a CORES request is taken and applied. -/
def Obligations.TenantCommandsComplete : Prop :=
  (∀ (s : State) (tn kind gen lrn nq c q : Nat) (v : Word), tn < 64 → s.dev.served = true →
    kind = bitsOf v.toNat 0 2 → gen = bitsOf v.toNat 8 9 → lrn = bitsOf v.toNat 24 9 → nq = bitsOf v.toNat 40 13 →
    s.dev.createCheck tn kind gen lrn nq = none →
    (List.range 256).find? (fun c => !s.dev.flag F.ctxCfg_valid c) = some c → s.dev.queueRun nq = some q →
    (s.dev.freeCores.take (gen + lrn)).any s.dev.underTest = false →
    ∃ t, exec (.tenCreate tn tn v) s = .next t ∧ t.dev = (s.dev.makeCtx tn kind gen lrn nq c q).setReg .tenCreateRes tn
        (c * 2 ^ 8 + q * 2 ^ 32) ∧ t.dev.reg .tenCreateRes tn = c * 2 ^ 8 + q * 2 ^ 32 ∧ t.dev.ctxState c = CtxSt.active) ∧
  (∀ (s : State) (fn c : Nat), Instr.wf (.ctxReset fn c) = true → s.dev.ctxWritable0 fn c = true →
    s.dev.ctxState c ≠ CtxSt.tearing →
    exec (.ctxReset fn c) s = .next (s.withDev (s.dev.resetCtx c)) ∧
    exec (.ctxDestroy fn c) s = .next (s.withDev (s.dev.destroyCtx c))) ∧
  (∀ (s : State) (c : Nat), c < 256 → s.dev.ctxState c = CtxSt.tearing →
    ∃ d1 d2, d1 = ((s.dev.tearDown c).put F.ctxState_state c CtxSt.torn).incSat F.tenJobCount_torn ((s.dev.tearDown c).tenantOf c) ∧
      d2 = d1.each (d1.queuesOf c) (fun q d => if d.get F.queStat_state q = queRun then d.put F.queStat_state q queTorn else d) ∧
      exec (.ctxTeardown c) s = .next (s.withDev (d2.afterTeardown c))) ∧
  (∀ (s : State) (fn tn : Nat), Instr.wf (.tenantReset fn tn) = true → s.dev.served = true → (fn = tn ∨ fn = 0) →
    exec (.tenantReset fn tn) s = .next (s.withDev (s.dev.resetTenant tn))) ∧
  (∀ (s : State) (tn : Nat) (v : Word), tn < 64 → s.dev.served = true → s.dev.flag F.tenCfg_enable tn = true →
    bitOf v.toNat 0 = true →
    ∃ t, exec (.tenCfgWrite 0 tn v) s = .next t ∧ t.dev.get F.tenCfg_max_ctx tn = bitsOf v.toNat 8 9 ∧
      t.dev.get F.tenCfg_max_cores tn = bitsOf v.toNat 24 9 ∧ t.dev.get F.tenCfg_max_queues tn = bitsOf v.toNat 48 15 ∧
      t.dev.flag F.tenCfg_enable tn = true) ∧
  (∀ (s : State) (q i c : Nat) (w : Waiter) (bs : List Byte), s.dev.Stands q i 10 0x20 c w bs →
    fieldAt bs 17 1 = 0 → fieldAt bs 18 2 ≤ 256 → fieldAt bs 20 2 ≤ 256 → allZero (slice bs 23 41) = true →
    (s.dev.kindOf c = 1 → fieldAt bs 18 2 = 0) → (s.dev.kindOf c = 0 → fieldAt bs 20 2 = 0) →
    (s.dev.ctx c).coresReq = none →
    s.dev.get F.tenStat_cores (s.dev.tenantOf c) + fieldAt bs 18 2 + fieldAt bs 20 2 ≤
      s.dev.get F.tenCfg_max_cores (s.dev.tenantOf c) + (s.dev.coresOf c).length →
    fieldAt bs 18 2 + fieldAt bs 20 2 - (s.dev.coresOf c).length ≤ s.dev.freeCores.length →
    ∃ t, exec (.cores q i) s = .next t ∧ t.dev.get F.ctxState_gen_tgt c = fieldAt bs 18 2 ∧
      t.dev.get F.ctxState_lrn_tgt c = fieldAt bs 20 2 ∧ t.dev.flag F.ctxState_pending c = true) ∧
  (∀ (s : State) (c g l : Nat) (req : CoresReq) (p : CorePlan) (d0 d1 : Dev), c < 256 → (s.dev.ctx c).coresReq = some req →
    s.dev.working c = true → p = s.dev.corePlan c → req.donor = none → d0 = (s.dev.changeRoles c p).releaseCores c p →
    d1 = (d0.joinCores c p).countCores c → g = d1.get F.ctxState_gen_held c → l = d1.get F.ctxState_lrn_held c →
    g = d1.get F.ctxState_gen_tgt c → l = d1.get F.ctxState_lrn_tgt c →
    ∃ t, exec (.coresApply c) s = .next t ∧ (t.dev.ctx c).coresReq = none ∧
      (d1.Awaited req.who → t.dev.DueLast req.who Status.ok (g + l * 2 ^ 16)))

/-! ### Queues (chapter 15) -/

/-- The queue commands complete: a doorbell within its ring moves the position, ENABLE starts a queue and its write of 0 ends the
period, a descriptor that can be taken is, and a ring read that is lost puts its queue in ERROR with CAUSE 3 (the model's reading of
QUE_STAT.CAUSE, log entry 67). -/
def Obligations.QueueCommandsComplete : Prop :=
  (∀ (s : State) (fn q tail : Nat), Instr.wf (.queDb fn q tail) = true → s.dev.queWritable fn q = true →
    s.dev.get F.queStat_state q = queRun → tail < s.dev.sqSize q →
    exec (.queDb fn q tail) s = .next (s.withDev (s.dev.modQueue q fun x => { x with sqTail := tail }))) ∧
  (∀ (s : State) (fn q head : Nat), Instr.wf (.queCqDb fn q head) = true → s.dev.queWritable fn q = true →
    s.dev.get F.queStat_state q = queRun → head < s.dev.cqSize q →
    ringDist (s.dev.cqSize q) (s.dev.queue q).cqHead head ≤ ringDist (s.dev.cqSize q) (s.dev.queue q).cqHead (s.dev.queue q).cqTail →
    exec (.queCqDb fn q head) s = .next (s.withDev (s.dev.modQueue q fun x => { x with cqHead := head }))) ∧
  (∀ (s : State) (fn q : Nat) (v : Word), Instr.wf (.queEnable fn q v) = true → s.dev.queWritable fn q = true →
    s.dev.flag F.queCfg_enable q = false → bitOf v.toNat 0 = true →
    exec (.queEnable fn q v) s = .next (s.withDev ((s.dev.putQueCfg q v).startQueue q))) ∧
  (∀ (s : State) (fn q : Nat) (v : Word), Instr.wf (.queDisable fn q v) = true → s.dev.queWritable fn q = true →
    bitOf v.toNat 0 = false →
    exec (.queDisable fn q v) s = .next (s.withDev ((s.dev.stopQueue q).putQueCfg q v))) ∧
  (∀ (s : State) (c q : Nat), c < 256 → s.dev.flag F.glbInfo_ready 0 = true → s.dev.flag F.hostStat_ide 0 = true →
    s.dev.detached = false → s.dev.ctxState c = CtxSt.active →
    (s.dev.turnOrder c).find? (s.dev.canTake c) = some q →
    exec (.descriptorTake c false) s = .next (s.withDev (s.dev.takeFrom c q))) ∧
  (∀ (s : State) (c q : Nat), c < 256 → s.dev.flag F.glbInfo_ready 0 = true → s.dev.flag F.hostStat_ide 0 = true →
    s.dev.detached = false → s.dev.ctxState c = CtxSt.active →
    (s.dev.turnOrder c).find? (s.dev.canRead c) = some q →
    exec (.descriptorTake c true) s = .next (s.withDev (s.dev.queError q 3)))

/-- COMPLETION_WRITE puts the oldest completion that is due at the completion tail: the entry's 16 bytes stand in host memory, the
tail moves on, the phase turns where the tail wraps, DONE counts it, and INFLIGHT loses it (R336). -/
def Obligations.CompletionWriteStoresItsEntry : Prop :=
  ∀ (s : State) (q c : Nat) (e : Due) (rest : List Due), q < 16384 → s.dev.ctxOfQueue q = some c → (s.dev.queue q).due = e :: rest →
    s.dev.detached = false → s.dev.flag F.queCfg_enable q = true → s.dev.mem.host.wf = true →
    ringDist (s.dev.cqSize q) (s.dev.queue q).cqHead (s.dev.queue q).cqTail + 1 ≤ s.dev.cqSize q - 1 →
    ∃ t, exec (.completionWrite q) s = .next t ∧
      t.dev.hostRead (s.dev.tenantOf c) (s.dev.get F.queCqBase_base q * 4096 + 16 * (s.dev.queue q).cqTail) 16 =
        entryBytes q e (s.dev.queue q).phase ∧
      t.dev.queue q = { s.dev.queue q with
        due := rest, cqTail := ((s.dev.queue q).cqTail + 1) % s.dev.cqSize q,
        phase := if ((s.dev.queue q).cqTail + 1) % s.dev.cqSize q = 0 then !(s.dev.queue q).phase else (s.dev.queue q).phase } ∧
      t.dev.get F.queStat_inflight q = s.dev.get F.queStat_inflight q - 1 ∧
      t.dev.get F.queCnt_done q = (s.dev.get F.queCnt_done q + 1) % 2 ^ F.queCnt_done.w ∧
      t.dev.out = (if s.dev.flag F.queCfg_irq q then [Out.msix (s.dev.tenantOf c) (s.dev.get F.queCfg_vec q)] else []) ++ s.dev.out

/-! ### The host port (chapter 16) -/

/-- The ENV descriptors complete: TOPO names the device's place and its ports' peers, BASE and WIN set their windows, POWER and
THERMAL are recorded, DETACH sets the context's policy. -/
def Obligations.EnvDescriptorsComplete : Prop :=
  (∀ (s : State) (q i c v : Nat) (w : Waiter) (bs : List Byte) (rsp : TierRsp) (g : Got) (d1 : Dev), s.dev.Stands q i 10 1 c w bs →
    s.dev.tenantOf c = 0 → allZero (slice bs 17 7) = true → allZero (slice bs 32 32) = true → fieldAt bs 24 8 % 64 = 0 →
    s.dev.readVa c none rsp (fieldAt bs 24 8) 256 = (g, d1) → g.bad = none → topoForm g.raw = true →
    v = fieldAt g.raw 0 1 + fieldAt g.raw 1 1 * 2 ^ 4 + fieldAt g.raw 2 1 * 2 ^ 8 + fieldAt g.raw 3 1 * 2 ^ 16 +
      fieldAt g.raw 4 1 * 2 ^ 20 + 2 ^ 24 → (∀ k < 64, d1.flag F.fabGrpCfg_valid k = false) →
    exec (.topo q i rsp) s = .next (s.withDev (((d1.setReg .fabTopo 0 v).each (List.range 32) fun p d =>
      d.namePort (decide (d1.reg .fabTopo 0 % 2 ^ 24 ≠ v % 2 ^ 24)) p (bitsOf (fieldAt g.raw (64 + 4 * p) 4) 0 16)
        (bitsOf (fieldAt g.raw (64 + 4 * p) 4) 16 2)).complete w Status.ok 0))) ∧
  (∀ (s : State) (q i c : Nat) (w : Waiter) (bs : List Byte), s.dev.Stands q i 10 2 c w bs → s.dev.tenantOf c = 0 →
    allZero (slice bs 17 1) = true → fieldAt bs 18 2 < 4096 → allZero (slice bs 20 4) = true → allZero (slice bs 40 24) = true →
    fieldAt bs 24 8 % 2 ^ 21 = 0 → fieldAt bs 32 8 % 2 ^ 21 = 0 → fieldAt bs 32 8 ≠ 0 → s.dev.mem.usedBase = [] →
    (∀ k < 256, (s.dev.ctx k).areas = []) → fieldAt bs 24 8 < 2 ^ 64 → fieldAt bs 18 2 + 2 ^ 12 + fieldAt bs 32 8 < 2 ^ 64 →
    ∃ t, exec (.base q i) s = .next t ∧ t.dev.reg .hostBase 0 = fieldAt bs 18 2 + 2 ^ 12 + fieldAt bs 32 8 ∧
      t.dev.reg .hostBaseDpa 0 = fieldAt bs 24 8 ∧ (s.dev.Awaited w → t.dev.DueLast w Status.ok 0)) ∧
  (∀ (s : State) (q i c n : Nat) (w : Waiter) (bs : List Byte), s.dev.Stands q i 10 3 c w bs → n = fieldAt bs 18 1 →
    fieldAt bs 17 1 ≤ 1 → n < 64 → allZero (slice bs 19 1) = true → allZero (slice bs 40 24) = true →
    fieldAt bs 24 8 % 2 ^ 30 = 0 → fieldAt bs 32 8 % 2 ^ 30 = 0 → fieldAt bs 32 8 < 2 ^ 50 →
    (s.dev.flag F.hostWinCfg_valid 0 n = true → s.dev.get F.hostWinCfg_ctx 0 n = c) → fieldAt bs 20 4 ≠ 0 →
    (∀ j < 64, j = n ∨ s.dev.flag F.hostWinCfg_valid 0 j = false ∨
      (s.dev.get F.hostWinCfg_ap 0 j + s.dev.get F.hostWinCfg_len 0 j) * 2 ^ 30 ≤ fieldAt bs 24 8 ∨
      fieldAt bs 24 8 + fieldAt bs 20 4 * 2 ^ 30 ≤ s.dev.get F.hostWinCfg_ap 0 j * 2 ^ 30) →
    fieldAt bs 24 8 + fieldAt bs 20 4 * 2 ^ 30 ≤ s.dev.aperture →
    exec (.win q i) s = .next (s.withDev (((s.dev.setReg .hostWinCfg 0
      (1 + fieldAt bs 17 1 * 2 + c * 2 ^ 8 + fieldAt bs 20 4 * 2 ^ 16 + fieldAt bs 24 8 / 2 ^ 30 * 2 ^ 32) n).setReg .hostWinVa 0
        (fieldAt bs 32 8) n).complete w Status.ok 0))) ∧
  (∀ (s : State) (q i c : Nat) (w : Waiter) (bs : List Byte), s.dev.Stands q i 10 0x10 c w bs → s.dev.tenantOf c = 0 →
    allZero (slice bs 17 3) = true → allZero (slice bs 22 42) = true →
    exec (.power q i) s = .next (s.withDev (((s.dev.put F.hostEnv_limit_w 0 (fieldAt bs 20 2)).put F.pwrLimit_target_w 0
      (if fieldAt bs 20 2 = 0 then s.dev.cfg.pkgMaxW else min s.dev.cfg.pkgMaxW (fieldAt bs 20 2))).complete w Status.ok 0))) ∧
  (∀ (s : State) (q i c : Nat) (w : Waiter) (bs : List Byte), s.dev.Stands q i 10 0x11 c w bs → s.dev.tenantOf c = 0 →
    allZero (slice bs 17 3) = true → allZero (slice bs 24 40) = true → thermalOk (fieldAt bs 20 2) = true →
    thermalOk (fieldAt bs 22 2) = true →
    ∃ t, exec (.thermal q i) s = .next t ∧ t.dev.get F.hostEnv_ambient 0 = fieldAt bs 20 2 ∧
      t.dev.get F.hostEnv_coolant 0 = fieldAt bs 22 2 ∧ (s.dev.Awaited w → t.dev.DueLast w Status.ok 0)) ∧
  (∀ (s : State) (q i c : Nat) (w : Waiter) (bs : List Byte), s.dev.Stands q i 10 0x12 c w bs → fieldAt bs 17 1 ≤ 1 →
    allZero (slice bs 18 46) = true →
    exec (.detach q i) s = .next (s.withDev ((s.dev.modCtx c fun x => { x with fabricOnly := fieldAt bs 17 1 = 1 }).complete w Status.ok 0)))

/-- The host's accesses and the events of its link complete: a mapped window piece is read and a writable one written, an attached
port detaches when its link stays lost, when IDE fails and on Viral, attaches again, trains, and answers a configuration
request; a function-level reset resets its function's tenant. -/
def Obligations.HostEventsComplete : Prop :=
  (∀ (s : State) (fn a n k : Nat) (rsp : TierRsp) (g : Got) (d1 : Dev), Instr.wf (.hostWindowRead fn a n false rsp) = true →
    s.dev.served = true → pieces a (List.replicate n 0) = [(a, List.replicate n 0)] →
    s.dev.bindingAt a = some k → s.dev.reaches fn k = true →
    s.dev.readVa (s.dev.get F.hostWinCfg_ctx 0 k) none rsp (s.dev.windowVa k a) n = (g, d1) → g.bad = none →
    exec (.hostWindowRead fn a n false rsp) s = .next (s.withDev (d1.emit (.readData fn g.raw true)))) ∧
  (∀ (s : State) (fn a k : Nat) (bs : List Byte) (rsp : TierRsp) (d1 : Dev), Instr.wf (.hostWindowWrite fn a false bs rsp) = true →
    s.dev.served = true → pieces a bs = [(a, bs)] → s.dev.bindingAt a = some k → s.dev.reaches fn k = true →
    s.dev.flag F.hostWinCfg_w 0 k = true →
    s.dev.prepWrite (s.dev.get F.hostWinCfg_ctx 0 k) rsp (s.dev.windowVa k a) none = (none, d1) →
    exec (.hostWindowWrite fn a false bs rsp) s = .next (s.withDev (d1.land (s.dev.get F.hostWinCfg_ctx 0 k) (s.dev.windowVa k a) bs))) ∧
  (∀ (s : State), s.dev.get F.hostStat_state 0 = 2 →
    exec .linkL0Timeout s = .next (s.withDev s.dev.detachPort) ∧
    exec .viral s = .next (s.withDev (s.dev.put F.hostStat_viral 0 1).detachPort) ∧
    (s.dev.flag F.hostStat_ide 0 = true → exec .ideFailure s = .next (s.withDev (s.dev.logEvent 0x12 0).detachPort))) ∧
  (∀ (s : State), s.dev.barOpen = true → s.dev.get F.hostStat_state 0 = 1 →
    exec (.reattach 0) s = .next (s.withDev s.dev.attachPort) ∧
    (s.dev.get F.hostStat_detaches 0 = 0 → s.dev.power.shut = false → exec .hostAttach s = .next (s.withDev s.dev.attachPort))) ∧
  (∀ (s : State), s.dev.linkStarted = false → s.dev.sec.stuck = false → s.dev.power.shut = false →
    ∃ t, exec .hostLinkTrainingStart s = .next t ∧ t.dev.linkStarted = true ∧
      t.dev.get F.bootStat_link_ms 0 = min 65535 (s.dev.ns / 1000000)) ∧
  (∀ (s : State) (width rate : Nat), Instr.wf (.hostLinkTrained width rate) = true → s.dev.linkStarted = true →
    s.dev.power.shut = false → (s.dev.get F.hostStat_state 0 = 0 ∨ s.dev.get F.hostStat_state 0 = 3) →
    ∃ t, exec (.hostLinkTrained width rate) s = .next t ∧ t.dev.get F.hostStat_state 0 = 1 ∧
      t.dev.get F.hostStat_width 0 = width ∧ t.dev.get F.hostStat_rate 0 = rate) ∧
  (∀ (s : State) (fn : Nat), fn < 64 → s.dev.power.shut = false → s.dev.get F.secStat_stage 0 = 3 → s.dev.get F.hostStat_state 0 = 1 →
    exec (.configRequest fn) s = .next (s.withDev (s.dev.emit (.config fn false)))) ∧
  (∀ (s : State) (n : Nat), n < 64 → n ≠ 0 → s.dev.running = true → s.dev.get F.hostStat_state 0 = 2 →
    exec (.flr (.function n)) s = .next (s.withDev (s.dev.resetTenant n)))

/-! ### Trust (chapter 17) -/

/-- The commands of trust complete: a key load whose blob opens installs the key, a report is written, a key is erased, the counter
is raised to RUN, and a noise failure is recorded. -/
def Obligations.TrustCommandsComplete : Prop :=
  (∀ (s : State) (tn : Nat) (a : Word), tn < 64 → s.dev.served = true → s.dev.ctxsOf tn = [] →
    s.dev.flag F.secStat_cert_fail 0 = false → s.dev.detached = false →
    ∃ t, exec (.tenKeyLoad tn tn a) s = .next t ∧
      (∀ key label, s.dev.openBlob tn (s.dev.hostRead tn (a.toNat / 64 * 64) blobBytes) = .ok (key, label) →
        SMap.find t.dev.sec.keys tn = some (key, label) ∧
        t.dev.get F.tenSecStat_mode tn = 2 ∧ t.dev.get F.tenSecStat_kstatus tn = Status.ok ∧
        t.dev.get F.tenSecStat_loads tn = satAdd F.tenSecStat_loads.w (s.dev.get F.tenSecStat_loads tn) 1) ∧
      (∀ st, s.dev.openBlob tn (s.dev.hostRead tn (a.toNat / 64 * 64) blobBytes) = .error st →
        t.dev.sec.keys = s.dev.sec.keys ∧ t.dev.get F.tenSecStat_kstatus tn = st % 256 ∧
        t.dev.get F.tenSecStat_loads tn = s.dev.get F.tenSecStat_loads tn)) ∧
  (∀ (s : State) (tn : Nat) (a : Word), tn < 64 → s.dev.served = true → s.dev.flag F.secStat_cert_fail 0 = false →
    s.dev.flag F.secStat_noise_fail 0 = false → s.dev.detached = false →
    ∃ t sig certs head, exec (.tenRpt tn tn a) s = .next t ∧ certs = s.dev.sec.idCert ++ s.dev.sec.aliasCert ∧
      head = s.dev.reportHead tn (17344 + certs.length) (s.dev.hostRead tn (a.toNat / 4096 * 4096) 32) ∧
      sig = fit 1280 (Sys2Proof.Config.falconSign s.dev.sec.aliasPriv (shake256 head 64) s.dev.sec.randReqs) ∧
      t.dev = ((s.dev.random 0).2.hostWrite tn (a.toNat / 4096 * 4096) (head ++ sig ++ certs)).put F.tenSecStat_rstatus tn Status.ok) ∧
  (∀ (s : State) (tn : Nat), tn < 64 → s.dev.served = true → s.dev.ctxsOf tn = [] →
    ∃ t, exec (.erase 0 tn) s = .next t ∧ SMap.find t.dev.sec.keys tn = none ∧ t.dev.get F.tenSecStat_mode tn = 0) ∧
  (∀ (s : State), s.dev.barOpen = true → s.dev.get F.secSvn_ctr 0 < s.dev.get F.secSvn_run 0 → s.flash.ctrKey = some s.dev.sec.ctrKey →
    ∃ t, exec (.commitSvn 0 true) s = .next t ∧ t.flash.counter = max s.flash.counter (s.dev.get F.secSvn_run 0) ∧
      t.dev.get F.secSvn_ctr 0 = s.dev.get F.secSvn_run 0) ∧
  (∀ (s : State), ∃ t, exec .noiseHealthFailure s = .next t ∧ t.dev.flag F.secStat_noise_fail 0 = true)

/-- The SPDM requests complete once the boot chain has: each one whose conditions hold gets its response, with the content that the
manual gives it; a session is opened, kept and closed, and IDE keys stand for their stream. -/
def Obligations.SpdmRequestsComplete : Prop :=
  ∀ (s : State) (req : List Byte), 3 ≤ s.dev.get F.secStat_stage 0 → s.dev.power.shut = false →
    (∃ t, exec (.getVersion req) s = .next t ∧ t.dev.spdm.versionOk = true ∧
      ∃ rest, t.dev.out = .spdm 0x04 ([0x13] ++ rest) :: s.dev.out) ∧
    (s.dev.spdm.versionOk = true → ∃ t, exec (.getCapabilities req) s = .next t ∧ t.dev.spdm.capsOk = true ∧
      ∃ bs, t.dev.out = .spdm 0x61 bs :: s.dev.out) ∧
    (s.dev.spdm.capsOk = true → ∃ t, exec (.negotiateAlgorithms req true true true) s = .next t ∧ t.dev.spdm.algsOk = true ∧
      ∃ rest, t.dev.out = .spdm 0x63 (leBytes 1 7 ++ rest) :: s.dev.out) ∧
    (s.dev.spdm.algsOk = true → ∃ t rest, exec (.getDigests req) s = .next t ∧
      t.dev.out = .spdm 0x01 (digest256 s.dev.chain ++ rest) :: s.dev.out) ∧
    (s.dev.spdm.algsOk = true → s.dev.flag F.secStat_cert_fail 0 = false →
      (∀ offset len, ∃ t rest, exec (.getCertificate req 0 offset len) s = .next t ∧
        t.dev.out = .spdm 0x02 ((s.dev.chain.drop offset).take len ++ rest) :: s.dev.out) ∧
      (∃ t rest, exec (.challenge req 0) s = .next t ∧ t.dev.out = .spdm 0x03 (s.dev.aliasSign req ++ rest) :: s.dev.out)) ∧
    (∀ k bs, s.dev.spdm.algsOk = true → k ≠ 0xFF → s.dev.measurement k = some bs →
      ∃ t rest, exec (.getMeasurements req k) s = .next t ∧
        t.dev.out = .spdm 0x60 (bs ++ s.dev.aliasSign (req ++ bs) ++ rest) :: s.dev.out) ∧
    (s.dev.spdm.algsOk = true → s.dev.flag F.secStat_noise_fail 0 = false → s.dev.flag F.secStat_cert_fail 0 = false →
      ∃ t, exec (.keyExchange req true) s = .next t ∧
        SMap.find t.dev.spdm.sessions s.dev.spdm.nextSession = some (false, 0)) ∧
    (∀ n, SMap.find s.dev.spdm.sessions n = some (false, 0) →
      ∃ t, exec (.finish req n true) s = .next t ∧ SMap.find t.dev.spdm.sessions n = some (true, 0)) ∧
    (∀ n k, SMap.find s.dev.spdm.sessions n = some (true, k) →
      (∃ t, exec (.endSession req n) s = .next t ∧ SMap.find t.dev.spdm.sessions n = none) ∧
      (∃ t bs, exec (.heartbeat req n) s = .next t ∧ t.dev.out = .spdm 0x68 bs :: s.dev.out) ∧
      (∃ t, exec (.keyUpdate req n) s = .next t ∧ SMap.find t.dev.spdm.sessions n = some (true, k + 1)) ∧
      (s.dev.flag F.secStat_noise_fail 0 = false → ∃ t, exec (.ideKm req n true) s = .next t ∧ t.dev.spdm.ideMem = true)) ∧
    (s.dev.spdm.capsOk = true →
      (∀ h, (∀ x ∈ s.dev.spdm.chunkIn, x.1 ≠ h) →
        ∃ t, exec (.chunkSend req h 0 false) s = .next t ∧ t.dev.spdm.chunkIn = s.dev.spdm.chunkIn ++ [(h, 0, req)]) ∧
      (∀ h, ∃ t rest, exec (.chunkGet req h 0) s = .next t ∧ t.dev.spdm.chunkOut = 1 ∧
        t.dev.out = .spdm 0x06 (leBytes 1 h ++ leBytes 2 0 ++ rest) :: s.dev.out))

/-! ### Boot and firmware (chapter 18) -/

/-- The boot, recovery, the mailbox commands and the warm resets complete: a cold reset runs the ROM's sequence on the device held in
reset, a good image recovers its stage, VERSION, FLASH_WRITE, REMOVE_CORE, TIME_ROLE and LOG_READ end their command, and a warm
reset returns the device's warm state. -/
def Obligations.FirmwareCommandsComplete : Prop :=
  (∀ (s : State) (puf : List Byte), ∃ t, exec (.coldReset puf) s = .next t ∧
    (t.flash, t.dev) = (s.dev.heldInReset true).bootRom puf s.flash) ∧
  (∀ (s : State) (img : List Byte) (stage si : Nat), stage = fieldAt img 4 1 → s.dev.sec.stuck = true →
    s.flash.usedSlot = some si → stage ≠ 0 → stage ≠ 3 → s.dev.sec.missing.contains stage = true →
    s.dev.get F.secSvn_ctr 0 ≤ svnOf img → s.dev.flag F.secStat_puf_fail 0 = false → s.dev.sec.missing.filter (· ≠ stage) ≠ [] →
    ∃ t, exec (.recover img) s = .next t ∧
      (imageOk stage img = true → ∀ f, s.flash.store stage (prefOf (s.flash.slot si) stage) img = some f →
        t.flash = f ∧ t.dev.sec.missing = s.dev.sec.missing.filter (· ≠ stage)) ∧
      (imageOk stage img = false → t.flash = s.flash ∧ t.dev = s.dev.logEvent 0x01 stage)) ∧
  (∀ (s : State), s.dev.running = true → exec .warmReset s = .next (s.withDev s.dev.warm)) ∧
  (∀ (s : State), s.dev.running = true → s.dev.flag F.mbxStat_busy 0 = true →
    (s.dev.mailboxCmd = 1 → exec .version s = .next (s.withDev ((s.dev.setReg .mbxRes 0
      (s.dev.sec.svnFirmware + Sys2Proof.Config.fwBuild.toNat * 2 ^ 32) 0).endMbx Status.ok))) ∧
    (∀ stage len img copy, s.dev.mailboxCmd = 2 → stage = s.dev.reg .mbxArg 0 0 → len = s.dev.reg .mbxArg 0 2 → 1 ≤ stage →
      stage ≤ 4 → stage ≠ 3 → len ≤ stageCap stage → s.dev.detached = false → img = s.dev.hostRead 0 (s.dev.reg .mbxArg 0 1) len →
      s.dev.get F.secSvn_ctr 0 ≤ svnOf img → copy = 1 - bitsOf (s.dev.get F.bootStat_copy 0) (stage - 1) 1 →
      ∃ t, exec .flashWrite s = .next t ∧
        (imageOk stage img = true → ∀ f, s.flash.store stage copy img = some f → t.flash = f ∧ t.dev = s.dev.endMbx Status.ok) ∧
        (imageOk stage img = false → t.flash = s.flash ∧ t.dev = s.dev.endMbx Status.integrity)) ∧
    (∀ k, s.dev.mailboxCmd = 3 → k = s.dev.reg .mbxArg 0 0 → k < 256 → s.dev.get F.coreState_state k = CoreSt.free →
      s.dev.removable k = true → exec .removeCore s = .next (s.withDev ((s.dev.removeCore k).endMbx Status.ok))) ∧
    (s.dev.mailboxCmd = 4 → s.dev.get F.timeCfg_master 0 = 0 → bitsOf (s.dev.reg .mbxArg 0 0) 0 1 = 1 →
      ∃ t, exec .timeRole s = .next t ∧ t.dev.get F.timeCfg_master 0 = 1 ∧ t.dev.timeState = TimeSt.master ∧
        t.dev.flag F.mbxStat_busy 0 = false) ∧
    (s.dev.mailboxCmd = 5 → s.dev.reg .mbxArg 0 1 < 2 ^ 64 - 1 → ∃ t n, exec .logRead s = .next t ∧ n ≤ s.dev.reg .mbxArg 0 1 ∧
      t.dev.reg .mbxRes 0 0 = n ∧ t.dev.flag F.mbxStat_busy 0 = false) ∧
    (s.dev.mailboxCmd = 6 → exec .mbxWarmReset s = .next (s.withDev (s.dev.endMbx Status.ok).warm)))

/-! ### Power and time (chapter 19) -/

/-- The events of power and temperature complete: a wake takes a token or waits and is granted one, tokens refill, an unused domain
switches off, samples set levels, clamps withhold and release a die's clocks, a shutdown removes every domain, and losing a rail
holds the device in reset. -/
def Obligations.PowerEventsComplete : Prop :=
  (∀ (s : State) (n : Nat), n < 333 → s.dev.domOn n = false → s.dev.power.shut = false → s.dev.staysOff n = false →
    s.dev.power.wakeQ = [] → s.dev.get F.pwrWakeStat_tokens 0 ≠ 0 →
    exec (.wakeRequest n) s = .next (s.withDev ((s.dev.dec F.pwrWakeStat_tokens 0).setDom n true))) ∧
  (∀ (s : State) (n since : Nat) (rest : List (Nat × Nat)), n < 333 → s.dev.power.wakeQ = (n, since) :: rest →
    s.dev.get F.pwrWakeStat_tokens 0 ≠ 0 →
    ∃ t, exec .wakeGrant s = .next t ∧ t.dev.domOn n = true ∧ t.dev.power.wakeQ = rest ∧
      t.dev.get F.pwrWakeStat_tokens 0 = s.dev.get F.pwrWakeStat_tokens 0 - 1) ∧
  (∀ (s : State), ∃ t, exec .tokenRefill s = .next t ∧ t.dev.get F.pwrWakeStat_tokens 0 =
    min s.dev.wakeDepth (s.dev.get F.pwrWakeStat_tokens 0 + (s.dev.ns - s.dev.power.tokenTime) / 1000 * s.dev.wakeRate)) ∧
  (∀ (s : State) (n : Nat), n < 333 → s.dev.domOn n = true → s.dev.mayBeOff n = true → s.dev.domTested n = false →
    ∃ t, exec (.domainIdleOff n) s = .next t ∧ t.dev.domOn n = false) ∧
  (∀ (s : State) (n : Nat) (temp : Int), n < 288 → s.dev.domOn n = true →
    min junctionLimit (tempOf (s.dev.get F.pwrCfg_thr_t 0)) < temp →
    ∃ t, exec (.selfThrottleSample n temp) s = .next t ∧
      SMap.get t.dev.power.selfLvl 0 n = min 15 (SMap.get s.dev.power.selfLvl 0 n + 1)) ∧
  (∀ (s : State) (n : Nat) (temp : Int), n < 288 → s.dev.domOn n = true →
    ∃ t, exec (.junctionClampStep n temp) s = .next t ∧
      (if junctionLimit ≤ temp then SMap.get t.dev.power.junction 0 n = min 15 (SMap.get s.dev.power.junction 0 n + 1)
       else SMap.get t.dev.power.junction 0 n ≤ SMap.get s.dev.power.junction 0 n)) ∧
  (∀ (s : State) (watts : Nat), s.dev.power.shut = false →
    min (s.dev.get F.pwrLimit_max_w 0) (s.dev.get F.pwrLimit_target_w 0) < watts →
    ∃ t, exec (.packageFloorSample watts) s = .next t ∧
      t.dev.get F.pwrLimit_floor 0 = min 15 (s.dev.get F.pwrLimit_floor 0 + 1)) ∧
  (∀ (s : State) (rail ma : Nat), rail < 8 → railLimit rail < ma → s.dev.power.shut = false → s.dev.power.clamped.contains rail = false →
    ∃ t, exec (.currentClamp rail ma) s = .next t ∧ t.dev.power.clamped = rail :: s.dev.power.clamped ∧
      t.dev.get F.pwrStat_clamps 0 = satAdd F.pwrStat_clamps.w (s.dev.get F.pwrStat_clamps 0) 1) ∧
  (∀ (s : State) (rail : Nat), rail < 16 →
    ∃ t, exec (.currentClampRelease rail) s = .next t ∧ t.dev.power.clamped.contains rail = false) ∧
  (∀ (s : State) (die : Nat), die < 12 → s.dev.power.shut = false →
    ∃ t, exec (.thermalShutdown die) s = .next t ∧ t.dev.power.shut = true ∧ t.dev.reg .pwrShut 0 = 1 + die * 2 ^ 8 ∧
      (∀ n < 333, t.dev.domOn n = false) ∧ t.dev.out = .pin "THERMTRIP_N" 0 :: s.dev.out) ∧
  (∀ (s : State) (rail : Nat), rail < 16 → rail ≠ 14 →
    exec (.railMonitorTrip rail) s = .next (s.withDev (s.dev.heldInReset true)) ∧
    exec .resetPinAssert s = .next (s.withDev (s.dev.heldInReset true)) ∧
    exec .powerLoss s = .next (s.withDev (s.dev.heldInReset false)))

/-- The events of the time reference complete: a master sends and a follower takes beacons, a link delay is kept, a follower that
hears none holds over, tenant 0 adjusts a master, an edge of TSYNC_IN aligns it, a whole second shows on the pins, and reads of
device time answer. -/
def Obligations.TimeEventsComplete : Prop :=
  (∀ (s : State), s.dev.timeState = TimeSt.master → exec .beaconSend s = .next (s.withDev
    (s.dev.each (List.range 32) fun p d => d.sendCtrl p (.beacon s.dev.ownRank 0 s.dev.time.now)))) ∧
  (∀ (s : State) (p rank hop time : Nat), Instr.wf (.beaconReceive p rank hop time) = true → s.dev.portIsUp p = true → hop ≤ 7 →
    s.dev.timeState ≠ TimeSt.master →
    (∀ e ∈ s.dev.time.beacons, 100000 < s.dev.ns - e.2.2.2) →
    ∃ d : Dev, d.time.beacons = [(p, (hop, rank, s.dev.ns))] ∧ d = { s.dev with time := d.time } ∧
      exec (.beaconReceive p rank hop time) s = .next (s.withDev (d.takeBeacon p rank hop time))) ∧
  (∀ (s : State) (p ps : Nat), p < 32 → s.dev.portIsUp p = true →
    ∃ t, exec (.linkDelayMeasure p ps) s = .next t ∧ SMap.get t.dev.time.delays 0 p = (ps + 5) / 10 * 10) ∧
  (∀ (s : State), s.dev.timeState = TimeSt.locked → s.dev.time.beacons = [] →
    ∃ t, exec .holdover s = .next t ∧ t.dev.timeState = TimeSt.holdover ∧ t.dev.time.rate = s.dev.time.rate) ∧
  (∀ (s : State) (v : Word), s.dev.barOpen = true → s.dev.timeState = TimeSt.master →
    (0 ≤ v.toInt → ∃ t, exec (.timeAdj 0 v) s = .next t ∧
      t.dev.time.now = (s.dev.time.now + v.toInt.toNat * 65536) % 2 ^ 80) ∧
    (v.toInt < 0 → ∃ t, exec (.timeAdj 0 v) s = .next t ∧ t.dev.time.now = s.dev.time.now ∧
      t.dev.time.absorb = s.dev.time.absorb + (-v.toInt).toNat * 65536)) ∧
  (∀ (s : State) (edge : Nat), edge < 2 ^ 64 → s.dev.timeState = TimeSt.master → s.dev.flag F.timeCfg_tsync_src 0 = true →
    s.dev.time.now + usUnits < edge * 65536 →
    ∃ t, exec (.tsyncInEdge edge) s = .next t ∧ t.dev.time.now = edge * 65536 ∧ t.dev.time.lastTsync = edge) ∧
  (∀ (s : State), (s.dev.ns + 1) % 10 ^ 9 ≤ 2 → s.dev.flag F.timeCfg_pps_en 0 = true → s.dev.flag F.timeCfg_tsync_en 0 = false →
    exec .wholeSecond s = .next (s.withDev (s.dev.emit (.pin "PPS_OUT" 1)))) ∧
  (∀ (s : State) (fn : Nat), fn < 64 → s.dev.barOpen = true →
    (∃ t, exec (.timeNowRead fn none) s = .next t ∧ t.dev.out = .readData fn (leBytes 8 s.dev.ns) true :: s.dev.out ∧
      SMap.get t.dev.time.fracLatch 0 fn = s.dev.time.now % 65536) ∧
    (∃ t u, exec (.timeNowRead fn (some false)) s = .next t ∧ exec (.timeNowRead fn (some true)) t = .next u ∧
      u.dev.out = .readData fn (leBytes 4 (s.dev.ns / 2 ^ 32)) true :: .readData fn (leBytes 4 s.dev.ns) true :: s.dev.out) ∧
    (∀ depart, ∃ t, exec (.timeHostInRead fn true depart) s = .next t ∧
      t.dev.out = .readData fn (leBytes 8 s.dev.ns) true :: s.dev.out ∧
      SMap.get t.dev.time.inLatch 0 fn = s.dev.ns ∧ SMap.get t.dev.time.outLatch 0 fn = (s.dev.ns + depart) % 2 ^ 64))

/-! ### Self-tests and registers (chapters 20 and 21) -/

/-- A self-test completes: a request joins its block's, firmware's too, it starts on a block that no context holds, its result word
tells how it ended, and a wait that is over ends it. -/
def Obligations.SelftestsComplete : Prop :=
  (∀ (s : State) (q i c : Nat) (w : Waiter) (bs : List Byte), s.dev.Stands q i 11 0 c w bs → fieldAt bs 17 1 ≤ 4 →
    fieldAt bs 18 2 < testRange (fieldAt bs 17 1) → fieldAt bs 20 1 ≤ 1 → allZero (slice bs 21 3) = true →
    allZero (slice bs 28 36) = true → s.dev.noSuchBlock (fieldAt bs 17 1) (fieldAt bs 18 2) = false →
    ∃ t, exec (.selftest q i) s = .next t ∧ t.dev.tests = s.dev.tests ++
      [⟨fieldAt bs 17 1, fieldAt bs 18 2, fieldAt bs 20 1, some w, s.dev.ns, fieldAt bs 24 4, false⟩]) ∧
  (∀ (s : State) (block index level : Nat), Instr.wf (.firmwareSelftest block index level) = true → s.dev.running = true →
    s.dev.noSuchBlock block index = false → s.dev.blockHeld block index = false →
    ∃ t, exec (.firmwareSelftest block index level) s = .next t ∧
      t.dev.tests = s.dev.tests ++ [⟨block, index, level, none, s.dev.ns, 0, false⟩]) ∧
  (∀ (s : State) (block index : Nat) (r : TestReq), Instr.wf (.selftestStart block index) = true →
    s.dev.firstTest block index = some r → r.running = false → s.dev.blockHeld block index = false → s.dev.power.shut = false →
    s.dev.domOn (testDomain block index) = true →
    ∃ t, exec (.selftestStart block index) s = .next t ∧ t.dev.firstTest block index = some { r with running := true }) ∧
  (∀ (s : State) (block index part us : Nat) (r : TestReq) (w : Waiter), Instr.wf (.selftestDone block index part us) = true →
    s.dev.firstTest block index = some r → r.running = true → r.who = some w →
    exec (.selftestDone block index part us) s = .next (s.withDev
      ((if part = 0 then s.dev.modTest block index (fun _ => none)
        else (s.dev.modTest block index (fun _ => none)).failBlock block index).complete w Status.ok
          ((if part = 0 then 0 else 1) + part % 256 * 2 ^ 8 + us % 2 ^ 32 * 2 ^ 16)))) ∧
  (∀ (s : State) (block index : Nat) (r : TestReq) (w : Waiter), Instr.wf (.selftestWaitExpiry block index) = true →
    s.dev.tests.find? (fun t => t.on block index && !t.running && 0 < t.waitMs && t.since + t.waitMs * 1000000 ≤ s.dev.ns) = some r →
    s.dev.blockHeld block index = true → r.who = some w → s.dev.Awaited w →
    ∃ t, exec (.selftestWaitExpiry block index) s = .next t ∧ t.dev.tests = s.dev.tests.erase r ∧ t.dev.DueLast w Status.deferred 0)

/-- A register write that its function may make acts on the fields it reaches. -/
def Obligations.RegisterWritesComplete : Prop :=
  ∀ (s : State) (fn bar off : Nat) (wide : Bool) (v : Word) (a : RegAt), Instr.wf (.regWrite fn bar off wide v) = true →
    (bar = 0 ∨ off < 0x4000000) → regAt bar (off / 8 * 8) = some a → ownRow a.reg = false → s.dev.regWritable fn a = true →
    exec (.regWrite fn bar off wide v) s = .next (s.withDev (s.dev.writeReg a off wide v.toNat))

/-! ### Rules over the whole device -/

/-- The state after reset: no command waits, the flash is blank, no memory holds anything, nothing is recorded beside the registers,
and every register entry reads the reset value of its table under the configuration in force. The configuration is the model's
choice (log entry 15). -/
def Obligations.ResetStateHoldsTheResetValues : Prop :=
  State.reset.pending = [] ∧ State.reset.flash = Flash.blank ∧ State.reset.dev.mem = Mem.init ∧ State.reset.dev.out = [] ∧
    (∀ (r : Reg) (i j : Nat), State.reset.dev.reg r i j = (resetWord State.reset.dev.cfg r i j).toNat) ∧
    (∀ c, State.reset.dev.ctx c = Ctx.init) ∧ (∀ k, State.reset.dev.core k = Core.init) ∧ (∀ q, State.reset.dev.queue q = Queue.init)

/-- A queue of well-formed commands never stops the device: after any number of steps that many commands are gone. -/
def Obligations.WellFormedRunsNeverStop : Prop :=
  ∀ (s : State) (n : Nat), s.WellFormed → ∃ t, steps n s = .next t ∧ t.pending = s.pending.drop n ∧ t.WellFormed

/-- The attached flash under every step: its array keeps its canonical form, its counter never falls, its counter key is never
changed once it is programmed; and only the boot, recovery, FLASH_WRITE and COMMIT_SVN reach it at all. -/
def Obligations.FlashOnlyAdvances : Prop :=
  ∀ s t : State, step s = .next t →
    (s.flash.array.wf = true → t.flash.array.wf = true) ∧ s.flash.counter ≤ t.flash.counter ∧
    (∀ k, s.flash.ctrKey = some k → t.flash.ctrKey = some k) ∧
    ((∀ i ∈ s.pending.head?, usesFlash i = false) → t.flash = s.flash)

/-- The security-version counter (R372): only COMMIT_SVN of tenant 0 raises it, to RUN; nothing lowers it; a RUN at or below the
counter changes nothing; the running device keeps every register but SEC_SVN and the event log; RUN is the lowest version of the
images that booted, and a later boot takes none below the counter. -/
def Obligations.CounterFollowsCommitsAlone : Prop :=
  (∀ (i : Instr) (s t : State), exec i s = .next t → s.flash.counter ≤ t.flash.counter ∧
    (t.flash.counter ≠ s.flash.counter → i = .commitSvn 0 true)) ∧
  (∀ s : State, s.dev.barOpen = true → s.dev.get F.secSvn_ctr 0 < s.dev.get F.secSvn_run 0 →
    s.flash.ctrKey = some s.dev.sec.ctrKey → s.flash.counter ≤ s.dev.get F.secSvn_run 0 →
    ∃ t, exec (.commitSvn 0 true) s = .next t ∧ t.flash.counter = s.dev.get F.secSvn_run 0 ∧
      t.dev.get F.secSvn_ctr 0 = s.dev.get F.secSvn_run 0) ∧
  (∀ (s : State) (fn : Nat) (ok : Bool), fn < 64 → s.dev.get F.secSvn_run 0 ≤ s.dev.get F.secSvn_ctr 0 →
    exec (.commitSvn fn ok) s = .next s) ∧
  (∀ (s t : State) (fn : Nat) (ok : Bool), exec (.commitSvn fn ok) s = .next t →
    t.dev = { s.dev with regs := t.dev.regs } ∧
    ∀ (r : Reg) (i j : Nat), r ≠ .secSvn → r ≠ .secEvtHead → r ≠ .secEvtInfo → r ≠ .secEvtTime →
      t.dev.reg r i j = s.dev.reg r i j) ∧
  (∀ (s t : State) (puf : List Byte), exec (.coldReset puf) s = .next t → t.dev.get F.secStat_stage 0 = 3 →
    t.dev.get F.secSvn_run 0 = min t.dev.sec.svnLoader (min t.dev.sec.svnFirmware t.dev.sec.svnConfig) ∧
    s.flash.counter ≤ t.dev.sec.svnLoader ∧ s.flash.counter ≤ t.dev.sec.svnFirmware ∧ s.flash.counter ≤ t.dev.sec.svnConfig)

/-! ### Random numbers (chapter 10) -/

/-- draw32 is the upper half of word 607 + k of its tile's sequence, for the seed words of R219, and a tile gives each of its 4,096
elements a word of its own. -/
def Obligations.Draw32IsTheUpperHalfOfItsWord : Prop :=
  (∀ (seed tensor h : Word) (a b : Nat) (x : Nat → Word), a < 2 ^ 32 → b < 2 ^ 32 →
    h = mix64 (seed ^^^ mix64 (tensor ^^^ mix64 (BitVec.ofNat 64 (a / 64 * 2 ^ 32 + b / 64)))) →
    x 0 = (mix64 (h + 0x9E3779B97F4A7C15#64) ||| 1#64) →
    (∀ j, 1 ≤ j → j < 607 → x j = mix64 (h + BitVec.ofNat 64 (j + 1) * 0x9E3779B97F4A7C15#64)) →
    (∀ n, 607 ≤ n → x n = x (n - 607) + x (n - 273)) →
    draw32 seed tensor a b = (x (607 + (64 * (a % 64) + b % 64))).extractLsb' 32 32) ∧
  (∀ a b a' b' : Nat, a / 64 = a' / 64 → b / 64 = b' / 64 → 64 * (a % 64) + b % 64 < 4096 ∧
    (64 * (a % 64) + b % 64 = 64 * (a' % 64) + b' % 64 → a = a' ∧ b = b'))

/-- VECTOR_DRAW writes the draw32 of every coordinate of its rectangle, in row-major order, whatever the core's ports drew before and
in what order; and it leaves the ports sound. -/
def Obligations.VectorDrawWritesTheDrawsOfItsCoordinates : Prop :=
  ∀ (s : State) (core seq c k off : Nat) (y : Clause) (op : DrawOp) (seed : Word), s.dev.Ready core seq c y vectorUnit →
    coordsOk op.row0 op.rows op.col0 op.cols = true → 2 ^ 40 ≤ op.tensor.toNat → s.dev.PortsSound core → Addr.of op.dst.toNat = .ls k off → s.dev.ownsCore c k = true →
    off + 4 * (op.rows * op.cols) ≤ storeBytes → (s.dev.core k).store.wf = true →
    seed = (if y.gen then y.seed else BitVec.ofNat 64 (s.dev.reg .rngSeedLive c)) →
    ∃ t, exec (.vectorDraw core seq op) s = .next t ∧ t.dev.PortsSound core ∧
      t.dev.lsRead k off (4 * (op.rows * op.cols)) = f32Bytes ((List.range (op.rows * op.cols)).map fun n =>
        draw32 seed op.tensor (op.row0 + n / op.cols) (op.col0 + n % op.cols))

/-! ### Full stops and faults (chapters 2, 3, 7, 15) -/

/-- A learning full stop of a job of one device advances STEP by one and decides the step from the flag and the sum: PEND, NORM,
FACTOR, and LS_EXP and CLEAN as Table 3.9 says, or with ENABLE 0 LS_INIT and 0. A barrier that its operation's abort ended skips the
update, leaves them, and still advances STEP. -/
def Obligations.FullStopDecidesTheStep : Prop :=
  (∀ (s : State) (c lo hi e clean window : Nat) (sum : W32) (flag : Bool) (rsp : TierRsp), c < 256 → s.dev.working c = true →
    s.dev.get F.lrnStepStat_phase c = LrnSt.run → s.dev.stopReady c = true → s.dev.jobGroup c = none → sum = s.dev.ownSum c →
    flag = (s.dev.ownFlag c || fbad sum) → (lo, hi) = s.dev.lsRange c → e = s.dev.get F.ctxLsStat_ls_exp c → lo ≤ e → e ≤ hi →
    clean = s.dev.get F.ctxLsStat_clean c → window = max 1 (s.dev.get F.ctxLsCfg_window c) →
    ∃ t, exec (.learningFullStop c rsp) s = .next t ∧ t.dev.reg .lrnStep c = (s.dev.reg .lrnStep c + 1) % 2 ^ 64 ∧
      t.dev.get F.lrnStepStat_pend c = (if flag then 2 else 1) ∧
      t.dev.get F.lrnClipStat_norm c = (normOf sum (s.dev.ctx c).latLsExp).toNat ∧
      t.dev.get F.lrnClipStat_factor c =
        (if flag then 0 else (s.dev.stepFactor c (normOf sum (s.dev.ctx c).latLsExp) (s.dev.ctx c).latLsExp).toNat) ∧
      (s.dev.flag F.ctxLsCfg_enable c = true →
        (flag = true → t.dev.get F.ctxLsStat_ls_exp c = max lo (e - 1) ∧ t.dev.get F.ctxLsStat_clean c = 0) ∧
        (flag = false → clean + 1 < window → t.dev.get F.ctxLsStat_ls_exp c = e ∧ t.dev.get F.ctxLsStat_clean c = clean + 1) ∧
        (flag = false → window ≤ clean + 1 → t.dev.get F.ctxLsStat_ls_exp c = min hi (e + 1) ∧ t.dev.get F.ctxLsStat_clean c = 0)) ∧
      (s.dev.flag F.ctxLsCfg_enable c = false →
        t.dev.get F.ctxLsStat_ls_exp c = s.dev.lsInit c ∧ t.dev.get F.ctxLsStat_clean c = 0)) ∧
  (∀ (s : State) (c g : Nat), c < 256 → (s.dev.ctx c).inBarrier = true → s.dev.working c = true → s.dev.jobGroup c = some g →
    (s.dev.inGroup c g = false ∨ (s.dev.group g).stopOp = none) →
    ∃ t, exec (.barrierAbort c) s = .next t ∧ t.dev.reg .lrnStep c = (s.dev.reg .lrnStep c + 1) % 2 ^ 64 ∧
      t.dev.get F.lrnStepStat_pend c = 2 ∧ t.dev.reg .ctxLsStat c = s.dev.reg .ctxLsStat c ∧
      t.dev.reg .lrnClipStat c = s.dev.reg .lrnClipStat c)

/-- A clause instruction that meets a fault (here a DMA whose record is not 64-byte aligned) tears its context down: CTX_FAULT holds
what happened and where, every sequencer of the context halts, and no record, memory, queue or register of anything else changes. A
context that no longer works only counts a further fault. -/
def Obligations.FaultsTearTheirContextDownAlone : Prop :=
  (∀ (s : State) (core seq ch off c : Nat) (next : Bool) (y : Clause), s.dev.Runs core seq c y → ch < 8 → off < 2 ^ 22 → c < 256 →
    s.dev.ownsChannel core seq ch = true → off % 64 ≠ 0 → s.dev.ctxState c = CtxSt.active →
    ∃ t, exec (.dma core seq ch off next) s = .next t ∧ t.dev.ctxState c = CtxSt.tearing ∧
      t.dev.reg .ctxFault c = Status.integrity + core * 2 ^ 8 + seq * 2 ^ 16 + 2 ^ 18 ∧ t.dev.get F.ctxFaultVa_va c = 0 ∧
      (∀ k ∈ s.dev.coresOf c, ∀ q < 3, t.dev.get F.coreSeqStat_state k q = SeqSt.halt) ∧
      t.dev = { s.dev with regs := t.dev.regs } ∧
      ∀ (r : Reg) (i j : Nat),
        (((regSpec r).block = .ctx ∧ i ≠ c) ∨ ((regSpec r).block = .core ∧ i ∉ s.dev.coresOf c) ∨
          ((regSpec r).block ≠ .ctx ∧ (regSpec r).block ≠ .core)) →
        t.dev.reg r i j = s.dev.reg r i j) ∧
  (∀ (d : Dev) (c status core seq va : Nat), d.ctxState c ≠ CtxSt.active → d.ctxState c ≠ CtxSt.detached →
    (d.faultCtx c status core seq va).get F.ctxFault_later c = satAdd F.ctxFault_later.w (d.get F.ctxFault_later c) 1 ∧
    (d.faultCtx c status core seq va).get F.ctxFault_status c = d.get F.ctxFault_status c ∧
    (d.faultCtx c status core seq va).ctxState c = d.ctxState c)

/-! ### Who may reach what (chapters 2, 15, 16, 21) -/

/-- A queue's page (R337): its tenant reads it and writes it, tenant 0 reads it and its writes are ignored, and any other tenant reads
0 and its writes are ignored. -/
def Obligations.QueuePagesBelongToTheirTenant : Prop :=
  ∀ (s : State) (fn q c : Nat), fn < 64 → q < 16384 → s.dev.served = true → s.dev.ctxOfQueue q = some c →
    ((fn = s.dev.tenantOf c ∨ fn = 0) → ∀ (r : Reg) (j : Nat), (regSpec r).block = .que → r ≠ .queDb → r ≠ .queCqDb →
      s.dev.regView fn ⟨r, q, j⟩ = s.dev.reg r q j) ∧
    (fn ≠ s.dev.tenantOf c → fn ≠ 0 → ∀ (r : Reg) (j : Nat), (regSpec r).block = .que → s.dev.regView fn ⟨r, q, j⟩ = 0) ∧
    (fn = s.dev.tenantOf c →
      (∀ tail, tail < 65536 → s.dev.get F.queStat_state q = queRun → tail < s.dev.sqSize q →
        ∃ t, exec (.queDb fn q tail) s = .next t ∧ (t.dev.queue q).sqTail = tail) ∧
      (∀ head, head < 65536 → s.dev.get F.queStat_state q = queRun → head < s.dev.cqSize q →
        ringDist (s.dev.cqSize q) (s.dev.queue q).cqHead head ≤
          ringDist (s.dev.cqSize q) (s.dev.queue q).cqHead (s.dev.queue q).cqTail →
        ∃ t, exec (.queCqDb fn q head) s = .next t ∧ (t.dev.queue q).cqHead = head) ∧
      (∀ (r : Reg) (v : Word), (r = .queSqBase ∨ r = .queCqBase) → s.dev.flag F.queCfg_enable q = false →
        ∃ t, exec (.regWrite fn 2 (0x1000 * q + (regSpec r).offset) true v) s = .next t ∧
          ∀ fs ∈ regFields r, t.dev.get fs.fld q = bitsOf v.toNat fs.fld.lo fs.fld.w) ∧
      (∀ v : Word, s.dev.flag F.queCfg_enable q = false → bitOf v.toNat 0 = true →
        ∃ t, exec (.queEnable fn q v) s = .next t ∧ t.dev.reg .queCfg q = bitsOf v.toNat 0 23 ∧ (t.dev.queue q).phase = true) ∧
      (∀ v : Word, bitOf v.toNat 0 = false →
        ∃ t, exec (.queDisable fn q v) s = .next t ∧ t.dev.reg .queCfg q = bitsOf v.toNat 0 23)) ∧
    (fn ≠ s.dev.tenantOf c → (∀ n, n < 65536 → exec (.queDb fn q n) s = .next s ∧ exec (.queCqDb fn q n) s = .next s) ∧
      (∀ v : Word, exec (.queEnable fn q v) s = .next s ∧ exec (.queDisable fn q v) s = .next s) ∧
      (∀ (off : Nat) (wide : Bool) (v : Word) (a : RegAt), Instr.wf (.regWrite fn 2 off wide v) = true → off < 0x4000000 →
        regAt 2 (off / 8 * 8) = some a → a.inst = q → exec (.regWrite fn 2 off wide v) s = .next s))

/-- What belongs to another tenant is out of reach: a function that is neither tenant 0 nor the owner changes nothing by any command
on a context, a tenant's window, a core's window or the device's own registers, and reads 0; and tenant 0 itself does not write the
window of a core that another tenant's context holds (R58). -/
def Obligations.ForeignAccessesDoNothing : Prop :=
  (∀ (s : State) (fn c : Nat) (v : Word), fn < 64 → fn ≠ 0 → c < 256 →
    (s.dev.flag F.ctxCfg_valid c = false ∨ s.dev.tenantOf c ≠ fn) →
    exec (.ctxReset fn c) s = .next s ∧ exec (.ctxDestroy fn c) s = .next s ∧ exec (.lrnStepWrite fn c v) s = .next s ∧
    (∀ w < 3, exec (.kvBaseWrite fn c w v) s = .next s) ∧ (∀ w < 2, exec (.ckptJobWrite fn c w v) s = .next s) ∧
    (∀ n < 2 ^ 32, exec (.kvPoolWrite fn c n) s = .next s ∧ ∀ tier < 3, exec (.tierQuotaWrite fn c tier n) s = .next s) ∧
    (∀ va < 2 ^ 50, exec (.tierProbe fn c va) s = .next s) ∧
    (∀ (r : Reg) (j : Nat), (regSpec r).block = .ctx → s.dev.regView fn ⟨r, c, j⟩ = 0)) ∧
  (∀ (s : State) (fn tn : Nat) (v : Word), fn < 64 → fn ≠ 0 → tn < 64 →
    exec (.tenCfgWrite fn tn v) s = .next s ∧ exec (.erase fn tn) s = .next s ∧
    (fn ≠ tn → exec (.tenCreate fn tn v) s = .next s ∧ exec (.tenantReset fn tn) s = .next s ∧ exec (.tenKeyLoad fn tn v) s = .next s ∧
      exec (.tenRpt fn tn v) s = .next s ∧ ∀ (r : Reg) (j : Nat), (regSpec r).block = .ten → s.dev.regView fn ⟨r, tn, j⟩ = 0)) ∧
  (∀ (s : State) (fn k : Nat), fn < 64 → k < 256 →
    ((s.dev.get F.coreState_state k = CoreSt.held ∧ s.dev.tenantOf (s.dev.get F.coreState_ctx k) ≠ fn) ∨
      s.dev.get F.coreState_state k = CoreSt.absent ∨ (s.dev.get F.coreState_state k ≠ CoreSt.held ∧ fn ≠ 0)) →
    exec (.cntClrStall fn k) s = .next s ∧ exec (.cntClrLag fn k) s = .next s ∧ exec (.cntClrWcet fn k) s = .next s ∧
    (fn ≠ 0 → s.dev.get F.coreState_state k = CoreSt.held → ∀ (r : Reg) (j : Nat), (regSpec r).block = .core →
      s.dev.regView fn ⟨r, k, j⟩ = 0)) ∧
  (∀ (s : State) (fn : Nat) (v : Word), fn < 64 → fn ≠ 0 → exec (.reattach fn) s = .next s ∧ exec (.timeAdj fn v) s = .next s ∧
    (∀ p < 32, exec (.recal fn p) s = .next s) ∧ (∀ ok, exec (.commitSvn fn ok) s = .next s))

/-- A register write acts on each field that it reaches by the field's access type (R7, R434): RW takes the written value, a 1 clears a
W1C field and sets a W1S one, RO and WO keep theirs; a field that a 32-bit write does not reach keeps its value, and so does every
other register entry. The three registers whose writes do more (port ENABLE, the mailbox command) and the bit that COMMIT_SVN
writes have commands or statements of their own. -/
def Obligations.RegisterFieldsActByTheirType : Prop :=
  ∀ (s : State) (fn bar off x : Nat) (wide : Bool) (v : Word) (a : RegAt), Instr.wf (.regWrite fn bar off wide v) = true →
    (bar = 0 ∨ off < 0x4000000) → regAt bar (off / 8 * 8) = some a → ownRow a.reg = false → s.dev.regWritable fn a = true →
    a.reg ≠ .fabPortCfg → a.reg ≠ .mbxCmd →
    x = (if wide then v.toNat else if off % 8 = 0 then v.toNat % 2 ^ 32 else v.toNat % 2 ^ 32 * 2 ^ 32) →
    ∃ t, exec (.regWrite fn bar off wide v) s = .next t ∧
      (∀ fs ∈ regFields a.reg,
        t.dev.get fs.fld a.inst a.idx =
          if reached wide off fs then
            match fs.acc with
            | .rw => bitsOf x fs.fld.lo fs.fld.w
            | .w1c => if bitsOf x fs.fld.lo fs.fld.w = 0 then s.dev.get fs.fld a.inst a.idx else 0
            | .w1s => if fs.fld = F.secCtl_commit_svn || bitsOf x fs.fld.lo fs.fld.w = 0 then s.dev.get fs.fld a.inst a.idx
                else bitsOf x fs.fld.lo fs.fld.w
            | _ => s.dev.get fs.fld a.inst a.idx
          else s.dev.get fs.fld a.inst a.idx) ∧
      t.dev = { s.dev with regs := t.dev.regs } ∧
      (∀ (r : Reg) (i j : Nat), ⟨r, i, j⟩ ≠ a → t.dev.reg r i j = s.dev.reg r i j)

/-- The header check (R355): a CLASS outside Table 16.5 or a required zero that is not 0 ends the descriptor with INTERNAL, a class
that the context's kind or tenant refuses with INTEGRITY, before any check of the class; the context continues. -/
def Obligations.HeaderCheckRefusals : Prop :=
  ∀ (s : State) (c q head : Nat) (bs : List Byte), c < 256 → s.dev.flag F.glbInfo_ready 0 = true →
    s.dev.flag F.hostStat_ide 0 = true → s.dev.detached = false → s.dev.ctxState c = CtxSt.active →
    (s.dev.turnOrder c).find? (s.dev.canTake c) = some q → head = s.dev.get F.queStat_sq_head q → bs = s.dev.ringEntry c q head →
    ((fieldAt bs 0 1 = 0 ∨ 11 < fieldAt bs 0 1 ∨ 1 < fieldAt bs 1 1 ∨ allZero (slice bs 2 14) = false) →
      ∃ t, exec (.descriptorTake c false) s = .next t ∧ t.dev.DueLast ⟨q, head, (s.dev.queue q).period⟩ Status.internal 0 ∧
        t.dev.ctxState c = CtxSt.active) ∧
    (1 ≤ fieldAt bs 0 1 → fieldAt bs 0 1 ≤ 11 → fieldAt bs 1 1 ≤ 1 → allZero (slice bs 2 14) = true →
      ((fieldAt bs 0 1 = 4 ∧ s.dev.kindOf c = 1) ∨ (fieldAt bs 0 1 = 5 ∧ s.dev.kindOf c = 0) ∨
        (fieldAt bs 0 1 = 11 ∧ s.dev.tenantOf c ≠ 0)) →
      ∃ t, exec (.descriptorTake c false) s = .next t ∧ t.dev.DueLast ⟨q, head, (s.dev.queue q).period⟩ Status.integrity 0 ∧
        t.dev.ctxState c = CtxSt.active)

/-! ### Logs, time, memory -/

/-- Security events fill a ring of 64 entries: after any run of events TOTAL has counted each, and each of the last 64 stands at its
number modulo 64 with its code, its argument and its time. A noise failure logs 0x21. -/
def Obligations.SecurityEventsFillTheirRing : Prop :=
  (∀ (d d' : Dev) (es : List (Nat × Nat)), (∀ e ∈ es, e.1 < 256) → d.get F.secEvtHead_total 0 + es.length < 2 ^ 32 →
    d' = es.foldl (fun d e => d.logEvent e.1 e.2) d →
    d'.get F.secEvtHead_total 0 = d.get F.secEvtHead_total 0 + es.length ∧
    ∀ (k : Nat) (e : Nat × Nat), es[k]? = some e → es.length ≤ k + 64 →
      d'.get F.secEvtInfo_code 0 ((d.get F.secEvtHead_total 0 + k) % 64) = e.1 ∧
      d'.get F.secEvtInfo_arg 0 ((d.get F.secEvtHead_total 0 + k) % 64) = e.2 % 256 ∧
      d'.reg .secEvtTime 0 ((d.get F.secEvtHead_total 0 + k) % 64) = d.ns) ∧
  (∀ s : State, exec .noiseHealthFailure s = .next (s.withDev ((s.dev.put F.secStat_noise_fail 0 1).logEvent 0x21 0)))

/-- Idle steps are time-base cycles (the model's choice, log entry 13): over any number of them, in any state, TIME_NOW gains the rate each,
less half the rate each until the time to be absorbed is used up, and the cycles are counted. A device with no flits that wait or land, no
share at its cap, no operation of a group and no SEND that a pause holds changes in nothing else, but that the bank accesses of the cycle
before are past. -/
def Obligations.IdleStepsCountTime : Prop :=
  (∀ (s : State) (n back : Nat), s.pending = [] → s.dev.time.now < 2 ^ 80 → back = s.dev.time.rate - s.dev.time.rate / 2 →
    ∃ t, steps n s = .next t ∧ t.pending = [] ∧ t.flash = s.flash ∧ t.dev.cycles = s.dev.cycles + n ∧
      t.dev.time = { s.dev.time with
        now := (s.dev.time.now + n * s.dev.time.rate - min s.dev.time.absorb (n * back)) % 2 ^ 80,
        absorb := s.dev.time.absorb - n * back }) ∧
  (∀ (s t : State) (n : Nat), s.pending = [] → s.dev.waiting = [] → (∀ e ∈ s.dev.sets, e.2.held = []) → s.dev.shares = [] →
    (∀ e ∈ s.dev.groups, e.2.ops = []) → (∀ x ∈ s.dev.sends, x.rest = []) →
    (∀ die < 2, s.dev.get F.poolStat_free die = sharedBuffers) → steps n s = .next t →
    t.dev = { s.dev with time := t.dev.time, cycles := s.dev.cycles + n, banks := if n = 0 then s.dev.banks else [] })

/-- A host window write of one granule's bytes stores them where the leaf of their address points and changes no other byte of any tier
and nothing else of the device; a read of the same window bytes then returns them. Stated for the top and the heart note, with the
granule allocated, its metadata readable (R246) and no watch. -/
def Obligations.HostWindowWritesStoreTheirBytes : Prop :=
  ∀ (s : State) (fn a w c va g : Nat) (l : Leaf) (bs : List Byte), Instr.wf (.hostWindowWrite fn a false bs []) = true →
    s.dev.served = true → pieces a bs = [(a, bs)] → s.dev.bindingAt a = some w → s.dev.reaches fn w = true →
    s.dev.flag F.hostWinCfg_w 0 w = true → c = s.dev.get F.hostWinCfg_ctx 0 w → va = s.dev.windowVa w a → va + bs.length ≤ 2 ^ 50 →
    pieces va bs = [(va, bs)] → (s.dev.ctx c).leafAt (va / pageBytes) = some (g, l) → l.w = true → l.alloc = true →
    l.poison = false → l.tier < 2 → l.kind ≠ .accord → s.dev.badMode (va / pageBytes) g l = false → (s.dev.ctx c).watches = [] → (s.dev.store l.tier).wf = true →
    ∃ t u p, p = s.dev.cellOf l.tier (l.frame * pageBytes + (va - g * pageBytes)) ∧
      exec (.hostWindowWrite fn a false bs []) s = .next t ∧ t.dev = { s.dev with mem := t.dev.mem } ∧
      (t.dev.store l.tier).readN p bs.length = bs ∧
      (∀ x, (x < p ∨ p + bs.length ≤ x) → (t.dev.store l.tier).read x = (s.dev.store l.tier).read x) ∧
      (∀ tier < 3, tier ≠ l.tier → t.dev.store tier = s.dev.store tier) ∧ t.dev.mem.host = s.dev.mem.host ∧
      exec (.hostWindowRead fn a bs.length false []) t = .next u ∧ u.dev.out = .readData fn bs true :: s.dev.out

/-! ### What commands leave unchanged -/

/-- The commands of the time reference and of power and temperature change nothing beyond their own registers, the record of their
block, free values drawn and answers sent (a beacon also joins the flits that wait on its ports, in buffers of the pool). -/
def Obligations.TimeAndPowerFrames : Prop :=
  (∀ (s t : State) (i : Instr), exec i s = .next t →
    (∃ p ps fn v edge half wide dep, i = .linkDelayMeasure p ps ∨ i = .holdover ∨ i = .timeAdj fn v ∨ i = .tsyncInEdge edge ∨
      i = .wholeSecond ∨ i = .timeNowRead fn half ∨ i = .timeHostInRead fn wide dep) →
    t.flash = s.flash ∧
    t.dev = { s.dev with time := t.dev.time, regs := t.dev.regs, out := t.dev.out, freeIdx := t.dev.freeIdx } ∧
    ∀ (r : Reg) (x j : Nat), r ≠ .timeStat → t.dev.reg r x j = s.dev.reg r x j) ∧
  (∀ (s t : State) (i : Instr), exec i s = .next t → (∃ p r h n, i = .beaconSend ∨ i = .beaconReceive p r h n) →
    t.flash = s.flash ∧
    t.dev = { s.dev with time := t.dev.time, regs := t.dev.regs, freeIdx := t.dev.freeIdx, ports := t.dev.ports } ∧
    ∀ (r : Reg) (x j : Nat), (regSpec r).block ≠ .time → r ≠ .poolStat → t.dev.reg r x j = s.dev.reg r x j) ∧
  (∀ (s t : State) (i : Instr), exec i s = .next t →
    (∃ n temp rail ma, i = .wakeRequest n ∨ i = .wakeGrant ∨ i = .tokenRefill ∨ i = .domainIdleOff n ∨ i = .selfThrottleSample n temp ∨
      i = .junctionClampStep n temp ∨ i = .packageFloorSample ma ∨ i = .currentClamp rail ma ∨ i = .currentClampRelease rail) →
    t.flash = s.flash ∧
    t.dev = { s.dev with power := t.dev.power, regs := t.dev.regs, freeIdx := t.dev.freeIdx } ∧
    ∀ (r : Reg) (x j : Nat), (regSpec r).block ≠ .pwr → t.dev.reg r x j = s.dev.reg r x j)

/-- The commands on a queue's page change that queue and its registers alone; a completion also writes host memory and may signal its
vector; an SPDM request changes the responder, the messages sent and HOST_STAT.IDE at most. -/
def Obligations.QueueAndSpdmFrames : Prop :=
  (∀ (s t : State) (i : Instr) (q : Nat), exec i s = .next t →
    (∃ fn n v, i = .queDb fn q n ∨ i = .queCqDb fn q n ∨ i = .queEnable fn q v ∨ i = .queDisable fn q v) →
    t.flash = s.flash ∧ t.dev = { s.dev with queues := t.dev.queues, regs := t.dev.regs } ∧
    (∀ q', q' ≠ q → t.dev.queue q' = s.dev.queue q') ∧
    ∀ (r : Reg) (x j : Nat), ((regSpec r).block ≠ .que ∨ x ≠ q) → t.dev.reg r x j = s.dev.reg r x j) ∧
  (∀ (s t : State) (q : Nat), exec (.completionWrite q) s = .next t →
    t.flash = s.flash ∧
    t.dev = { s.dev with queues := t.dev.queues, regs := t.dev.regs, out := t.dev.out, mem := { s.dev.mem with host := t.dev.mem.host } } ∧
    (∀ q', q' ≠ q → t.dev.queue q' = s.dev.queue q') ∧
    ∀ (r : Reg) (x j : Nat), ((regSpec r).block ≠ .que ∨ x ≠ q) → t.dev.reg r x j = s.dev.reg r x j) ∧
  (∀ (s t : State) (i : Instr), exec i s = .next t →
    (∃ req a b c e f g, i = .getVersion req ∨ i = .getCapabilities req ∨ i = .negotiateAlgorithms req e f g ∨ i = .getDigests req ∨ i = .getCertificate req a b c ∨
      i = .challenge req a ∨ i = .getMeasurements req a ∨ i = .keyExchange req e ∨ i = .finish req a e ∨ i = .endSession req a ∨
      i = .heartbeat req a ∨ i = .keyUpdate req a ∨ i = .chunkSend req a b e ∨ i = .chunkGet req a b ∨ i = .ideKm req a e) →
    t.flash = s.flash ∧
    t.dev = { s.dev with spdm := t.dev.spdm, regs := t.dev.regs, out := t.dev.out, freeIdx := t.dev.freeIdx } ∧
    ∀ (r : Reg) (x j : Nat), r ≠ .hostStat → t.dev.reg r x j = s.dev.reg r x j)

/-- A matrix instruction or a draw whose results go to local store changes no memory outside the core's local store that it names, no
byte of that store outside its results, and no queue, ring, group, port, unit or other core, and of a weight set only which steps have
latched its banks (R49). -/
def Obligations.NumberInstructionFrames : Prop :=
  ∀ (s t : State) (i : Instr) (core seq k off n : Nat),
    ((∃ op rsp, i = .matrixInstruction core seq op rsp ∧ Addr.of op.y.toNat = .ls k off ∧ n = 4 * (op.m * op.n)) ∨
     (∃ op, i = .vectorDraw core seq op ∧ Addr.of op.dst.toNat = .ls k off ∧ n = 4 * (op.rows * op.cols))) →
    exec i s = .next t →
    t.flash = s.flash ∧ t.dev.mem.top = s.dev.mem.top ∧ t.dev.mem.heart = s.dev.mem.heart ∧ t.dev.mem.base = s.dev.mem.base ∧
    t.dev.mem.host = s.dev.mem.host ∧ t.dev.queues = s.dev.queues ∧ t.dev.rings = s.dev.rings ∧
    (∀ w, { t.dev.wset w with readers0 := [], readers1 := [] } = { s.dev.wset w with readers0 := [], readers1 := [] }) ∧
    t.dev.groups = s.dev.groups ∧ t.dev.ports = s.dev.ports ∧ t.dev.units = s.dev.units ∧ t.dev.time = s.dev.time ∧
    t.dev.power = s.dev.power ∧ t.dev.sec = s.dev.sec ∧ t.dev.tests = s.dev.tests ∧ t.dev.out = s.dev.out ∧
    (∀ k', k' ≠ k → (t.dev.core k').store = (s.dev.core k').store ∧ (k' ≠ core → t.dev.core k' = s.dev.core k')) ∧
    (∀ x, (x < off ∨ off + n ≤ x) → (t.dev.core k).store.read x = (s.dev.core k).store.read x)
end

