-- ==== Sys2Proof/Laws/Maps.lean ====
section
/-! SUPPORT. The laws of sparse maps and byte memories: what is read after a write, and that every memory operation keeps
the canonical form. -/

namespace Sys2Proof.Machine

/-! ### Sparse maps -/

theorem SMap.find_set_self {α : Type} (m : SMap α) (k : Nat) (v : α) : SMap.find (SMap.set m k v) k = some v := by
  induction m with
  | nil => simp [SMap.set, SMap.find]
  | cons e t ih =>
    obtain ⟨k', v'⟩ := e
    simp only [SMap.set]
    split
    · simp [SMap.find]
    · split
      · simp [SMap.find]
      · rename_i h1 h2
        simp [SMap.find, h2, ih]

theorem SMap.find_set_ne {α : Type} (m : SMap α) {k k' : Nat} (v : α) (h : k' ≠ k) :
    SMap.find (SMap.set m k v) k' = SMap.find m k' := by
  induction m with
  | nil => simp [SMap.set, SMap.find, h]
  | cons e t ih =>
    obtain ⟨a, b⟩ := e
    simp only [SMap.set]
    split
    · simp [SMap.find, h]
    · split
      · rename_i h1 h2
        subst h2
        simp [SMap.find, h]
      · simp [SMap.find, ih]

/-- An entry taken out is not there; every other one is as before. -/
theorem SMap.find_erase {α : Type} (m : SMap α) (k k' : Nat) :
    SMap.find (SMap.erase m k) k' = if k' = k then none else SMap.find m k' := by
  unfold SMap.erase
  induction m with
  | nil => simp [SMap.find]
  | cons e t ih =>
    by_cases h : e.1 = k
    · by_cases h' : k' = k
      · simpa [h, h'] using ih
      · simp [h, SMap.find, h'] at ih ⊢
        simpa [h, h'] using ih
    · by_cases h' : k' = e.1
      · subst h'
        simp [h, SMap.find]
      · simpa [h, SMap.find, h'] using ih

@[simp] theorem SMap.get_set_self {α : Type} (m : SMap α) (d : α) (k : Nat) (v : α) :
    SMap.get (SMap.set m k v) d k = v := by
  simp [SMap.get, SMap.find_set_self]

theorem SMap.get_set_ne {α : Type} (m : SMap α) (d : α) {k k' : Nat} (v : α) (h : k' ≠ k) :
    SMap.get (SMap.set m k v) d k' = SMap.get m d k' := by
  simp [SMap.get, SMap.find_set_ne m v h]

/-! ### Byte memories -/

/-- A write to an address is what a read of it gives. -/
theorem Memory.read_below (m : Memory) (a : Nat) (h : ∀ e ∈ m, a < e.1) : Memory.read m a = 0 := by
  induction m with
  | nil => rfl
  | cons e t ih =>
    obtain ⟨a', b⟩ := e
    have := h (a', b) (by simp)
    simp only at this
    rw [Memory.read, if_neg (by omega)]
    exact ih fun e he => h e (by simp [he])

/-- The canonical form, as a fact about the first entry and the rest. -/
theorem Memory.wf_cons (a : Nat) (b : Byte) (t : Memory) :
    Memory.wf ((a, b) :: t) = true ↔ b ≠ 0 ∧ (∀ e ∈ t, a < e.1) ∧ Memory.wf t = true := by
  induction t generalizing a b with
  | nil => simp [Memory.wf]
  | cons e t ih =>
    obtain ⟨a', b'⟩ := e
    rw [Memory.wf]
    simp only [Bool.and_eq_true, decide_eq_true_eq, List.mem_cons, forall_eq_or_imp]
    constructor
    · rintro ⟨⟨h1, h2⟩, h3⟩
      refine ⟨h1, ⟨h2, fun e he => ?_⟩, h3⟩
      exact Nat.lt_trans h2 (((ih a' b').1 h3).2.1 e he)
    · rintro ⟨h1, ⟨h2, -⟩, h3⟩
      exact ⟨⟨h1, h2⟩, h3⟩

theorem Memory.write_keys (m : Memory) (a : Nat) (b : Byte) (e : Host.Cell) (h : e ∈ Memory.write m a b) :
    e ∈ m ∨ e = (a, b) := by
  induction m with
  | nil =>
    simp only [Memory.write] at h
    split at h
    · cases h
    · simpa using h
  | cons x t ih =>
    obtain ⟨a', b'⟩ := x
    simp only [Memory.write] at h
    split at h
    · split at h
      · exact .inl h
      · rcases List.mem_cons.1 h with rfl | h
        · exact .inr rfl
        · exact .inl h
    · split at h
      · split at h
        · exact .inl (List.mem_cons_of_mem _ h)
        · rcases List.mem_cons.1 h with rfl | h
          · exact .inr rfl
          · exact .inl (List.mem_cons_of_mem _ h)
      · rcases List.mem_cons.1 h with rfl | h
        · exact .inl (by simp)
        · rcases ih h with h | h
          · exact .inl (List.mem_cons_of_mem _ h)
          · exact .inr h

/-- A write keeps the canonical form. -/
theorem Memory.wf_write (m : Memory) (a : Nat) (b : Byte) (h : Memory.wf m = true) :
    Memory.wf (Memory.write m a b) = true := by
  induction m with
  | nil =>
    rw [Memory.write]
    split <;> simp_all [Memory.wf]
  | cons x t ih =>
    obtain ⟨a', b'⟩ := x
    obtain ⟨h1, h2, h3⟩ := (Memory.wf_cons a' b' t).1 h
    rw [Memory.write]
    split
    · rename_i lt
      split
      · exact h
      · rename_i nz
        refine (Memory.wf_cons _ _ _).2 ⟨nz, fun e he => ?_, h⟩
        rcases List.mem_cons.1 he with rfl | he
        · exact lt
        · exact Nat.lt_trans lt (h2 e he)
    · split
      · rename_i eq
        subst eq
        split
        · exact h3
        · rename_i nz
          exact (Memory.wf_cons _ _ _).2 ⟨nz, h2, h3⟩
      · refine (Memory.wf_cons _ _ _).2 ⟨h1, fun e he => ?_, ih h3⟩
        rcases Memory.write_keys t a b e he with he | rfl
        · exact h2 e he
        · show a' < a
          omega

/-- A run of writes keeps the canonical form. -/
theorem Memory.wf_writeN (m : Memory) (a : Nat) (bs : List Byte) (h : Memory.wf m = true) :
    Memory.wf (Memory.writeN m a bs) = true := by
  induction bs generalizing m a with
  | nil => exact h
  | cons b bs ih => exact ih _ _ (Memory.wf_write m a b h)

/-- Taking entries out keeps the canonical form. -/
theorem Memory.wf_filter (m : Memory) (p : Host.Cell → Bool) (h : Memory.wf m = true) :
    Memory.wf (m.filter p) = true := by
  induction m with
  | nil => exact h
  | cons x t ih =>
    obtain ⟨a', b'⟩ := x
    obtain ⟨h1, h2, h3⟩ := (Memory.wf_cons a' b' t).1 h
    rw [List.filter_cons]
    split
    · exact (Memory.wf_cons _ _ _).2 ⟨h1, fun e he => h2 e (List.mem_filter.1 he).1, ih h3⟩
    · exact ih h3

/-- Clearing a range keeps the canonical form. -/
theorem Memory.wf_clear (m : Memory) (lo n : Nat) (h : Memory.wf m = true) : Memory.wf (Memory.clear m lo n) = true :=
  Memory.wf_filter m _ h

/-- A byte just written reads as written. -/
theorem Memory.read_write_self (m : Memory) (a : Nat) (b : Byte) (h : Memory.wf m = true) :
    Memory.read (Memory.write m a b) a = b := by
  induction m with
  | nil =>
    rw [Memory.write]
    split <;> simp_all [Memory.read]
  | cons x t ih =>
    obtain ⟨a', b'⟩ := x
    obtain ⟨h1, h2, h3⟩ := (Memory.wf_cons a' b' t).1 h
    rw [Memory.write]
    split
    · rename_i lt
      split
      · rename_i z
        rw [z]
        refine Memory.read_below _ a fun e he => ?_
        rcases List.mem_cons.1 he with rfl | he
        · exact lt
        · exact Nat.lt_trans lt (h2 e he)
      · simp [Memory.read]
    · split
      · rename_i eq
        subst eq
        split
        · rename_i z
          rw [z]
          exact Memory.read_below _ a h2
        · simp [Memory.read]
      · rename_i ne
        rw [Memory.read, if_neg ne]
        exact ih h3

/-- A write leaves every other byte alone. -/
theorem Memory.read_write_ne (m : Memory) {a x : Nat} (b : Byte) (h : x ≠ a) :
    Memory.read (Memory.write m a b) x = Memory.read m x := by
  induction m with
  | nil =>
    rw [Memory.write]
    split <;> simp [Memory.read, h]
  | cons e t ih =>
    obtain ⟨a', b'⟩ := e
    rw [Memory.write]
    split
    · split <;> simp [Memory.read, h]
    · split
      · rename_i eq
        subst eq
        split <;> simp [Memory.read, h]
      · rw [Memory.read, Memory.read, ih]

/-- A run of writes leaves every byte outside it alone. -/
theorem Memory.read_writeN_outside (m : Memory) (a x : Nat) (bs : List Byte) (h : x < a ∨ a + bs.length ≤ x) :
    Memory.read (Memory.writeN m a bs) x = Memory.read m x := by
  induction bs generalizing m a with
  | nil => rfl
  | cons b bs ih =>
    rw [Memory.writeN, ih]
    · exact Memory.read_write_ne m b (by simp at h; omega)
    · simp at h; omega

/-- A run of bytes just written reads as written. -/
theorem Memory.readN_writeN (m : Memory) (a : Nat) (bs : List Byte) (h : Memory.wf m = true) :
    Memory.readN (Memory.writeN m a bs) a bs.length = bs := by
  induction bs generalizing m a with
  | nil => rfl
  | cons b bs ih =>
    rw [Memory.writeN, List.length_cons, Memory.readN, ih _ _ (Memory.wf_write m a b h),
      Memory.read_writeN_outside _ _ _ _ (.inl (Nat.lt_succ_self a)), Memory.read_write_self m a b h]

/-- A cleared byte reads 0, and every other byte as before. -/
theorem Memory.read_clear (m : Memory) (lo n x : Nat) (h : Memory.wf m = true) :
    Memory.read (Memory.clear m lo n) x = if lo ≤ x ∧ x < lo + n then 0 else Memory.read m x := by
  induction m with
  | nil => simp [Memory.clear, Memory.read]
  | cons e t ih =>
    obtain ⟨a', b'⟩ := e
    obtain ⟨h1, h2, h3⟩ := (Memory.wf_cons a' b' t).1 h
    have ih := ih h3
    unfold Memory.clear at ih ⊢
    rw [List.filter_cons]
    split
    · rename_i keep
      rw [Memory.read, Memory.read]
      split
      · rename_i eq
        subst eq
        simp at keep
        rw [if_neg (by omega)]
      · exact ih
    · rename_i drop
      rw [ih, Memory.read]
      simp at drop
      split
      · rfl
      · rename_i out
        rw [if_neg (by rintro rfl; exact out ⟨by omega, by omega⟩)]

/-! ### Numbers and bytes -/

@[simp] theorem leBytes_length (n v : Nat) : (leBytes n v).length = n := by
  induction n generalizing v with
  | zero => rfl
  | succ n ih => simp [leBytes, ih]

/-- The bytes of a number spell it. -/
theorem leNat_leBytes (n v : Nat) : leNat (leBytes n v) = v % 256 ^ n := by
  induction n generalizing v with
  | zero => simp [leBytes, leNat, Nat.mod_one]
  | succ n ih =>
    rw [leBytes, leNat, ih, Nat.pow_succ', Nat.mod_mul]
    simp

end Sys2Proof.Machine
end

