-- ==== Sys2Proof/Laws/State.lean ====
section
/-! SUPPORT. One lemma for each field of the device under each update of it: what an update leaves alone. -/

namespace Sys2Proof.Machine

@[simp] theorem Dev.setReg_cfg (d : Dev) (r : Reg) (i v j : Nat) : (d.setReg r i v j).cfg = d.cfg := (rfl)
@[simp] theorem Dev.setReg_freeIdx (d : Dev) (r : Reg) (i v j : Nat) : (d.setReg r i v j).freeIdx = d.freeIdx := (rfl)
@[simp] theorem Dev.setReg_cycles (d : Dev) (r : Reg) (i v j : Nat) : (d.setReg r i v j).cycles = d.cycles := (rfl)
@[simp] theorem Dev.setReg_banks (d : Dev) (r : Reg) (i v j : Nat) : (d.setReg r i v j).banks = d.banks := (rfl)
@[simp] theorem Dev.setReg_out (d : Dev) (r : Reg) (i v j : Nat) : (d.setReg r i v j).out = d.out := (rfl)
@[simp] theorem Dev.setReg_mem (d : Dev) (r : Reg) (i v j : Nat) : (d.setReg r i v j).mem = d.mem := (rfl)
@[simp] theorem Dev.setReg_ctxs (d : Dev) (r : Reg) (i v j : Nat) : (d.setReg r i v j).ctxs = d.ctxs := (rfl)
@[simp] theorem Dev.setReg_cores (d : Dev) (r : Reg) (i v j : Nat) : (d.setReg r i v j).cores = d.cores := (rfl)
@[simp] theorem Dev.setReg_queues (d : Dev) (r : Reg) (i v j : Nat) : (d.setReg r i v j).queues = d.queues := (rfl)
@[simp] theorem Dev.setReg_rings (d : Dev) (r : Reg) (i v j : Nat) : (d.setReg r i v j).rings = d.rings := (rfl)
@[simp] theorem Dev.setReg_sets (d : Dev) (r : Reg) (i v j : Nat) : (d.setReg r i v j).sets = d.sets := (rfl)
@[simp] theorem Dev.setReg_groups (d : Dev) (r : Reg) (i v j : Nat) : (d.setReg r i v j).groups = d.groups := (rfl)
@[simp] theorem Dev.setReg_ports (d : Dev) (r : Reg) (i v j : Nat) : (d.setReg r i v j).ports = d.ports := (rfl)
@[simp] theorem Dev.setReg_units (d : Dev) (r : Reg) (i v j : Nat) : (d.setReg r i v j).units = d.units := (rfl)
@[simp] theorem Dev.setReg_time (d : Dev) (r : Reg) (i v j : Nat) : (d.setReg r i v j).time = d.time := (rfl)
@[simp] theorem Dev.setReg_power (d : Dev) (r : Reg) (i v j : Nat) : (d.setReg r i v j).power = d.power := (rfl)
@[simp] theorem Dev.setReg_sec (d : Dev) (r : Reg) (i v j : Nat) : (d.setReg r i v j).sec = d.sec := (rfl)
@[simp] theorem Dev.setReg_spdm (d : Dev) (r : Reg) (i v j : Nat) : (d.setReg r i v j).spdm = d.spdm := (rfl)
@[simp] theorem Dev.setReg_tests (d : Dev) (r : Reg) (i v j : Nat) : (d.setReg r i v j).tests = d.tests := (rfl)
@[simp] theorem Dev.setReg_shares (d : Dev) (r : Reg) (i v j : Nat) : (d.setReg r i v j).shares = d.shares := (rfl)
@[simp] theorem Dev.setReg_cutEdges (d : Dev) (r : Reg) (i v j : Nat) : (d.setReg r i v j).cutEdges = d.cutEdges := (rfl)
@[simp] theorem Dev.setReg_sends (d : Dev) (r : Reg) (i v j : Nat) : (d.setReg r i v j).sends = d.sends := (rfl)
@[simp] theorem Dev.setReg_treeEdges (d : Dev) (r : Reg) (i v j : Nat) : (d.setReg r i v j).treeEdges = d.treeEdges := (rfl)
@[simp] theorem Dev.setReg_mailboxCmd (d : Dev) (r : Reg) (i v j : Nat) : (d.setReg r i v j).mailboxCmd = d.mailboxCmd := (rfl)
@[simp] theorem Dev.setReg_linkStarted (d : Dev) (r : Reg) (i v j : Nat) : (d.setReg r i v j).linkStarted = d.linkStarted := (rfl)
@[simp] theorem Dev.setReg_msix (d : Dev) (r : Reg) (i v j : Nat) : (d.setReg r i v j).msix = d.msix := (rfl)

@[simp] theorem Dev.put_cfg (d : Dev) (f : Fld) (i v j : Nat) : (d.put f i v j).cfg = d.cfg := (rfl)
@[simp] theorem Dev.put_freeIdx (d : Dev) (f : Fld) (i v j : Nat) : (d.put f i v j).freeIdx = d.freeIdx := (rfl)
@[simp] theorem Dev.put_cycles (d : Dev) (f : Fld) (i v j : Nat) : (d.put f i v j).cycles = d.cycles := (rfl)
@[simp] theorem Dev.put_banks (d : Dev) (f : Fld) (i v j : Nat) : (d.put f i v j).banks = d.banks := (rfl)
@[simp] theorem Dev.put_out (d : Dev) (f : Fld) (i v j : Nat) : (d.put f i v j).out = d.out := (rfl)
@[simp] theorem Dev.put_mem (d : Dev) (f : Fld) (i v j : Nat) : (d.put f i v j).mem = d.mem := (rfl)
@[simp] theorem Dev.put_ctxs (d : Dev) (f : Fld) (i v j : Nat) : (d.put f i v j).ctxs = d.ctxs := (rfl)
@[simp] theorem Dev.put_cores (d : Dev) (f : Fld) (i v j : Nat) : (d.put f i v j).cores = d.cores := (rfl)
@[simp] theorem Dev.put_queues (d : Dev) (f : Fld) (i v j : Nat) : (d.put f i v j).queues = d.queues := (rfl)
@[simp] theorem Dev.put_rings (d : Dev) (f : Fld) (i v j : Nat) : (d.put f i v j).rings = d.rings := (rfl)
@[simp] theorem Dev.put_sets (d : Dev) (f : Fld) (i v j : Nat) : (d.put f i v j).sets = d.sets := (rfl)
@[simp] theorem Dev.put_groups (d : Dev) (f : Fld) (i v j : Nat) : (d.put f i v j).groups = d.groups := (rfl)
@[simp] theorem Dev.put_ports (d : Dev) (f : Fld) (i v j : Nat) : (d.put f i v j).ports = d.ports := (rfl)
@[simp] theorem Dev.put_units (d : Dev) (f : Fld) (i v j : Nat) : (d.put f i v j).units = d.units := (rfl)
@[simp] theorem Dev.put_time (d : Dev) (f : Fld) (i v j : Nat) : (d.put f i v j).time = d.time := (rfl)
@[simp] theorem Dev.put_power (d : Dev) (f : Fld) (i v j : Nat) : (d.put f i v j).power = d.power := (rfl)
@[simp] theorem Dev.put_sec (d : Dev) (f : Fld) (i v j : Nat) : (d.put f i v j).sec = d.sec := (rfl)
@[simp] theorem Dev.put_spdm (d : Dev) (f : Fld) (i v j : Nat) : (d.put f i v j).spdm = d.spdm := (rfl)
@[simp] theorem Dev.put_tests (d : Dev) (f : Fld) (i v j : Nat) : (d.put f i v j).tests = d.tests := (rfl)
@[simp] theorem Dev.put_shares (d : Dev) (f : Fld) (i v j : Nat) : (d.put f i v j).shares = d.shares := (rfl)
@[simp] theorem Dev.put_cutEdges (d : Dev) (f : Fld) (i v j : Nat) : (d.put f i v j).cutEdges = d.cutEdges := (rfl)
@[simp] theorem Dev.put_sends (d : Dev) (f : Fld) (i v j : Nat) : (d.put f i v j).sends = d.sends := (rfl)
@[simp] theorem Dev.put_treeEdges (d : Dev) (f : Fld) (i v j : Nat) : (d.put f i v j).treeEdges = d.treeEdges := (rfl)
@[simp] theorem Dev.put_mailboxCmd (d : Dev) (f : Fld) (i v j : Nat) : (d.put f i v j).mailboxCmd = d.mailboxCmd := (rfl)
@[simp] theorem Dev.put_linkStarted (d : Dev) (f : Fld) (i v j : Nat) : (d.put f i v j).linkStarted = d.linkStarted := (rfl)
@[simp] theorem Dev.put_msix (d : Dev) (f : Fld) (i v j : Nat) : (d.put f i v j).msix = d.msix := (rfl)

@[simp] theorem Dev.setCtx_cfg (d : Dev) (c : Nat) (x : Ctx) : (d.setCtx c x).cfg = d.cfg := (rfl)
@[simp] theorem Dev.setCtx_regs (d : Dev) (c : Nat) (x : Ctx) : (d.setCtx c x).regs = d.regs := (rfl)
@[simp] theorem Dev.setCtx_freeIdx (d : Dev) (c : Nat) (x : Ctx) : (d.setCtx c x).freeIdx = d.freeIdx := (rfl)
@[simp] theorem Dev.setCtx_cycles (d : Dev) (c : Nat) (x : Ctx) : (d.setCtx c x).cycles = d.cycles := (rfl)
@[simp] theorem Dev.setCtx_banks (d : Dev) (c : Nat) (x : Ctx) : (d.setCtx c x).banks = d.banks := (rfl)
@[simp] theorem Dev.setCtx_out (d : Dev) (c : Nat) (x : Ctx) : (d.setCtx c x).out = d.out := (rfl)
@[simp] theorem Dev.setCtx_mem (d : Dev) (c : Nat) (x : Ctx) : (d.setCtx c x).mem = d.mem := (rfl)
@[simp] theorem Dev.setCtx_cores (d : Dev) (c : Nat) (x : Ctx) : (d.setCtx c x).cores = d.cores := (rfl)
@[simp] theorem Dev.setCtx_queues (d : Dev) (c : Nat) (x : Ctx) : (d.setCtx c x).queues = d.queues := (rfl)
@[simp] theorem Dev.setCtx_rings (d : Dev) (c : Nat) (x : Ctx) : (d.setCtx c x).rings = d.rings := (rfl)
@[simp] theorem Dev.setCtx_sets (d : Dev) (c : Nat) (x : Ctx) : (d.setCtx c x).sets = d.sets := (rfl)
@[simp] theorem Dev.setCtx_groups (d : Dev) (c : Nat) (x : Ctx) : (d.setCtx c x).groups = d.groups := (rfl)
@[simp] theorem Dev.setCtx_ports (d : Dev) (c : Nat) (x : Ctx) : (d.setCtx c x).ports = d.ports := (rfl)
@[simp] theorem Dev.setCtx_units (d : Dev) (c : Nat) (x : Ctx) : (d.setCtx c x).units = d.units := (rfl)
@[simp] theorem Dev.setCtx_time (d : Dev) (c : Nat) (x : Ctx) : (d.setCtx c x).time = d.time := (rfl)
@[simp] theorem Dev.setCtx_power (d : Dev) (c : Nat) (x : Ctx) : (d.setCtx c x).power = d.power := (rfl)
@[simp] theorem Dev.setCtx_sec (d : Dev) (c : Nat) (x : Ctx) : (d.setCtx c x).sec = d.sec := (rfl)
@[simp] theorem Dev.setCtx_spdm (d : Dev) (c : Nat) (x : Ctx) : (d.setCtx c x).spdm = d.spdm := (rfl)
@[simp] theorem Dev.setCtx_tests (d : Dev) (c : Nat) (x : Ctx) : (d.setCtx c x).tests = d.tests := (rfl)
@[simp] theorem Dev.setCtx_shares (d : Dev) (c : Nat) (x : Ctx) : (d.setCtx c x).shares = d.shares := (rfl)
@[simp] theorem Dev.setCtx_cutEdges (d : Dev) (c : Nat) (x : Ctx) : (d.setCtx c x).cutEdges = d.cutEdges := (rfl)
@[simp] theorem Dev.setCtx_sends (d : Dev) (c : Nat) (x : Ctx) : (d.setCtx c x).sends = d.sends := (rfl)
@[simp] theorem Dev.setCtx_treeEdges (d : Dev) (c : Nat) (x : Ctx) : (d.setCtx c x).treeEdges = d.treeEdges := (rfl)
@[simp] theorem Dev.setCtx_mailboxCmd (d : Dev) (c : Nat) (x : Ctx) : (d.setCtx c x).mailboxCmd = d.mailboxCmd := (rfl)
@[simp] theorem Dev.setCtx_linkStarted (d : Dev) (c : Nat) (x : Ctx) : (d.setCtx c x).linkStarted = d.linkStarted := (rfl)
@[simp] theorem Dev.setCtx_msix (d : Dev) (c : Nat) (x : Ctx) : (d.setCtx c x).msix = d.msix := (rfl)

@[simp] theorem Dev.setCore_cfg (d : Dev) (k : Nat) (x : Core) : (d.setCore k x).cfg = d.cfg := (rfl)
@[simp] theorem Dev.setCore_regs (d : Dev) (k : Nat) (x : Core) : (d.setCore k x).regs = d.regs := (rfl)
@[simp] theorem Dev.setCore_freeIdx (d : Dev) (k : Nat) (x : Core) : (d.setCore k x).freeIdx = d.freeIdx := (rfl)
@[simp] theorem Dev.setCore_cycles (d : Dev) (k : Nat) (x : Core) : (d.setCore k x).cycles = d.cycles := (rfl)
@[simp] theorem Dev.setCore_banks (d : Dev) (k : Nat) (x : Core) : (d.setCore k x).banks = d.banks := (rfl)
@[simp] theorem Dev.setCore_out (d : Dev) (k : Nat) (x : Core) : (d.setCore k x).out = d.out := (rfl)
@[simp] theorem Dev.setCore_mem (d : Dev) (k : Nat) (x : Core) : (d.setCore k x).mem = d.mem := (rfl)
@[simp] theorem Dev.setCore_ctxs (d : Dev) (k : Nat) (x : Core) : (d.setCore k x).ctxs = d.ctxs := (rfl)
@[simp] theorem Dev.setCore_queues (d : Dev) (k : Nat) (x : Core) : (d.setCore k x).queues = d.queues := (rfl)
@[simp] theorem Dev.setCore_rings (d : Dev) (k : Nat) (x : Core) : (d.setCore k x).rings = d.rings := (rfl)
@[simp] theorem Dev.setCore_sets (d : Dev) (k : Nat) (x : Core) : (d.setCore k x).sets = d.sets := (rfl)
@[simp] theorem Dev.setCore_groups (d : Dev) (k : Nat) (x : Core) : (d.setCore k x).groups = d.groups := (rfl)
@[simp] theorem Dev.setCore_ports (d : Dev) (k : Nat) (x : Core) : (d.setCore k x).ports = d.ports := (rfl)
@[simp] theorem Dev.setCore_units (d : Dev) (k : Nat) (x : Core) : (d.setCore k x).units = d.units := (rfl)
@[simp] theorem Dev.setCore_time (d : Dev) (k : Nat) (x : Core) : (d.setCore k x).time = d.time := (rfl)
@[simp] theorem Dev.setCore_power (d : Dev) (k : Nat) (x : Core) : (d.setCore k x).power = d.power := (rfl)
@[simp] theorem Dev.setCore_sec (d : Dev) (k : Nat) (x : Core) : (d.setCore k x).sec = d.sec := (rfl)
@[simp] theorem Dev.setCore_spdm (d : Dev) (k : Nat) (x : Core) : (d.setCore k x).spdm = d.spdm := (rfl)
@[simp] theorem Dev.setCore_tests (d : Dev) (k : Nat) (x : Core) : (d.setCore k x).tests = d.tests := (rfl)
@[simp] theorem Dev.setCore_shares (d : Dev) (k : Nat) (x : Core) : (d.setCore k x).shares = d.shares := (rfl)
@[simp] theorem Dev.setCore_cutEdges (d : Dev) (k : Nat) (x : Core) : (d.setCore k x).cutEdges = d.cutEdges := (rfl)
@[simp] theorem Dev.setCore_sends (d : Dev) (k : Nat) (x : Core) : (d.setCore k x).sends = d.sends := (rfl)
@[simp] theorem Dev.setCore_treeEdges (d : Dev) (k : Nat) (x : Core) : (d.setCore k x).treeEdges = d.treeEdges := (rfl)
@[simp] theorem Dev.setCore_mailboxCmd (d : Dev) (k : Nat) (x : Core) : (d.setCore k x).mailboxCmd = d.mailboxCmd := (rfl)
@[simp] theorem Dev.setCore_linkStarted (d : Dev) (k : Nat) (x : Core) : (d.setCore k x).linkStarted = d.linkStarted := (rfl)
@[simp] theorem Dev.setCore_msix (d : Dev) (k : Nat) (x : Core) : (d.setCore k x).msix = d.msix := (rfl)

@[simp] theorem Dev.setQueue_cfg (d : Dev) (q : Nat) (x : Queue) : (d.setQueue q x).cfg = d.cfg := (rfl)
@[simp] theorem Dev.setQueue_regs (d : Dev) (q : Nat) (x : Queue) : (d.setQueue q x).regs = d.regs := (rfl)
@[simp] theorem Dev.setQueue_freeIdx (d : Dev) (q : Nat) (x : Queue) : (d.setQueue q x).freeIdx = d.freeIdx := (rfl)
@[simp] theorem Dev.setQueue_cycles (d : Dev) (q : Nat) (x : Queue) : (d.setQueue q x).cycles = d.cycles := (rfl)
@[simp] theorem Dev.setQueue_banks (d : Dev) (q : Nat) (x : Queue) : (d.setQueue q x).banks = d.banks := (rfl)
@[simp] theorem Dev.setQueue_out (d : Dev) (q : Nat) (x : Queue) : (d.setQueue q x).out = d.out := (rfl)
@[simp] theorem Dev.setQueue_mem (d : Dev) (q : Nat) (x : Queue) : (d.setQueue q x).mem = d.mem := (rfl)
@[simp] theorem Dev.setQueue_ctxs (d : Dev) (q : Nat) (x : Queue) : (d.setQueue q x).ctxs = d.ctxs := (rfl)
@[simp] theorem Dev.setQueue_cores (d : Dev) (q : Nat) (x : Queue) : (d.setQueue q x).cores = d.cores := (rfl)
@[simp] theorem Dev.setQueue_rings (d : Dev) (q : Nat) (x : Queue) : (d.setQueue q x).rings = d.rings := (rfl)
@[simp] theorem Dev.setQueue_sets (d : Dev) (q : Nat) (x : Queue) : (d.setQueue q x).sets = d.sets := (rfl)
@[simp] theorem Dev.setQueue_groups (d : Dev) (q : Nat) (x : Queue) : (d.setQueue q x).groups = d.groups := (rfl)
@[simp] theorem Dev.setQueue_ports (d : Dev) (q : Nat) (x : Queue) : (d.setQueue q x).ports = d.ports := (rfl)
@[simp] theorem Dev.setQueue_units (d : Dev) (q : Nat) (x : Queue) : (d.setQueue q x).units = d.units := (rfl)
@[simp] theorem Dev.setQueue_time (d : Dev) (q : Nat) (x : Queue) : (d.setQueue q x).time = d.time := (rfl)
@[simp] theorem Dev.setQueue_power (d : Dev) (q : Nat) (x : Queue) : (d.setQueue q x).power = d.power := (rfl)
@[simp] theorem Dev.setQueue_sec (d : Dev) (q : Nat) (x : Queue) : (d.setQueue q x).sec = d.sec := (rfl)
@[simp] theorem Dev.setQueue_spdm (d : Dev) (q : Nat) (x : Queue) : (d.setQueue q x).spdm = d.spdm := (rfl)
@[simp] theorem Dev.setQueue_tests (d : Dev) (q : Nat) (x : Queue) : (d.setQueue q x).tests = d.tests := (rfl)
@[simp] theorem Dev.setQueue_shares (d : Dev) (q : Nat) (x : Queue) : (d.setQueue q x).shares = d.shares := (rfl)
@[simp] theorem Dev.setQueue_cutEdges (d : Dev) (q : Nat) (x : Queue) : (d.setQueue q x).cutEdges = d.cutEdges := (rfl)
@[simp] theorem Dev.setQueue_sends (d : Dev) (q : Nat) (x : Queue) : (d.setQueue q x).sends = d.sends := (rfl)
@[simp] theorem Dev.setQueue_treeEdges (d : Dev) (q : Nat) (x : Queue) : (d.setQueue q x).treeEdges = d.treeEdges := (rfl)
@[simp] theorem Dev.setQueue_mailboxCmd (d : Dev) (q : Nat) (x : Queue) : (d.setQueue q x).mailboxCmd = d.mailboxCmd := (rfl)
@[simp] theorem Dev.setQueue_linkStarted (d : Dev) (q : Nat) (x : Queue) : (d.setQueue q x).linkStarted = d.linkStarted := (rfl)
@[simp] theorem Dev.setQueue_msix (d : Dev) (q : Nat) (x : Queue) : (d.setQueue q x).msix = d.msix := (rfl)

@[simp] theorem Dev.setRing_cfg (d : Dev) (r : Nat) (x : Ring) : (d.setRing r x).cfg = d.cfg := (rfl)
@[simp] theorem Dev.setRing_regs (d : Dev) (r : Nat) (x : Ring) : (d.setRing r x).regs = d.regs := (rfl)
@[simp] theorem Dev.setRing_freeIdx (d : Dev) (r : Nat) (x : Ring) : (d.setRing r x).freeIdx = d.freeIdx := (rfl)
@[simp] theorem Dev.setRing_cycles (d : Dev) (r : Nat) (x : Ring) : (d.setRing r x).cycles = d.cycles := (rfl)
@[simp] theorem Dev.setRing_banks (d : Dev) (r : Nat) (x : Ring) : (d.setRing r x).banks = d.banks := (rfl)
@[simp] theorem Dev.setRing_out (d : Dev) (r : Nat) (x : Ring) : (d.setRing r x).out = d.out := (rfl)
@[simp] theorem Dev.setRing_mem (d : Dev) (r : Nat) (x : Ring) : (d.setRing r x).mem = d.mem := (rfl)
@[simp] theorem Dev.setRing_ctxs (d : Dev) (r : Nat) (x : Ring) : (d.setRing r x).ctxs = d.ctxs := (rfl)
@[simp] theorem Dev.setRing_cores (d : Dev) (r : Nat) (x : Ring) : (d.setRing r x).cores = d.cores := (rfl)
@[simp] theorem Dev.setRing_queues (d : Dev) (r : Nat) (x : Ring) : (d.setRing r x).queues = d.queues := (rfl)
@[simp] theorem Dev.setRing_sets (d : Dev) (r : Nat) (x : Ring) : (d.setRing r x).sets = d.sets := (rfl)
@[simp] theorem Dev.setRing_groups (d : Dev) (r : Nat) (x : Ring) : (d.setRing r x).groups = d.groups := (rfl)
@[simp] theorem Dev.setRing_ports (d : Dev) (r : Nat) (x : Ring) : (d.setRing r x).ports = d.ports := (rfl)
@[simp] theorem Dev.setRing_units (d : Dev) (r : Nat) (x : Ring) : (d.setRing r x).units = d.units := (rfl)
@[simp] theorem Dev.setRing_time (d : Dev) (r : Nat) (x : Ring) : (d.setRing r x).time = d.time := (rfl)
@[simp] theorem Dev.setRing_power (d : Dev) (r : Nat) (x : Ring) : (d.setRing r x).power = d.power := (rfl)
@[simp] theorem Dev.setRing_sec (d : Dev) (r : Nat) (x : Ring) : (d.setRing r x).sec = d.sec := (rfl)
@[simp] theorem Dev.setRing_spdm (d : Dev) (r : Nat) (x : Ring) : (d.setRing r x).spdm = d.spdm := (rfl)
@[simp] theorem Dev.setRing_tests (d : Dev) (r : Nat) (x : Ring) : (d.setRing r x).tests = d.tests := (rfl)
@[simp] theorem Dev.setRing_shares (d : Dev) (r : Nat) (x : Ring) : (d.setRing r x).shares = d.shares := (rfl)
@[simp] theorem Dev.setRing_cutEdges (d : Dev) (r : Nat) (x : Ring) : (d.setRing r x).cutEdges = d.cutEdges := (rfl)
@[simp] theorem Dev.setRing_sends (d : Dev) (r : Nat) (x : Ring) : (d.setRing r x).sends = d.sends := (rfl)
@[simp] theorem Dev.setRing_treeEdges (d : Dev) (r : Nat) (x : Ring) : (d.setRing r x).treeEdges = d.treeEdges := (rfl)
@[simp] theorem Dev.setRing_mailboxCmd (d : Dev) (r : Nat) (x : Ring) : (d.setRing r x).mailboxCmd = d.mailboxCmd := (rfl)
@[simp] theorem Dev.setRing_linkStarted (d : Dev) (r : Nat) (x : Ring) : (d.setRing r x).linkStarted = d.linkStarted := (rfl)
@[simp] theorem Dev.setRing_msix (d : Dev) (r : Nat) (x : Ring) : (d.setRing r x).msix = d.msix := (rfl)

@[simp] theorem Dev.setWset_cfg (d : Dev) (w : Nat) (x : WSet) : (d.setWset w x).cfg = d.cfg := (rfl)
@[simp] theorem Dev.setWset_regs (d : Dev) (w : Nat) (x : WSet) : (d.setWset w x).regs = d.regs := (rfl)
@[simp] theorem Dev.setWset_freeIdx (d : Dev) (w : Nat) (x : WSet) : (d.setWset w x).freeIdx = d.freeIdx := (rfl)
@[simp] theorem Dev.setWset_cycles (d : Dev) (w : Nat) (x : WSet) : (d.setWset w x).cycles = d.cycles := (rfl)
@[simp] theorem Dev.setWset_banks (d : Dev) (w : Nat) (x : WSet) : (d.setWset w x).banks = d.banks := (rfl)
@[simp] theorem Dev.setWset_out (d : Dev) (w : Nat) (x : WSet) : (d.setWset w x).out = d.out := (rfl)
@[simp] theorem Dev.setWset_mem (d : Dev) (w : Nat) (x : WSet) : (d.setWset w x).mem = d.mem := (rfl)
@[simp] theorem Dev.setWset_ctxs (d : Dev) (w : Nat) (x : WSet) : (d.setWset w x).ctxs = d.ctxs := (rfl)
@[simp] theorem Dev.setWset_cores (d : Dev) (w : Nat) (x : WSet) : (d.setWset w x).cores = d.cores := (rfl)
@[simp] theorem Dev.setWset_queues (d : Dev) (w : Nat) (x : WSet) : (d.setWset w x).queues = d.queues := (rfl)
@[simp] theorem Dev.setWset_rings (d : Dev) (w : Nat) (x : WSet) : (d.setWset w x).rings = d.rings := (rfl)
@[simp] theorem Dev.setWset_groups (d : Dev) (w : Nat) (x : WSet) : (d.setWset w x).groups = d.groups := (rfl)
@[simp] theorem Dev.setWset_ports (d : Dev) (w : Nat) (x : WSet) : (d.setWset w x).ports = d.ports := (rfl)
@[simp] theorem Dev.setWset_units (d : Dev) (w : Nat) (x : WSet) : (d.setWset w x).units = d.units := (rfl)
@[simp] theorem Dev.setWset_time (d : Dev) (w : Nat) (x : WSet) : (d.setWset w x).time = d.time := (rfl)
@[simp] theorem Dev.setWset_power (d : Dev) (w : Nat) (x : WSet) : (d.setWset w x).power = d.power := (rfl)
@[simp] theorem Dev.setWset_sec (d : Dev) (w : Nat) (x : WSet) : (d.setWset w x).sec = d.sec := (rfl)
@[simp] theorem Dev.setWset_spdm (d : Dev) (w : Nat) (x : WSet) : (d.setWset w x).spdm = d.spdm := (rfl)
@[simp] theorem Dev.setWset_tests (d : Dev) (w : Nat) (x : WSet) : (d.setWset w x).tests = d.tests := (rfl)
@[simp] theorem Dev.setWset_shares (d : Dev) (w : Nat) (x : WSet) : (d.setWset w x).shares = d.shares := (rfl)
@[simp] theorem Dev.setWset_cutEdges (d : Dev) (w : Nat) (x : WSet) : (d.setWset w x).cutEdges = d.cutEdges := (rfl)
@[simp] theorem Dev.setWset_sends (d : Dev) (w : Nat) (x : WSet) : (d.setWset w x).sends = d.sends := (rfl)
@[simp] theorem Dev.setWset_treeEdges (d : Dev) (w : Nat) (x : WSet) : (d.setWset w x).treeEdges = d.treeEdges := (rfl)
@[simp] theorem Dev.setWset_mailboxCmd (d : Dev) (w : Nat) (x : WSet) : (d.setWset w x).mailboxCmd = d.mailboxCmd := (rfl)
@[simp] theorem Dev.setWset_linkStarted (d : Dev) (w : Nat) (x : WSet) : (d.setWset w x).linkStarted = d.linkStarted := (rfl)
@[simp] theorem Dev.setWset_msix (d : Dev) (w : Nat) (x : WSet) : (d.setWset w x).msix = d.msix := (rfl)

@[simp] theorem Dev.setGroup_cfg (d : Dev) (g : Nat) (x : Group) : (d.setGroup g x).cfg = d.cfg := (rfl)
@[simp] theorem Dev.setGroup_regs (d : Dev) (g : Nat) (x : Group) : (d.setGroup g x).regs = d.regs := (rfl)
@[simp] theorem Dev.setGroup_freeIdx (d : Dev) (g : Nat) (x : Group) : (d.setGroup g x).freeIdx = d.freeIdx := (rfl)
@[simp] theorem Dev.setGroup_cycles (d : Dev) (g : Nat) (x : Group) : (d.setGroup g x).cycles = d.cycles := (rfl)
@[simp] theorem Dev.setGroup_banks (d : Dev) (g : Nat) (x : Group) : (d.setGroup g x).banks = d.banks := (rfl)
@[simp] theorem Dev.setGroup_out (d : Dev) (g : Nat) (x : Group) : (d.setGroup g x).out = d.out := (rfl)
@[simp] theorem Dev.setGroup_mem (d : Dev) (g : Nat) (x : Group) : (d.setGroup g x).mem = d.mem := (rfl)
@[simp] theorem Dev.setGroup_ctxs (d : Dev) (g : Nat) (x : Group) : (d.setGroup g x).ctxs = d.ctxs := (rfl)
@[simp] theorem Dev.setGroup_cores (d : Dev) (g : Nat) (x : Group) : (d.setGroup g x).cores = d.cores := (rfl)
@[simp] theorem Dev.setGroup_queues (d : Dev) (g : Nat) (x : Group) : (d.setGroup g x).queues = d.queues := (rfl)
@[simp] theorem Dev.setGroup_rings (d : Dev) (g : Nat) (x : Group) : (d.setGroup g x).rings = d.rings := (rfl)
@[simp] theorem Dev.setGroup_sets (d : Dev) (g : Nat) (x : Group) : (d.setGroup g x).sets = d.sets := (rfl)
@[simp] theorem Dev.setGroup_ports (d : Dev) (g : Nat) (x : Group) : (d.setGroup g x).ports = d.ports := (rfl)
@[simp] theorem Dev.setGroup_units (d : Dev) (g : Nat) (x : Group) : (d.setGroup g x).units = d.units := (rfl)
@[simp] theorem Dev.setGroup_time (d : Dev) (g : Nat) (x : Group) : (d.setGroup g x).time = d.time := (rfl)
@[simp] theorem Dev.setGroup_power (d : Dev) (g : Nat) (x : Group) : (d.setGroup g x).power = d.power := (rfl)
@[simp] theorem Dev.setGroup_sec (d : Dev) (g : Nat) (x : Group) : (d.setGroup g x).sec = d.sec := (rfl)
@[simp] theorem Dev.setGroup_spdm (d : Dev) (g : Nat) (x : Group) : (d.setGroup g x).spdm = d.spdm := (rfl)
@[simp] theorem Dev.setGroup_tests (d : Dev) (g : Nat) (x : Group) : (d.setGroup g x).tests = d.tests := (rfl)
@[simp] theorem Dev.setGroup_shares (d : Dev) (g : Nat) (x : Group) : (d.setGroup g x).shares = d.shares := (rfl)
@[simp] theorem Dev.setGroup_cutEdges (d : Dev) (g : Nat) (x : Group) : (d.setGroup g x).cutEdges = d.cutEdges := (rfl)
@[simp] theorem Dev.setGroup_sends (d : Dev) (g : Nat) (x : Group) : (d.setGroup g x).sends = d.sends := (rfl)
@[simp] theorem Dev.setGroup_treeEdges (d : Dev) (g : Nat) (x : Group) : (d.setGroup g x).treeEdges = d.treeEdges := (rfl)
@[simp] theorem Dev.setGroup_mailboxCmd (d : Dev) (g : Nat) (x : Group) : (d.setGroup g x).mailboxCmd = d.mailboxCmd := (rfl)
@[simp] theorem Dev.setGroup_linkStarted (d : Dev) (g : Nat) (x : Group) : (d.setGroup g x).linkStarted = d.linkStarted := (rfl)
@[simp] theorem Dev.setGroup_msix (d : Dev) (g : Nat) (x : Group) : (d.setGroup g x).msix = d.msix := (rfl)

@[simp] theorem Dev.setPort_cfg (d : Dev) (p : Nat) (x : Port) : (d.setPort p x).cfg = d.cfg := (rfl)
@[simp] theorem Dev.setPort_regs (d : Dev) (p : Nat) (x : Port) : (d.setPort p x).regs = d.regs := (rfl)
@[simp] theorem Dev.setPort_freeIdx (d : Dev) (p : Nat) (x : Port) : (d.setPort p x).freeIdx = d.freeIdx := (rfl)
@[simp] theorem Dev.setPort_cycles (d : Dev) (p : Nat) (x : Port) : (d.setPort p x).cycles = d.cycles := (rfl)
@[simp] theorem Dev.setPort_banks (d : Dev) (p : Nat) (x : Port) : (d.setPort p x).banks = d.banks := (rfl)
@[simp] theorem Dev.setPort_out (d : Dev) (p : Nat) (x : Port) : (d.setPort p x).out = d.out := (rfl)
@[simp] theorem Dev.setPort_mem (d : Dev) (p : Nat) (x : Port) : (d.setPort p x).mem = d.mem := (rfl)
@[simp] theorem Dev.setPort_ctxs (d : Dev) (p : Nat) (x : Port) : (d.setPort p x).ctxs = d.ctxs := (rfl)
@[simp] theorem Dev.setPort_cores (d : Dev) (p : Nat) (x : Port) : (d.setPort p x).cores = d.cores := (rfl)
@[simp] theorem Dev.setPort_queues (d : Dev) (p : Nat) (x : Port) : (d.setPort p x).queues = d.queues := (rfl)
@[simp] theorem Dev.setPort_rings (d : Dev) (p : Nat) (x : Port) : (d.setPort p x).rings = d.rings := (rfl)
@[simp] theorem Dev.setPort_sets (d : Dev) (p : Nat) (x : Port) : (d.setPort p x).sets = d.sets := (rfl)
@[simp] theorem Dev.setPort_groups (d : Dev) (p : Nat) (x : Port) : (d.setPort p x).groups = d.groups := (rfl)
@[simp] theorem Dev.setPort_units (d : Dev) (p : Nat) (x : Port) : (d.setPort p x).units = d.units := (rfl)
@[simp] theorem Dev.setPort_time (d : Dev) (p : Nat) (x : Port) : (d.setPort p x).time = d.time := (rfl)
@[simp] theorem Dev.setPort_power (d : Dev) (p : Nat) (x : Port) : (d.setPort p x).power = d.power := (rfl)
@[simp] theorem Dev.setPort_sec (d : Dev) (p : Nat) (x : Port) : (d.setPort p x).sec = d.sec := (rfl)
@[simp] theorem Dev.setPort_spdm (d : Dev) (p : Nat) (x : Port) : (d.setPort p x).spdm = d.spdm := (rfl)
@[simp] theorem Dev.setPort_tests (d : Dev) (p : Nat) (x : Port) : (d.setPort p x).tests = d.tests := (rfl)
@[simp] theorem Dev.setPort_shares (d : Dev) (p : Nat) (x : Port) : (d.setPort p x).shares = d.shares := (rfl)
@[simp] theorem Dev.setPort_cutEdges (d : Dev) (p : Nat) (x : Port) : (d.setPort p x).cutEdges = d.cutEdges := (rfl)
@[simp] theorem Dev.setPort_sends (d : Dev) (p : Nat) (x : Port) : (d.setPort p x).sends = d.sends := (rfl)
@[simp] theorem Dev.setPort_treeEdges (d : Dev) (p : Nat) (x : Port) : (d.setPort p x).treeEdges = d.treeEdges := (rfl)
@[simp] theorem Dev.setPort_mailboxCmd (d : Dev) (p : Nat) (x : Port) : (d.setPort p x).mailboxCmd = d.mailboxCmd := (rfl)
@[simp] theorem Dev.setPort_linkStarted (d : Dev) (p : Nat) (x : Port) : (d.setPort p x).linkStarted = d.linkStarted := (rfl)
@[simp] theorem Dev.setPort_msix (d : Dev) (p : Nat) (x : Port) : (d.setPort p x).msix = d.msix := (rfl)

@[simp] theorem Dev.setUnit_cfg (d : Dev) (u : Nat) (x : UnitSt) : (d.setUnit u x).cfg = d.cfg := (rfl)
@[simp] theorem Dev.setUnit_regs (d : Dev) (u : Nat) (x : UnitSt) : (d.setUnit u x).regs = d.regs := (rfl)
@[simp] theorem Dev.setUnit_freeIdx (d : Dev) (u : Nat) (x : UnitSt) : (d.setUnit u x).freeIdx = d.freeIdx := (rfl)
@[simp] theorem Dev.setUnit_cycles (d : Dev) (u : Nat) (x : UnitSt) : (d.setUnit u x).cycles = d.cycles := (rfl)
@[simp] theorem Dev.setUnit_banks (d : Dev) (u : Nat) (x : UnitSt) : (d.setUnit u x).banks = d.banks := (rfl)
@[simp] theorem Dev.setUnit_out (d : Dev) (u : Nat) (x : UnitSt) : (d.setUnit u x).out = d.out := (rfl)
@[simp] theorem Dev.setUnit_mem (d : Dev) (u : Nat) (x : UnitSt) : (d.setUnit u x).mem = d.mem := (rfl)
@[simp] theorem Dev.setUnit_ctxs (d : Dev) (u : Nat) (x : UnitSt) : (d.setUnit u x).ctxs = d.ctxs := (rfl)
@[simp] theorem Dev.setUnit_cores (d : Dev) (u : Nat) (x : UnitSt) : (d.setUnit u x).cores = d.cores := (rfl)
@[simp] theorem Dev.setUnit_queues (d : Dev) (u : Nat) (x : UnitSt) : (d.setUnit u x).queues = d.queues := (rfl)
@[simp] theorem Dev.setUnit_rings (d : Dev) (u : Nat) (x : UnitSt) : (d.setUnit u x).rings = d.rings := (rfl)
@[simp] theorem Dev.setUnit_sets (d : Dev) (u : Nat) (x : UnitSt) : (d.setUnit u x).sets = d.sets := (rfl)
@[simp] theorem Dev.setUnit_groups (d : Dev) (u : Nat) (x : UnitSt) : (d.setUnit u x).groups = d.groups := (rfl)
@[simp] theorem Dev.setUnit_ports (d : Dev) (u : Nat) (x : UnitSt) : (d.setUnit u x).ports = d.ports := (rfl)
@[simp] theorem Dev.setUnit_time (d : Dev) (u : Nat) (x : UnitSt) : (d.setUnit u x).time = d.time := (rfl)
@[simp] theorem Dev.setUnit_power (d : Dev) (u : Nat) (x : UnitSt) : (d.setUnit u x).power = d.power := (rfl)
@[simp] theorem Dev.setUnit_sec (d : Dev) (u : Nat) (x : UnitSt) : (d.setUnit u x).sec = d.sec := (rfl)
@[simp] theorem Dev.setUnit_spdm (d : Dev) (u : Nat) (x : UnitSt) : (d.setUnit u x).spdm = d.spdm := (rfl)
@[simp] theorem Dev.setUnit_tests (d : Dev) (u : Nat) (x : UnitSt) : (d.setUnit u x).tests = d.tests := (rfl)
@[simp] theorem Dev.setUnit_shares (d : Dev) (u : Nat) (x : UnitSt) : (d.setUnit u x).shares = d.shares := (rfl)
@[simp] theorem Dev.setUnit_cutEdges (d : Dev) (u : Nat) (x : UnitSt) : (d.setUnit u x).cutEdges = d.cutEdges := (rfl)
@[simp] theorem Dev.setUnit_sends (d : Dev) (u : Nat) (x : UnitSt) : (d.setUnit u x).sends = d.sends := (rfl)
@[simp] theorem Dev.setUnit_treeEdges (d : Dev) (u : Nat) (x : UnitSt) : (d.setUnit u x).treeEdges = d.treeEdges := (rfl)
@[simp] theorem Dev.setUnit_mailboxCmd (d : Dev) (u : Nat) (x : UnitSt) : (d.setUnit u x).mailboxCmd = d.mailboxCmd := (rfl)
@[simp] theorem Dev.setUnit_linkStarted (d : Dev) (u : Nat) (x : UnitSt) : (d.setUnit u x).linkStarted = d.linkStarted := (rfl)
@[simp] theorem Dev.setUnit_msix (d : Dev) (u : Nat) (x : UnitSt) : (d.setUnit u x).msix = d.msix := (rfl)

@[simp] theorem Dev.modCtx_cfg (d : Dev) (c : Nat) (f : Ctx → Ctx) : (d.modCtx c f).cfg = d.cfg := (rfl)
@[simp] theorem Dev.modCtx_regs (d : Dev) (c : Nat) (f : Ctx → Ctx) : (d.modCtx c f).regs = d.regs := (rfl)
@[simp] theorem Dev.modCtx_freeIdx (d : Dev) (c : Nat) (f : Ctx → Ctx) : (d.modCtx c f).freeIdx = d.freeIdx := (rfl)
@[simp] theorem Dev.modCtx_cycles (d : Dev) (c : Nat) (f : Ctx → Ctx) : (d.modCtx c f).cycles = d.cycles := (rfl)
@[simp] theorem Dev.modCtx_banks (d : Dev) (c : Nat) (f : Ctx → Ctx) : (d.modCtx c f).banks = d.banks := (rfl)
@[simp] theorem Dev.modCtx_out (d : Dev) (c : Nat) (f : Ctx → Ctx) : (d.modCtx c f).out = d.out := (rfl)
@[simp] theorem Dev.modCtx_mem (d : Dev) (c : Nat) (f : Ctx → Ctx) : (d.modCtx c f).mem = d.mem := (rfl)
@[simp] theorem Dev.modCtx_cores (d : Dev) (c : Nat) (f : Ctx → Ctx) : (d.modCtx c f).cores = d.cores := (rfl)
@[simp] theorem Dev.modCtx_queues (d : Dev) (c : Nat) (f : Ctx → Ctx) : (d.modCtx c f).queues = d.queues := (rfl)
@[simp] theorem Dev.modCtx_rings (d : Dev) (c : Nat) (f : Ctx → Ctx) : (d.modCtx c f).rings = d.rings := (rfl)
@[simp] theorem Dev.modCtx_sets (d : Dev) (c : Nat) (f : Ctx → Ctx) : (d.modCtx c f).sets = d.sets := (rfl)
@[simp] theorem Dev.modCtx_groups (d : Dev) (c : Nat) (f : Ctx → Ctx) : (d.modCtx c f).groups = d.groups := (rfl)
@[simp] theorem Dev.modCtx_ports (d : Dev) (c : Nat) (f : Ctx → Ctx) : (d.modCtx c f).ports = d.ports := (rfl)
@[simp] theorem Dev.modCtx_units (d : Dev) (c : Nat) (f : Ctx → Ctx) : (d.modCtx c f).units = d.units := (rfl)
@[simp] theorem Dev.modCtx_time (d : Dev) (c : Nat) (f : Ctx → Ctx) : (d.modCtx c f).time = d.time := (rfl)
@[simp] theorem Dev.modCtx_power (d : Dev) (c : Nat) (f : Ctx → Ctx) : (d.modCtx c f).power = d.power := (rfl)
@[simp] theorem Dev.modCtx_sec (d : Dev) (c : Nat) (f : Ctx → Ctx) : (d.modCtx c f).sec = d.sec := (rfl)
@[simp] theorem Dev.modCtx_spdm (d : Dev) (c : Nat) (f : Ctx → Ctx) : (d.modCtx c f).spdm = d.spdm := (rfl)
@[simp] theorem Dev.modCtx_tests (d : Dev) (c : Nat) (f : Ctx → Ctx) : (d.modCtx c f).tests = d.tests := (rfl)
@[simp] theorem Dev.modCtx_shares (d : Dev) (c : Nat) (f : Ctx → Ctx) : (d.modCtx c f).shares = d.shares := (rfl)
@[simp] theorem Dev.modCtx_cutEdges (d : Dev) (c : Nat) (f : Ctx → Ctx) : (d.modCtx c f).cutEdges = d.cutEdges := (rfl)
@[simp] theorem Dev.modCtx_sends (d : Dev) (c : Nat) (f : Ctx → Ctx) : (d.modCtx c f).sends = d.sends := (rfl)
@[simp] theorem Dev.modCtx_treeEdges (d : Dev) (c : Nat) (f : Ctx → Ctx) : (d.modCtx c f).treeEdges = d.treeEdges := (rfl)
@[simp] theorem Dev.modCtx_mailboxCmd (d : Dev) (c : Nat) (f : Ctx → Ctx) : (d.modCtx c f).mailboxCmd = d.mailboxCmd := (rfl)
@[simp] theorem Dev.modCtx_linkStarted (d : Dev) (c : Nat) (f : Ctx → Ctx) : (d.modCtx c f).linkStarted = d.linkStarted := (rfl)
@[simp] theorem Dev.modCtx_msix (d : Dev) (c : Nat) (f : Ctx → Ctx) : (d.modCtx c f).msix = d.msix := (rfl)

@[simp] theorem Dev.modCore_cfg (d : Dev) (k : Nat) (f : Core → Core) : (d.modCore k f).cfg = d.cfg := (rfl)
@[simp] theorem Dev.modCore_regs (d : Dev) (k : Nat) (f : Core → Core) : (d.modCore k f).regs = d.regs := (rfl)
@[simp] theorem Dev.modCore_freeIdx (d : Dev) (k : Nat) (f : Core → Core) : (d.modCore k f).freeIdx = d.freeIdx := (rfl)
@[simp] theorem Dev.modCore_cycles (d : Dev) (k : Nat) (f : Core → Core) : (d.modCore k f).cycles = d.cycles := (rfl)
@[simp] theorem Dev.modCore_banks (d : Dev) (k : Nat) (f : Core → Core) : (d.modCore k f).banks = d.banks := (rfl)
@[simp] theorem Dev.modCore_out (d : Dev) (k : Nat) (f : Core → Core) : (d.modCore k f).out = d.out := (rfl)
@[simp] theorem Dev.modCore_mem (d : Dev) (k : Nat) (f : Core → Core) : (d.modCore k f).mem = d.mem := (rfl)
@[simp] theorem Dev.modCore_ctxs (d : Dev) (k : Nat) (f : Core → Core) : (d.modCore k f).ctxs = d.ctxs := (rfl)
@[simp] theorem Dev.modCore_queues (d : Dev) (k : Nat) (f : Core → Core) : (d.modCore k f).queues = d.queues := (rfl)
@[simp] theorem Dev.modCore_rings (d : Dev) (k : Nat) (f : Core → Core) : (d.modCore k f).rings = d.rings := (rfl)
@[simp] theorem Dev.modCore_sets (d : Dev) (k : Nat) (f : Core → Core) : (d.modCore k f).sets = d.sets := (rfl)
@[simp] theorem Dev.modCore_groups (d : Dev) (k : Nat) (f : Core → Core) : (d.modCore k f).groups = d.groups := (rfl)
@[simp] theorem Dev.modCore_ports (d : Dev) (k : Nat) (f : Core → Core) : (d.modCore k f).ports = d.ports := (rfl)
@[simp] theorem Dev.modCore_units (d : Dev) (k : Nat) (f : Core → Core) : (d.modCore k f).units = d.units := (rfl)
@[simp] theorem Dev.modCore_time (d : Dev) (k : Nat) (f : Core → Core) : (d.modCore k f).time = d.time := (rfl)
@[simp] theorem Dev.modCore_power (d : Dev) (k : Nat) (f : Core → Core) : (d.modCore k f).power = d.power := (rfl)
@[simp] theorem Dev.modCore_sec (d : Dev) (k : Nat) (f : Core → Core) : (d.modCore k f).sec = d.sec := (rfl)
@[simp] theorem Dev.modCore_spdm (d : Dev) (k : Nat) (f : Core → Core) : (d.modCore k f).spdm = d.spdm := (rfl)
@[simp] theorem Dev.modCore_tests (d : Dev) (k : Nat) (f : Core → Core) : (d.modCore k f).tests = d.tests := (rfl)
@[simp] theorem Dev.modCore_shares (d : Dev) (k : Nat) (f : Core → Core) : (d.modCore k f).shares = d.shares := (rfl)
@[simp] theorem Dev.modCore_cutEdges (d : Dev) (k : Nat) (f : Core → Core) : (d.modCore k f).cutEdges = d.cutEdges := (rfl)
@[simp] theorem Dev.modCore_sends (d : Dev) (k : Nat) (f : Core → Core) : (d.modCore k f).sends = d.sends := (rfl)
@[simp] theorem Dev.modCore_treeEdges (d : Dev) (k : Nat) (f : Core → Core) : (d.modCore k f).treeEdges = d.treeEdges := (rfl)
@[simp] theorem Dev.modCore_mailboxCmd (d : Dev) (k : Nat) (f : Core → Core) : (d.modCore k f).mailboxCmd = d.mailboxCmd := (rfl)
@[simp] theorem Dev.modCore_linkStarted (d : Dev) (k : Nat) (f : Core → Core) : (d.modCore k f).linkStarted = d.linkStarted := (rfl)
@[simp] theorem Dev.modCore_msix (d : Dev) (k : Nat) (f : Core → Core) : (d.modCore k f).msix = d.msix := (rfl)

@[simp] theorem Dev.modQueue_cfg (d : Dev) (q : Nat) (f : Queue → Queue) : (d.modQueue q f).cfg = d.cfg := (rfl)
@[simp] theorem Dev.modQueue_regs (d : Dev) (q : Nat) (f : Queue → Queue) : (d.modQueue q f).regs = d.regs := (rfl)
@[simp] theorem Dev.modQueue_freeIdx (d : Dev) (q : Nat) (f : Queue → Queue) : (d.modQueue q f).freeIdx = d.freeIdx := (rfl)
@[simp] theorem Dev.modQueue_cycles (d : Dev) (q : Nat) (f : Queue → Queue) : (d.modQueue q f).cycles = d.cycles := (rfl)
@[simp] theorem Dev.modQueue_banks (d : Dev) (q : Nat) (f : Queue → Queue) : (d.modQueue q f).banks = d.banks := (rfl)
@[simp] theorem Dev.modQueue_out (d : Dev) (q : Nat) (f : Queue → Queue) : (d.modQueue q f).out = d.out := (rfl)
@[simp] theorem Dev.modQueue_mem (d : Dev) (q : Nat) (f : Queue → Queue) : (d.modQueue q f).mem = d.mem := (rfl)
@[simp] theorem Dev.modQueue_ctxs (d : Dev) (q : Nat) (f : Queue → Queue) : (d.modQueue q f).ctxs = d.ctxs := (rfl)
@[simp] theorem Dev.modQueue_cores (d : Dev) (q : Nat) (f : Queue → Queue) : (d.modQueue q f).cores = d.cores := (rfl)
@[simp] theorem Dev.modQueue_rings (d : Dev) (q : Nat) (f : Queue → Queue) : (d.modQueue q f).rings = d.rings := (rfl)
@[simp] theorem Dev.modQueue_sets (d : Dev) (q : Nat) (f : Queue → Queue) : (d.modQueue q f).sets = d.sets := (rfl)
@[simp] theorem Dev.modQueue_groups (d : Dev) (q : Nat) (f : Queue → Queue) : (d.modQueue q f).groups = d.groups := (rfl)
@[simp] theorem Dev.modQueue_ports (d : Dev) (q : Nat) (f : Queue → Queue) : (d.modQueue q f).ports = d.ports := (rfl)
@[simp] theorem Dev.modQueue_units (d : Dev) (q : Nat) (f : Queue → Queue) : (d.modQueue q f).units = d.units := (rfl)
@[simp] theorem Dev.modQueue_time (d : Dev) (q : Nat) (f : Queue → Queue) : (d.modQueue q f).time = d.time := (rfl)
@[simp] theorem Dev.modQueue_power (d : Dev) (q : Nat) (f : Queue → Queue) : (d.modQueue q f).power = d.power := (rfl)
@[simp] theorem Dev.modQueue_sec (d : Dev) (q : Nat) (f : Queue → Queue) : (d.modQueue q f).sec = d.sec := (rfl)
@[simp] theorem Dev.modQueue_spdm (d : Dev) (q : Nat) (f : Queue → Queue) : (d.modQueue q f).spdm = d.spdm := (rfl)
@[simp] theorem Dev.modQueue_tests (d : Dev) (q : Nat) (f : Queue → Queue) : (d.modQueue q f).tests = d.tests := (rfl)
@[simp] theorem Dev.modQueue_shares (d : Dev) (q : Nat) (f : Queue → Queue) : (d.modQueue q f).shares = d.shares := (rfl)
@[simp] theorem Dev.modQueue_cutEdges (d : Dev) (q : Nat) (f : Queue → Queue) : (d.modQueue q f).cutEdges = d.cutEdges := (rfl)
@[simp] theorem Dev.modQueue_sends (d : Dev) (q : Nat) (f : Queue → Queue) : (d.modQueue q f).sends = d.sends := (rfl)
@[simp] theorem Dev.modQueue_treeEdges (d : Dev) (q : Nat) (f : Queue → Queue) : (d.modQueue q f).treeEdges = d.treeEdges := (rfl)
@[simp] theorem Dev.modQueue_mailboxCmd (d : Dev) (q : Nat) (f : Queue → Queue) : (d.modQueue q f).mailboxCmd = d.mailboxCmd := (rfl)
@[simp] theorem Dev.modQueue_linkStarted (d : Dev) (q : Nat) (f : Queue → Queue) : (d.modQueue q f).linkStarted = d.linkStarted := (rfl)
@[simp] theorem Dev.modQueue_msix (d : Dev) (q : Nat) (f : Queue → Queue) : (d.modQueue q f).msix = d.msix := (rfl)

@[simp] theorem Dev.modRing_cfg (d : Dev) (r : Nat) (f : Ring → Ring) : (d.modRing r f).cfg = d.cfg := (rfl)
@[simp] theorem Dev.modRing_regs (d : Dev) (r : Nat) (f : Ring → Ring) : (d.modRing r f).regs = d.regs := (rfl)
@[simp] theorem Dev.modRing_freeIdx (d : Dev) (r : Nat) (f : Ring → Ring) : (d.modRing r f).freeIdx = d.freeIdx := (rfl)
@[simp] theorem Dev.modRing_cycles (d : Dev) (r : Nat) (f : Ring → Ring) : (d.modRing r f).cycles = d.cycles := (rfl)
@[simp] theorem Dev.modRing_banks (d : Dev) (r : Nat) (f : Ring → Ring) : (d.modRing r f).banks = d.banks := (rfl)
@[simp] theorem Dev.modRing_out (d : Dev) (r : Nat) (f : Ring → Ring) : (d.modRing r f).out = d.out := (rfl)
@[simp] theorem Dev.modRing_mem (d : Dev) (r : Nat) (f : Ring → Ring) : (d.modRing r f).mem = d.mem := (rfl)
@[simp] theorem Dev.modRing_ctxs (d : Dev) (r : Nat) (f : Ring → Ring) : (d.modRing r f).ctxs = d.ctxs := (rfl)
@[simp] theorem Dev.modRing_cores (d : Dev) (r : Nat) (f : Ring → Ring) : (d.modRing r f).cores = d.cores := (rfl)
@[simp] theorem Dev.modRing_queues (d : Dev) (r : Nat) (f : Ring → Ring) : (d.modRing r f).queues = d.queues := (rfl)
@[simp] theorem Dev.modRing_sets (d : Dev) (r : Nat) (f : Ring → Ring) : (d.modRing r f).sets = d.sets := (rfl)
@[simp] theorem Dev.modRing_groups (d : Dev) (r : Nat) (f : Ring → Ring) : (d.modRing r f).groups = d.groups := (rfl)
@[simp] theorem Dev.modRing_ports (d : Dev) (r : Nat) (f : Ring → Ring) : (d.modRing r f).ports = d.ports := (rfl)
@[simp] theorem Dev.modRing_units (d : Dev) (r : Nat) (f : Ring → Ring) : (d.modRing r f).units = d.units := (rfl)
@[simp] theorem Dev.modRing_time (d : Dev) (r : Nat) (f : Ring → Ring) : (d.modRing r f).time = d.time := (rfl)
@[simp] theorem Dev.modRing_power (d : Dev) (r : Nat) (f : Ring → Ring) : (d.modRing r f).power = d.power := (rfl)
@[simp] theorem Dev.modRing_sec (d : Dev) (r : Nat) (f : Ring → Ring) : (d.modRing r f).sec = d.sec := (rfl)
@[simp] theorem Dev.modRing_spdm (d : Dev) (r : Nat) (f : Ring → Ring) : (d.modRing r f).spdm = d.spdm := (rfl)
@[simp] theorem Dev.modRing_tests (d : Dev) (r : Nat) (f : Ring → Ring) : (d.modRing r f).tests = d.tests := (rfl)
@[simp] theorem Dev.modRing_shares (d : Dev) (r : Nat) (f : Ring → Ring) : (d.modRing r f).shares = d.shares := (rfl)
@[simp] theorem Dev.modRing_cutEdges (d : Dev) (r : Nat) (f : Ring → Ring) : (d.modRing r f).cutEdges = d.cutEdges := (rfl)
@[simp] theorem Dev.modRing_sends (d : Dev) (r : Nat) (f : Ring → Ring) : (d.modRing r f).sends = d.sends := (rfl)
@[simp] theorem Dev.modRing_treeEdges (d : Dev) (r : Nat) (f : Ring → Ring) : (d.modRing r f).treeEdges = d.treeEdges := (rfl)
@[simp] theorem Dev.modRing_mailboxCmd (d : Dev) (r : Nat) (f : Ring → Ring) : (d.modRing r f).mailboxCmd = d.mailboxCmd := (rfl)
@[simp] theorem Dev.modRing_linkStarted (d : Dev) (r : Nat) (f : Ring → Ring) : (d.modRing r f).linkStarted = d.linkStarted := (rfl)
@[simp] theorem Dev.modRing_msix (d : Dev) (r : Nat) (f : Ring → Ring) : (d.modRing r f).msix = d.msix := (rfl)

@[simp] theorem Dev.modWset_cfg (d : Dev) (w : Nat) (f : WSet → WSet) : (d.modWset w f).cfg = d.cfg := (rfl)
@[simp] theorem Dev.modWset_regs (d : Dev) (w : Nat) (f : WSet → WSet) : (d.modWset w f).regs = d.regs := (rfl)
@[simp] theorem Dev.modWset_freeIdx (d : Dev) (w : Nat) (f : WSet → WSet) : (d.modWset w f).freeIdx = d.freeIdx := (rfl)
@[simp] theorem Dev.modWset_cycles (d : Dev) (w : Nat) (f : WSet → WSet) : (d.modWset w f).cycles = d.cycles := (rfl)
@[simp] theorem Dev.modWset_banks (d : Dev) (w : Nat) (f : WSet → WSet) : (d.modWset w f).banks = d.banks := (rfl)
@[simp] theorem Dev.modWset_out (d : Dev) (w : Nat) (f : WSet → WSet) : (d.modWset w f).out = d.out := (rfl)
@[simp] theorem Dev.modWset_mem (d : Dev) (w : Nat) (f : WSet → WSet) : (d.modWset w f).mem = d.mem := (rfl)
@[simp] theorem Dev.modWset_ctxs (d : Dev) (w : Nat) (f : WSet → WSet) : (d.modWset w f).ctxs = d.ctxs := (rfl)
@[simp] theorem Dev.modWset_cores (d : Dev) (w : Nat) (f : WSet → WSet) : (d.modWset w f).cores = d.cores := (rfl)
@[simp] theorem Dev.modWset_queues (d : Dev) (w : Nat) (f : WSet → WSet) : (d.modWset w f).queues = d.queues := (rfl)
@[simp] theorem Dev.modWset_rings (d : Dev) (w : Nat) (f : WSet → WSet) : (d.modWset w f).rings = d.rings := (rfl)
@[simp] theorem Dev.modWset_groups (d : Dev) (w : Nat) (f : WSet → WSet) : (d.modWset w f).groups = d.groups := (rfl)
@[simp] theorem Dev.modWset_ports (d : Dev) (w : Nat) (f : WSet → WSet) : (d.modWset w f).ports = d.ports := (rfl)
@[simp] theorem Dev.modWset_units (d : Dev) (w : Nat) (f : WSet → WSet) : (d.modWset w f).units = d.units := (rfl)
@[simp] theorem Dev.modWset_time (d : Dev) (w : Nat) (f : WSet → WSet) : (d.modWset w f).time = d.time := (rfl)
@[simp] theorem Dev.modWset_power (d : Dev) (w : Nat) (f : WSet → WSet) : (d.modWset w f).power = d.power := (rfl)
@[simp] theorem Dev.modWset_sec (d : Dev) (w : Nat) (f : WSet → WSet) : (d.modWset w f).sec = d.sec := (rfl)
@[simp] theorem Dev.modWset_spdm (d : Dev) (w : Nat) (f : WSet → WSet) : (d.modWset w f).spdm = d.spdm := (rfl)
@[simp] theorem Dev.modWset_tests (d : Dev) (w : Nat) (f : WSet → WSet) : (d.modWset w f).tests = d.tests := (rfl)
@[simp] theorem Dev.modWset_shares (d : Dev) (w : Nat) (f : WSet → WSet) : (d.modWset w f).shares = d.shares := (rfl)
@[simp] theorem Dev.modWset_cutEdges (d : Dev) (w : Nat) (f : WSet → WSet) : (d.modWset w f).cutEdges = d.cutEdges := (rfl)
@[simp] theorem Dev.modWset_sends (d : Dev) (w : Nat) (f : WSet → WSet) : (d.modWset w f).sends = d.sends := (rfl)
@[simp] theorem Dev.modWset_treeEdges (d : Dev) (w : Nat) (f : WSet → WSet) : (d.modWset w f).treeEdges = d.treeEdges := (rfl)
@[simp] theorem Dev.modWset_mailboxCmd (d : Dev) (w : Nat) (f : WSet → WSet) : (d.modWset w f).mailboxCmd = d.mailboxCmd := (rfl)
@[simp] theorem Dev.modWset_linkStarted (d : Dev) (w : Nat) (f : WSet → WSet) : (d.modWset w f).linkStarted = d.linkStarted := (rfl)
@[simp] theorem Dev.modWset_msix (d : Dev) (w : Nat) (f : WSet → WSet) : (d.modWset w f).msix = d.msix := (rfl)

@[simp] theorem Dev.modGroup_cfg (d : Dev) (g : Nat) (f : Group → Group) : (d.modGroup g f).cfg = d.cfg := (rfl)
@[simp] theorem Dev.modGroup_regs (d : Dev) (g : Nat) (f : Group → Group) : (d.modGroup g f).regs = d.regs := (rfl)
@[simp] theorem Dev.modGroup_freeIdx (d : Dev) (g : Nat) (f : Group → Group) : (d.modGroup g f).freeIdx = d.freeIdx := (rfl)
@[simp] theorem Dev.modGroup_cycles (d : Dev) (g : Nat) (f : Group → Group) : (d.modGroup g f).cycles = d.cycles := (rfl)
@[simp] theorem Dev.modGroup_banks (d : Dev) (g : Nat) (f : Group → Group) : (d.modGroup g f).banks = d.banks := (rfl)
@[simp] theorem Dev.modGroup_out (d : Dev) (g : Nat) (f : Group → Group) : (d.modGroup g f).out = d.out := (rfl)
@[simp] theorem Dev.modGroup_mem (d : Dev) (g : Nat) (f : Group → Group) : (d.modGroup g f).mem = d.mem := (rfl)
@[simp] theorem Dev.modGroup_ctxs (d : Dev) (g : Nat) (f : Group → Group) : (d.modGroup g f).ctxs = d.ctxs := (rfl)
@[simp] theorem Dev.modGroup_cores (d : Dev) (g : Nat) (f : Group → Group) : (d.modGroup g f).cores = d.cores := (rfl)
@[simp] theorem Dev.modGroup_queues (d : Dev) (g : Nat) (f : Group → Group) : (d.modGroup g f).queues = d.queues := (rfl)
@[simp] theorem Dev.modGroup_rings (d : Dev) (g : Nat) (f : Group → Group) : (d.modGroup g f).rings = d.rings := (rfl)
@[simp] theorem Dev.modGroup_sets (d : Dev) (g : Nat) (f : Group → Group) : (d.modGroup g f).sets = d.sets := (rfl)
@[simp] theorem Dev.modGroup_ports (d : Dev) (g : Nat) (f : Group → Group) : (d.modGroup g f).ports = d.ports := (rfl)
@[simp] theorem Dev.modGroup_units (d : Dev) (g : Nat) (f : Group → Group) : (d.modGroup g f).units = d.units := (rfl)
@[simp] theorem Dev.modGroup_time (d : Dev) (g : Nat) (f : Group → Group) : (d.modGroup g f).time = d.time := (rfl)
@[simp] theorem Dev.modGroup_power (d : Dev) (g : Nat) (f : Group → Group) : (d.modGroup g f).power = d.power := (rfl)
@[simp] theorem Dev.modGroup_sec (d : Dev) (g : Nat) (f : Group → Group) : (d.modGroup g f).sec = d.sec := (rfl)
@[simp] theorem Dev.modGroup_spdm (d : Dev) (g : Nat) (f : Group → Group) : (d.modGroup g f).spdm = d.spdm := (rfl)
@[simp] theorem Dev.modGroup_tests (d : Dev) (g : Nat) (f : Group → Group) : (d.modGroup g f).tests = d.tests := (rfl)
@[simp] theorem Dev.modGroup_shares (d : Dev) (g : Nat) (f : Group → Group) : (d.modGroup g f).shares = d.shares := (rfl)
@[simp] theorem Dev.modGroup_cutEdges (d : Dev) (g : Nat) (f : Group → Group) : (d.modGroup g f).cutEdges = d.cutEdges := (rfl)
@[simp] theorem Dev.modGroup_sends (d : Dev) (g : Nat) (f : Group → Group) : (d.modGroup g f).sends = d.sends := (rfl)
@[simp] theorem Dev.modGroup_treeEdges (d : Dev) (g : Nat) (f : Group → Group) : (d.modGroup g f).treeEdges = d.treeEdges := (rfl)
@[simp] theorem Dev.modGroup_mailboxCmd (d : Dev) (g : Nat) (f : Group → Group) : (d.modGroup g f).mailboxCmd = d.mailboxCmd := (rfl)
@[simp] theorem Dev.modGroup_linkStarted (d : Dev) (g : Nat) (f : Group → Group) : (d.modGroup g f).linkStarted = d.linkStarted := (rfl)
@[simp] theorem Dev.modGroup_msix (d : Dev) (g : Nat) (f : Group → Group) : (d.modGroup g f).msix = d.msix := (rfl)

@[simp] theorem Dev.modPort_cfg (d : Dev) (p : Nat) (f : Port → Port) : (d.modPort p f).cfg = d.cfg := (rfl)
@[simp] theorem Dev.modPort_regs (d : Dev) (p : Nat) (f : Port → Port) : (d.modPort p f).regs = d.regs := (rfl)
@[simp] theorem Dev.modPort_freeIdx (d : Dev) (p : Nat) (f : Port → Port) : (d.modPort p f).freeIdx = d.freeIdx := (rfl)
@[simp] theorem Dev.modPort_cycles (d : Dev) (p : Nat) (f : Port → Port) : (d.modPort p f).cycles = d.cycles := (rfl)
@[simp] theorem Dev.modPort_banks (d : Dev) (p : Nat) (f : Port → Port) : (d.modPort p f).banks = d.banks := (rfl)
@[simp] theorem Dev.modPort_out (d : Dev) (p : Nat) (f : Port → Port) : (d.modPort p f).out = d.out := (rfl)
@[simp] theorem Dev.modPort_mem (d : Dev) (p : Nat) (f : Port → Port) : (d.modPort p f).mem = d.mem := (rfl)
@[simp] theorem Dev.modPort_ctxs (d : Dev) (p : Nat) (f : Port → Port) : (d.modPort p f).ctxs = d.ctxs := (rfl)
@[simp] theorem Dev.modPort_cores (d : Dev) (p : Nat) (f : Port → Port) : (d.modPort p f).cores = d.cores := (rfl)
@[simp] theorem Dev.modPort_queues (d : Dev) (p : Nat) (f : Port → Port) : (d.modPort p f).queues = d.queues := (rfl)
@[simp] theorem Dev.modPort_rings (d : Dev) (p : Nat) (f : Port → Port) : (d.modPort p f).rings = d.rings := (rfl)
@[simp] theorem Dev.modPort_sets (d : Dev) (p : Nat) (f : Port → Port) : (d.modPort p f).sets = d.sets := (rfl)
@[simp] theorem Dev.modPort_groups (d : Dev) (p : Nat) (f : Port → Port) : (d.modPort p f).groups = d.groups := (rfl)
@[simp] theorem Dev.modPort_units (d : Dev) (p : Nat) (f : Port → Port) : (d.modPort p f).units = d.units := (rfl)
@[simp] theorem Dev.modPort_time (d : Dev) (p : Nat) (f : Port → Port) : (d.modPort p f).time = d.time := (rfl)
@[simp] theorem Dev.modPort_power (d : Dev) (p : Nat) (f : Port → Port) : (d.modPort p f).power = d.power := (rfl)
@[simp] theorem Dev.modPort_sec (d : Dev) (p : Nat) (f : Port → Port) : (d.modPort p f).sec = d.sec := (rfl)
@[simp] theorem Dev.modPort_spdm (d : Dev) (p : Nat) (f : Port → Port) : (d.modPort p f).spdm = d.spdm := (rfl)
@[simp] theorem Dev.modPort_tests (d : Dev) (p : Nat) (f : Port → Port) : (d.modPort p f).tests = d.tests := (rfl)
@[simp] theorem Dev.modPort_shares (d : Dev) (p : Nat) (f : Port → Port) : (d.modPort p f).shares = d.shares := (rfl)
@[simp] theorem Dev.modPort_cutEdges (d : Dev) (p : Nat) (f : Port → Port) : (d.modPort p f).cutEdges = d.cutEdges := (rfl)
@[simp] theorem Dev.modPort_sends (d : Dev) (p : Nat) (f : Port → Port) : (d.modPort p f).sends = d.sends := (rfl)
@[simp] theorem Dev.modPort_treeEdges (d : Dev) (p : Nat) (f : Port → Port) : (d.modPort p f).treeEdges = d.treeEdges := (rfl)
@[simp] theorem Dev.modPort_mailboxCmd (d : Dev) (p : Nat) (f : Port → Port) : (d.modPort p f).mailboxCmd = d.mailboxCmd := (rfl)
@[simp] theorem Dev.modPort_linkStarted (d : Dev) (p : Nat) (f : Port → Port) : (d.modPort p f).linkStarted = d.linkStarted := (rfl)
@[simp] theorem Dev.modPort_msix (d : Dev) (p : Nat) (f : Port → Port) : (d.modPort p f).msix = d.msix := (rfl)

@[simp] theorem Dev.modUnit_cfg (d : Dev) (u : Nat) (f : UnitSt → UnitSt) : (d.modUnit u f).cfg = d.cfg := (rfl)
@[simp] theorem Dev.modUnit_regs (d : Dev) (u : Nat) (f : UnitSt → UnitSt) : (d.modUnit u f).regs = d.regs := (rfl)
@[simp] theorem Dev.modUnit_freeIdx (d : Dev) (u : Nat) (f : UnitSt → UnitSt) : (d.modUnit u f).freeIdx = d.freeIdx := (rfl)
@[simp] theorem Dev.modUnit_cycles (d : Dev) (u : Nat) (f : UnitSt → UnitSt) : (d.modUnit u f).cycles = d.cycles := (rfl)
@[simp] theorem Dev.modUnit_banks (d : Dev) (u : Nat) (f : UnitSt → UnitSt) : (d.modUnit u f).banks = d.banks := (rfl)
@[simp] theorem Dev.modUnit_out (d : Dev) (u : Nat) (f : UnitSt → UnitSt) : (d.modUnit u f).out = d.out := (rfl)
@[simp] theorem Dev.modUnit_mem (d : Dev) (u : Nat) (f : UnitSt → UnitSt) : (d.modUnit u f).mem = d.mem := (rfl)
@[simp] theorem Dev.modUnit_ctxs (d : Dev) (u : Nat) (f : UnitSt → UnitSt) : (d.modUnit u f).ctxs = d.ctxs := (rfl)
@[simp] theorem Dev.modUnit_cores (d : Dev) (u : Nat) (f : UnitSt → UnitSt) : (d.modUnit u f).cores = d.cores := (rfl)
@[simp] theorem Dev.modUnit_queues (d : Dev) (u : Nat) (f : UnitSt → UnitSt) : (d.modUnit u f).queues = d.queues := (rfl)
@[simp] theorem Dev.modUnit_rings (d : Dev) (u : Nat) (f : UnitSt → UnitSt) : (d.modUnit u f).rings = d.rings := (rfl)
@[simp] theorem Dev.modUnit_sets (d : Dev) (u : Nat) (f : UnitSt → UnitSt) : (d.modUnit u f).sets = d.sets := (rfl)
@[simp] theorem Dev.modUnit_groups (d : Dev) (u : Nat) (f : UnitSt → UnitSt) : (d.modUnit u f).groups = d.groups := (rfl)
@[simp] theorem Dev.modUnit_ports (d : Dev) (u : Nat) (f : UnitSt → UnitSt) : (d.modUnit u f).ports = d.ports := (rfl)
@[simp] theorem Dev.modUnit_time (d : Dev) (u : Nat) (f : UnitSt → UnitSt) : (d.modUnit u f).time = d.time := (rfl)
@[simp] theorem Dev.modUnit_power (d : Dev) (u : Nat) (f : UnitSt → UnitSt) : (d.modUnit u f).power = d.power := (rfl)
@[simp] theorem Dev.modUnit_sec (d : Dev) (u : Nat) (f : UnitSt → UnitSt) : (d.modUnit u f).sec = d.sec := (rfl)
@[simp] theorem Dev.modUnit_spdm (d : Dev) (u : Nat) (f : UnitSt → UnitSt) : (d.modUnit u f).spdm = d.spdm := (rfl)
@[simp] theorem Dev.modUnit_tests (d : Dev) (u : Nat) (f : UnitSt → UnitSt) : (d.modUnit u f).tests = d.tests := (rfl)
@[simp] theorem Dev.modUnit_shares (d : Dev) (u : Nat) (f : UnitSt → UnitSt) : (d.modUnit u f).shares = d.shares := (rfl)
@[simp] theorem Dev.modUnit_cutEdges (d : Dev) (u : Nat) (f : UnitSt → UnitSt) : (d.modUnit u f).cutEdges = d.cutEdges := (rfl)
@[simp] theorem Dev.modUnit_sends (d : Dev) (u : Nat) (f : UnitSt → UnitSt) : (d.modUnit u f).sends = d.sends := (rfl)
@[simp] theorem Dev.modUnit_treeEdges (d : Dev) (u : Nat) (f : UnitSt → UnitSt) : (d.modUnit u f).treeEdges = d.treeEdges := (rfl)
@[simp] theorem Dev.modUnit_mailboxCmd (d : Dev) (u : Nat) (f : UnitSt → UnitSt) : (d.modUnit u f).mailboxCmd = d.mailboxCmd := (rfl)
@[simp] theorem Dev.modUnit_linkStarted (d : Dev) (u : Nat) (f : UnitSt → UnitSt) : (d.modUnit u f).linkStarted = d.linkStarted := (rfl)
@[simp] theorem Dev.modUnit_msix (d : Dev) (u : Nat) (f : UnitSt → UnitSt) : (d.modUnit u f).msix = d.msix := (rfl)

@[simp] theorem Dev.emit_cfg (d : Dev) (o : Out) : (d.emit o).cfg = d.cfg := (rfl)
@[simp] theorem Dev.emit_regs (d : Dev) (o : Out) : (d.emit o).regs = d.regs := (rfl)
@[simp] theorem Dev.emit_freeIdx (d : Dev) (o : Out) : (d.emit o).freeIdx = d.freeIdx := (rfl)
@[simp] theorem Dev.emit_cycles (d : Dev) (o : Out) : (d.emit o).cycles = d.cycles := (rfl)
@[simp] theorem Dev.emit_banks (d : Dev) (o : Out) : (d.emit o).banks = d.banks := (rfl)
@[simp] theorem Dev.emit_mem (d : Dev) (o : Out) : (d.emit o).mem = d.mem := (rfl)
@[simp] theorem Dev.emit_ctxs (d : Dev) (o : Out) : (d.emit o).ctxs = d.ctxs := (rfl)
@[simp] theorem Dev.emit_cores (d : Dev) (o : Out) : (d.emit o).cores = d.cores := (rfl)
@[simp] theorem Dev.emit_queues (d : Dev) (o : Out) : (d.emit o).queues = d.queues := (rfl)
@[simp] theorem Dev.emit_rings (d : Dev) (o : Out) : (d.emit o).rings = d.rings := (rfl)
@[simp] theorem Dev.emit_sets (d : Dev) (o : Out) : (d.emit o).sets = d.sets := (rfl)
@[simp] theorem Dev.emit_groups (d : Dev) (o : Out) : (d.emit o).groups = d.groups := (rfl)
@[simp] theorem Dev.emit_ports (d : Dev) (o : Out) : (d.emit o).ports = d.ports := (rfl)
@[simp] theorem Dev.emit_units (d : Dev) (o : Out) : (d.emit o).units = d.units := (rfl)
@[simp] theorem Dev.emit_time (d : Dev) (o : Out) : (d.emit o).time = d.time := (rfl)
@[simp] theorem Dev.emit_power (d : Dev) (o : Out) : (d.emit o).power = d.power := (rfl)
@[simp] theorem Dev.emit_sec (d : Dev) (o : Out) : (d.emit o).sec = d.sec := (rfl)
@[simp] theorem Dev.emit_spdm (d : Dev) (o : Out) : (d.emit o).spdm = d.spdm := (rfl)
@[simp] theorem Dev.emit_tests (d : Dev) (o : Out) : (d.emit o).tests = d.tests := (rfl)
@[simp] theorem Dev.emit_shares (d : Dev) (o : Out) : (d.emit o).shares = d.shares := (rfl)
@[simp] theorem Dev.emit_cutEdges (d : Dev) (o : Out) : (d.emit o).cutEdges = d.cutEdges := (rfl)
@[simp] theorem Dev.emit_sends (d : Dev) (o : Out) : (d.emit o).sends = d.sends := (rfl)
@[simp] theorem Dev.emit_treeEdges (d : Dev) (o : Out) : (d.emit o).treeEdges = d.treeEdges := (rfl)
@[simp] theorem Dev.emit_mailboxCmd (d : Dev) (o : Out) : (d.emit o).mailboxCmd = d.mailboxCmd := (rfl)
@[simp] theorem Dev.emit_linkStarted (d : Dev) (o : Out) : (d.emit o).linkStarted = d.linkStarted := (rfl)
@[simp] theorem Dev.emit_msix (d : Dev) (o : Out) : (d.emit o).msix = d.msix := (rfl)

@[simp] theorem Dev.setCtx_ctxs (d : Dev) (c : Nat) (x : Ctx) : (d.setCtx c x).ctxs = SMap.set d.ctxs c x := (rfl)
@[simp] theorem Dev.setCore_cores (d : Dev) (k : Nat) (x : Core) : (d.setCore k x).cores = SMap.set d.cores k x := (rfl)
@[simp] theorem Dev.setQueue_queues (d : Dev) (q : Nat) (x : Queue) : (d.setQueue q x).queues = SMap.set d.queues q x := (rfl)
@[simp] theorem Dev.setRing_rings (d : Dev) (r : Nat) (x : Ring) : (d.setRing r x).rings = SMap.set d.rings r x := (rfl)
@[simp] theorem Dev.setWset_sets (d : Dev) (w : Nat) (x : WSet) : (d.setWset w x).sets = SMap.set d.sets w x := (rfl)
@[simp] theorem Dev.setGroup_groups (d : Dev) (g : Nat) (x : Group) : (d.setGroup g x).groups = SMap.set d.groups g x := (rfl)
@[simp] theorem Dev.setPort_ports (d : Dev) (p : Nat) (x : Port) : (d.setPort p x).ports = SMap.set d.ports p x := (rfl)
@[simp] theorem Dev.setUnit_units (d : Dev) (u : Nat) (x : UnitSt) : (d.setUnit u x).units = SMap.set d.units u x := (rfl)
@[simp] theorem Dev.emit_out (d : Dev) (o : Out) : (d.emit o).out = o :: d.out := (rfl)

@[simp] theorem Dev.setReg_ctx (d : Dev) (r : Reg) (i v j : Nat) (m : Nat) : (d.setReg r i v j).ctx m = d.ctx m := (rfl)
@[simp] theorem Dev.setReg_core (d : Dev) (r : Reg) (i v j : Nat) (m : Nat) : (d.setReg r i v j).core m = d.core m := (rfl)
@[simp] theorem Dev.setReg_queue (d : Dev) (r : Reg) (i v j : Nat) (m : Nat) : (d.setReg r i v j).queue m = d.queue m := (rfl)
@[simp] theorem Dev.setReg_ring (d : Dev) (r : Reg) (i v j : Nat) (m : Nat) : (d.setReg r i v j).ring m = d.ring m := (rfl)
@[simp] theorem Dev.setReg_wset (d : Dev) (r : Reg) (i v j : Nat) (m : Nat) : (d.setReg r i v j).wset m = d.wset m := (rfl)
@[simp] theorem Dev.setReg_group (d : Dev) (r : Reg) (i v j : Nat) (m : Nat) : (d.setReg r i v j).group m = d.group m := (rfl)
@[simp] theorem Dev.setReg_port (d : Dev) (r : Reg) (i v j : Nat) (m : Nat) : (d.setReg r i v j).port m = d.port m := (rfl)
@[simp] theorem Dev.setReg_unit (d : Dev) (r : Reg) (i v j : Nat) (m : Nat) : (d.setReg r i v j).unit m = d.unit m := (rfl)
@[simp] theorem Dev.setReg_ns (d : Dev) (r : Reg) (i v j : Nat) : (d.setReg r i v j).ns = d.ns := (rfl)
@[simp] theorem Dev.put_ctx (d : Dev) (f : Fld) (i v j : Nat) (m : Nat) : (d.put f i v j).ctx m = d.ctx m := (rfl)
@[simp] theorem Dev.put_core (d : Dev) (f : Fld) (i v j : Nat) (m : Nat) : (d.put f i v j).core m = d.core m := (rfl)
@[simp] theorem Dev.put_queue (d : Dev) (f : Fld) (i v j : Nat) (m : Nat) : (d.put f i v j).queue m = d.queue m := (rfl)
@[simp] theorem Dev.put_ring (d : Dev) (f : Fld) (i v j : Nat) (m : Nat) : (d.put f i v j).ring m = d.ring m := (rfl)
@[simp] theorem Dev.put_wset (d : Dev) (f : Fld) (i v j : Nat) (m : Nat) : (d.put f i v j).wset m = d.wset m := (rfl)
@[simp] theorem Dev.put_group (d : Dev) (f : Fld) (i v j : Nat) (m : Nat) : (d.put f i v j).group m = d.group m := (rfl)
@[simp] theorem Dev.put_port (d : Dev) (f : Fld) (i v j : Nat) (m : Nat) : (d.put f i v j).port m = d.port m := (rfl)
@[simp] theorem Dev.put_unit (d : Dev) (f : Fld) (i v j : Nat) (m : Nat) : (d.put f i v j).unit m = d.unit m := (rfl)
@[simp] theorem Dev.put_ns (d : Dev) (f : Fld) (i v j : Nat) : (d.put f i v j).ns = d.ns := (rfl)
@[simp] theorem Dev.setCtx_core (d : Dev) (c : Nat) (x : Ctx) (m : Nat) : (d.setCtx c x).core m = d.core m := (rfl)
@[simp] theorem Dev.setCtx_queue (d : Dev) (c : Nat) (x : Ctx) (m : Nat) : (d.setCtx c x).queue m = d.queue m := (rfl)
@[simp] theorem Dev.setCtx_ring (d : Dev) (c : Nat) (x : Ctx) (m : Nat) : (d.setCtx c x).ring m = d.ring m := (rfl)
@[simp] theorem Dev.setCtx_wset (d : Dev) (c : Nat) (x : Ctx) (m : Nat) : (d.setCtx c x).wset m = d.wset m := (rfl)
@[simp] theorem Dev.setCtx_group (d : Dev) (c : Nat) (x : Ctx) (m : Nat) : (d.setCtx c x).group m = d.group m := (rfl)
@[simp] theorem Dev.setCtx_port (d : Dev) (c : Nat) (x : Ctx) (m : Nat) : (d.setCtx c x).port m = d.port m := (rfl)
@[simp] theorem Dev.setCtx_unit (d : Dev) (c : Nat) (x : Ctx) (m : Nat) : (d.setCtx c x).unit m = d.unit m := (rfl)
@[simp] theorem Dev.setCtx_reg (d : Dev) (c : Nat) (x : Ctx) (r' : Reg) (i' j' : Nat) : (d.setCtx c x).reg r' i' j' = d.reg r' i' j' := (rfl)
@[simp] theorem Dev.setCtx_get (d : Dev) (c : Nat) (x : Ctx) (f' : Fld) (i' j' : Nat) : (d.setCtx c x).get f' i' j' = d.get f' i' j' := (rfl)
@[simp] theorem Dev.setCtx_flag (d : Dev) (c : Nat) (x : Ctx) (f' : Fld) (i' j' : Nat) : (d.setCtx c x).flag f' i' j' = d.flag f' i' j' := (rfl)
@[simp] theorem Dev.setCtx_ns (d : Dev) (c : Nat) (x : Ctx) : (d.setCtx c x).ns = d.ns := (rfl)
@[simp] theorem Dev.setCore_ctx (d : Dev) (k : Nat) (x : Core) (m : Nat) : (d.setCore k x).ctx m = d.ctx m := (rfl)
@[simp] theorem Dev.setCore_queue (d : Dev) (k : Nat) (x : Core) (m : Nat) : (d.setCore k x).queue m = d.queue m := (rfl)
@[simp] theorem Dev.setCore_ring (d : Dev) (k : Nat) (x : Core) (m : Nat) : (d.setCore k x).ring m = d.ring m := (rfl)
@[simp] theorem Dev.setCore_wset (d : Dev) (k : Nat) (x : Core) (m : Nat) : (d.setCore k x).wset m = d.wset m := (rfl)
@[simp] theorem Dev.setCore_group (d : Dev) (k : Nat) (x : Core) (m : Nat) : (d.setCore k x).group m = d.group m := (rfl)
@[simp] theorem Dev.setCore_port (d : Dev) (k : Nat) (x : Core) (m : Nat) : (d.setCore k x).port m = d.port m := (rfl)
@[simp] theorem Dev.setCore_unit (d : Dev) (k : Nat) (x : Core) (m : Nat) : (d.setCore k x).unit m = d.unit m := (rfl)
@[simp] theorem Dev.setCore_reg (d : Dev) (k : Nat) (x : Core) (r' : Reg) (i' j' : Nat) : (d.setCore k x).reg r' i' j' = d.reg r' i' j' := (rfl)
@[simp] theorem Dev.setCore_get (d : Dev) (k : Nat) (x : Core) (f' : Fld) (i' j' : Nat) : (d.setCore k x).get f' i' j' = d.get f' i' j' := (rfl)
@[simp] theorem Dev.setCore_flag (d : Dev) (k : Nat) (x : Core) (f' : Fld) (i' j' : Nat) : (d.setCore k x).flag f' i' j' = d.flag f' i' j' := (rfl)
@[simp] theorem Dev.setCore_ns (d : Dev) (k : Nat) (x : Core) : (d.setCore k x).ns = d.ns := (rfl)
@[simp] theorem Dev.setQueue_ctx (d : Dev) (q : Nat) (x : Queue) (m : Nat) : (d.setQueue q x).ctx m = d.ctx m := (rfl)
@[simp] theorem Dev.setQueue_core (d : Dev) (q : Nat) (x : Queue) (m : Nat) : (d.setQueue q x).core m = d.core m := (rfl)
@[simp] theorem Dev.setQueue_ring (d : Dev) (q : Nat) (x : Queue) (m : Nat) : (d.setQueue q x).ring m = d.ring m := (rfl)
@[simp] theorem Dev.setQueue_wset (d : Dev) (q : Nat) (x : Queue) (m : Nat) : (d.setQueue q x).wset m = d.wset m := (rfl)
@[simp] theorem Dev.setQueue_group (d : Dev) (q : Nat) (x : Queue) (m : Nat) : (d.setQueue q x).group m = d.group m := (rfl)
@[simp] theorem Dev.setQueue_port (d : Dev) (q : Nat) (x : Queue) (m : Nat) : (d.setQueue q x).port m = d.port m := (rfl)
@[simp] theorem Dev.setQueue_unit (d : Dev) (q : Nat) (x : Queue) (m : Nat) : (d.setQueue q x).unit m = d.unit m := (rfl)
@[simp] theorem Dev.setQueue_reg (d : Dev) (q : Nat) (x : Queue) (r' : Reg) (i' j' : Nat) : (d.setQueue q x).reg r' i' j' = d.reg r' i' j' := (rfl)
@[simp] theorem Dev.setQueue_get (d : Dev) (q : Nat) (x : Queue) (f' : Fld) (i' j' : Nat) : (d.setQueue q x).get f' i' j' = d.get f' i' j' := (rfl)
@[simp] theorem Dev.setQueue_flag (d : Dev) (q : Nat) (x : Queue) (f' : Fld) (i' j' : Nat) : (d.setQueue q x).flag f' i' j' = d.flag f' i' j' := (rfl)
@[simp] theorem Dev.setQueue_ns (d : Dev) (q : Nat) (x : Queue) : (d.setQueue q x).ns = d.ns := (rfl)
@[simp] theorem Dev.setRing_ctx (d : Dev) (r : Nat) (x : Ring) (m : Nat) : (d.setRing r x).ctx m = d.ctx m := (rfl)
@[simp] theorem Dev.setRing_core (d : Dev) (r : Nat) (x : Ring) (m : Nat) : (d.setRing r x).core m = d.core m := (rfl)
@[simp] theorem Dev.setRing_queue (d : Dev) (r : Nat) (x : Ring) (m : Nat) : (d.setRing r x).queue m = d.queue m := (rfl)
@[simp] theorem Dev.setRing_wset (d : Dev) (r : Nat) (x : Ring) (m : Nat) : (d.setRing r x).wset m = d.wset m := (rfl)
@[simp] theorem Dev.setRing_group (d : Dev) (r : Nat) (x : Ring) (m : Nat) : (d.setRing r x).group m = d.group m := (rfl)
@[simp] theorem Dev.setRing_port (d : Dev) (r : Nat) (x : Ring) (m : Nat) : (d.setRing r x).port m = d.port m := (rfl)
@[simp] theorem Dev.setRing_unit (d : Dev) (r : Nat) (x : Ring) (m : Nat) : (d.setRing r x).unit m = d.unit m := (rfl)
@[simp] theorem Dev.setRing_reg (d : Dev) (r : Nat) (x : Ring) (r' : Reg) (i' j' : Nat) : (d.setRing r x).reg r' i' j' = d.reg r' i' j' := (rfl)
@[simp] theorem Dev.setRing_get (d : Dev) (r : Nat) (x : Ring) (f' : Fld) (i' j' : Nat) : (d.setRing r x).get f' i' j' = d.get f' i' j' := (rfl)
@[simp] theorem Dev.setRing_flag (d : Dev) (r : Nat) (x : Ring) (f' : Fld) (i' j' : Nat) : (d.setRing r x).flag f' i' j' = d.flag f' i' j' := (rfl)
@[simp] theorem Dev.setRing_ns (d : Dev) (r : Nat) (x : Ring) : (d.setRing r x).ns = d.ns := (rfl)
@[simp] theorem Dev.setWset_ctx (d : Dev) (w : Nat) (x : WSet) (m : Nat) : (d.setWset w x).ctx m = d.ctx m := (rfl)
@[simp] theorem Dev.setWset_core (d : Dev) (w : Nat) (x : WSet) (m : Nat) : (d.setWset w x).core m = d.core m := (rfl)
@[simp] theorem Dev.setWset_queue (d : Dev) (w : Nat) (x : WSet) (m : Nat) : (d.setWset w x).queue m = d.queue m := (rfl)
@[simp] theorem Dev.setWset_ring (d : Dev) (w : Nat) (x : WSet) (m : Nat) : (d.setWset w x).ring m = d.ring m := (rfl)
@[simp] theorem Dev.setWset_group (d : Dev) (w : Nat) (x : WSet) (m : Nat) : (d.setWset w x).group m = d.group m := (rfl)
@[simp] theorem Dev.setWset_port (d : Dev) (w : Nat) (x : WSet) (m : Nat) : (d.setWset w x).port m = d.port m := (rfl)
@[simp] theorem Dev.setWset_unit (d : Dev) (w : Nat) (x : WSet) (m : Nat) : (d.setWset w x).unit m = d.unit m := (rfl)
@[simp] theorem Dev.setWset_reg (d : Dev) (w : Nat) (x : WSet) (r' : Reg) (i' j' : Nat) : (d.setWset w x).reg r' i' j' = d.reg r' i' j' := (rfl)
@[simp] theorem Dev.setWset_get (d : Dev) (w : Nat) (x : WSet) (f' : Fld) (i' j' : Nat) : (d.setWset w x).get f' i' j' = d.get f' i' j' := (rfl)
@[simp] theorem Dev.setWset_flag (d : Dev) (w : Nat) (x : WSet) (f' : Fld) (i' j' : Nat) : (d.setWset w x).flag f' i' j' = d.flag f' i' j' := (rfl)
@[simp] theorem Dev.setWset_ns (d : Dev) (w : Nat) (x : WSet) : (d.setWset w x).ns = d.ns := (rfl)
@[simp] theorem Dev.setGroup_ctx (d : Dev) (g : Nat) (x : Group) (m : Nat) : (d.setGroup g x).ctx m = d.ctx m := (rfl)
@[simp] theorem Dev.setGroup_core (d : Dev) (g : Nat) (x : Group) (m : Nat) : (d.setGroup g x).core m = d.core m := (rfl)
@[simp] theorem Dev.setGroup_queue (d : Dev) (g : Nat) (x : Group) (m : Nat) : (d.setGroup g x).queue m = d.queue m := (rfl)
@[simp] theorem Dev.setGroup_ring (d : Dev) (g : Nat) (x : Group) (m : Nat) : (d.setGroup g x).ring m = d.ring m := (rfl)
@[simp] theorem Dev.setGroup_wset (d : Dev) (g : Nat) (x : Group) (m : Nat) : (d.setGroup g x).wset m = d.wset m := (rfl)
@[simp] theorem Dev.setGroup_port (d : Dev) (g : Nat) (x : Group) (m : Nat) : (d.setGroup g x).port m = d.port m := (rfl)
@[simp] theorem Dev.setGroup_unit (d : Dev) (g : Nat) (x : Group) (m : Nat) : (d.setGroup g x).unit m = d.unit m := (rfl)
@[simp] theorem Dev.setGroup_reg (d : Dev) (g : Nat) (x : Group) (r' : Reg) (i' j' : Nat) : (d.setGroup g x).reg r' i' j' = d.reg r' i' j' := (rfl)
@[simp] theorem Dev.setGroup_get (d : Dev) (g : Nat) (x : Group) (f' : Fld) (i' j' : Nat) : (d.setGroup g x).get f' i' j' = d.get f' i' j' := (rfl)
@[simp] theorem Dev.setGroup_flag (d : Dev) (g : Nat) (x : Group) (f' : Fld) (i' j' : Nat) : (d.setGroup g x).flag f' i' j' = d.flag f' i' j' := (rfl)
@[simp] theorem Dev.setGroup_ns (d : Dev) (g : Nat) (x : Group) : (d.setGroup g x).ns = d.ns := (rfl)
@[simp] theorem Dev.setPort_ctx (d : Dev) (p : Nat) (x : Port) (m : Nat) : (d.setPort p x).ctx m = d.ctx m := (rfl)
@[simp] theorem Dev.setPort_core (d : Dev) (p : Nat) (x : Port) (m : Nat) : (d.setPort p x).core m = d.core m := (rfl)
@[simp] theorem Dev.setPort_queue (d : Dev) (p : Nat) (x : Port) (m : Nat) : (d.setPort p x).queue m = d.queue m := (rfl)
@[simp] theorem Dev.setPort_ring (d : Dev) (p : Nat) (x : Port) (m : Nat) : (d.setPort p x).ring m = d.ring m := (rfl)
@[simp] theorem Dev.setPort_wset (d : Dev) (p : Nat) (x : Port) (m : Nat) : (d.setPort p x).wset m = d.wset m := (rfl)
@[simp] theorem Dev.setPort_group (d : Dev) (p : Nat) (x : Port) (m : Nat) : (d.setPort p x).group m = d.group m := (rfl)
@[simp] theorem Dev.setPort_unit (d : Dev) (p : Nat) (x : Port) (m : Nat) : (d.setPort p x).unit m = d.unit m := (rfl)
@[simp] theorem Dev.setPort_reg (d : Dev) (p : Nat) (x : Port) (r' : Reg) (i' j' : Nat) : (d.setPort p x).reg r' i' j' = d.reg r' i' j' := (rfl)
@[simp] theorem Dev.setPort_get (d : Dev) (p : Nat) (x : Port) (f' : Fld) (i' j' : Nat) : (d.setPort p x).get f' i' j' = d.get f' i' j' := (rfl)
@[simp] theorem Dev.setPort_flag (d : Dev) (p : Nat) (x : Port) (f' : Fld) (i' j' : Nat) : (d.setPort p x).flag f' i' j' = d.flag f' i' j' := (rfl)
@[simp] theorem Dev.setPort_ns (d : Dev) (p : Nat) (x : Port) : (d.setPort p x).ns = d.ns := (rfl)
@[simp] theorem Dev.setUnit_ctx (d : Dev) (u : Nat) (x : UnitSt) (m : Nat) : (d.setUnit u x).ctx m = d.ctx m := (rfl)
@[simp] theorem Dev.setUnit_core (d : Dev) (u : Nat) (x : UnitSt) (m : Nat) : (d.setUnit u x).core m = d.core m := (rfl)
@[simp] theorem Dev.setUnit_queue (d : Dev) (u : Nat) (x : UnitSt) (m : Nat) : (d.setUnit u x).queue m = d.queue m := (rfl)
@[simp] theorem Dev.setUnit_ring (d : Dev) (u : Nat) (x : UnitSt) (m : Nat) : (d.setUnit u x).ring m = d.ring m := (rfl)
@[simp] theorem Dev.setUnit_wset (d : Dev) (u : Nat) (x : UnitSt) (m : Nat) : (d.setUnit u x).wset m = d.wset m := (rfl)
@[simp] theorem Dev.setUnit_group (d : Dev) (u : Nat) (x : UnitSt) (m : Nat) : (d.setUnit u x).group m = d.group m := (rfl)
@[simp] theorem Dev.setUnit_port (d : Dev) (u : Nat) (x : UnitSt) (m : Nat) : (d.setUnit u x).port m = d.port m := (rfl)
@[simp] theorem Dev.setUnit_reg (d : Dev) (u : Nat) (x : UnitSt) (r' : Reg) (i' j' : Nat) : (d.setUnit u x).reg r' i' j' = d.reg r' i' j' := (rfl)
@[simp] theorem Dev.setUnit_get (d : Dev) (u : Nat) (x : UnitSt) (f' : Fld) (i' j' : Nat) : (d.setUnit u x).get f' i' j' = d.get f' i' j' := (rfl)
@[simp] theorem Dev.setUnit_flag (d : Dev) (u : Nat) (x : UnitSt) (f' : Fld) (i' j' : Nat) : (d.setUnit u x).flag f' i' j' = d.flag f' i' j' := (rfl)
@[simp] theorem Dev.setUnit_ns (d : Dev) (u : Nat) (x : UnitSt) : (d.setUnit u x).ns = d.ns := (rfl)
@[simp] theorem Dev.modCtx_core (d : Dev) (c : Nat) (f : Ctx → Ctx) (m : Nat) : (d.modCtx c f).core m = d.core m := (rfl)
@[simp] theorem Dev.modCtx_queue (d : Dev) (c : Nat) (f : Ctx → Ctx) (m : Nat) : (d.modCtx c f).queue m = d.queue m := (rfl)
@[simp] theorem Dev.modCtx_ring (d : Dev) (c : Nat) (f : Ctx → Ctx) (m : Nat) : (d.modCtx c f).ring m = d.ring m := (rfl)
@[simp] theorem Dev.modCtx_wset (d : Dev) (c : Nat) (f : Ctx → Ctx) (m : Nat) : (d.modCtx c f).wset m = d.wset m := (rfl)
@[simp] theorem Dev.modCtx_group (d : Dev) (c : Nat) (f : Ctx → Ctx) (m : Nat) : (d.modCtx c f).group m = d.group m := (rfl)
@[simp] theorem Dev.modCtx_port (d : Dev) (c : Nat) (f : Ctx → Ctx) (m : Nat) : (d.modCtx c f).port m = d.port m := (rfl)
@[simp] theorem Dev.modCtx_unit (d : Dev) (c : Nat) (f : Ctx → Ctx) (m : Nat) : (d.modCtx c f).unit m = d.unit m := (rfl)
@[simp] theorem Dev.modCtx_reg (d : Dev) (c : Nat) (f : Ctx → Ctx) (r' : Reg) (i' j' : Nat) : (d.modCtx c f).reg r' i' j' = d.reg r' i' j' := (rfl)
@[simp] theorem Dev.modCtx_get (d : Dev) (c : Nat) (f : Ctx → Ctx) (f' : Fld) (i' j' : Nat) : (d.modCtx c f).get f' i' j' = d.get f' i' j' := (rfl)
@[simp] theorem Dev.modCtx_flag (d : Dev) (c : Nat) (f : Ctx → Ctx) (f' : Fld) (i' j' : Nat) : (d.modCtx c f).flag f' i' j' = d.flag f' i' j' := (rfl)
@[simp] theorem Dev.modCtx_ns (d : Dev) (c : Nat) (f : Ctx → Ctx) : (d.modCtx c f).ns = d.ns := (rfl)
@[simp] theorem Dev.modCore_ctx (d : Dev) (k : Nat) (f : Core → Core) (m : Nat) : (d.modCore k f).ctx m = d.ctx m := (rfl)
@[simp] theorem Dev.modCore_queue (d : Dev) (k : Nat) (f : Core → Core) (m : Nat) : (d.modCore k f).queue m = d.queue m := (rfl)
@[simp] theorem Dev.modCore_ring (d : Dev) (k : Nat) (f : Core → Core) (m : Nat) : (d.modCore k f).ring m = d.ring m := (rfl)
@[simp] theorem Dev.modCore_wset (d : Dev) (k : Nat) (f : Core → Core) (m : Nat) : (d.modCore k f).wset m = d.wset m := (rfl)
@[simp] theorem Dev.modCore_group (d : Dev) (k : Nat) (f : Core → Core) (m : Nat) : (d.modCore k f).group m = d.group m := (rfl)
@[simp] theorem Dev.modCore_port (d : Dev) (k : Nat) (f : Core → Core) (m : Nat) : (d.modCore k f).port m = d.port m := (rfl)
@[simp] theorem Dev.modCore_unit (d : Dev) (k : Nat) (f : Core → Core) (m : Nat) : (d.modCore k f).unit m = d.unit m := (rfl)
@[simp] theorem Dev.modCore_reg (d : Dev) (k : Nat) (f : Core → Core) (r' : Reg) (i' j' : Nat) : (d.modCore k f).reg r' i' j' = d.reg r' i' j' := (rfl)
@[simp] theorem Dev.modCore_get (d : Dev) (k : Nat) (f : Core → Core) (f' : Fld) (i' j' : Nat) : (d.modCore k f).get f' i' j' = d.get f' i' j' := (rfl)
@[simp] theorem Dev.modCore_flag (d : Dev) (k : Nat) (f : Core → Core) (f' : Fld) (i' j' : Nat) : (d.modCore k f).flag f' i' j' = d.flag f' i' j' := (rfl)
@[simp] theorem Dev.modCore_ns (d : Dev) (k : Nat) (f : Core → Core) : (d.modCore k f).ns = d.ns := (rfl)
@[simp] theorem Dev.modQueue_ctx (d : Dev) (q : Nat) (f : Queue → Queue) (m : Nat) : (d.modQueue q f).ctx m = d.ctx m := (rfl)
@[simp] theorem Dev.modQueue_core (d : Dev) (q : Nat) (f : Queue → Queue) (m : Nat) : (d.modQueue q f).core m = d.core m := (rfl)
@[simp] theorem Dev.modQueue_ring (d : Dev) (q : Nat) (f : Queue → Queue) (m : Nat) : (d.modQueue q f).ring m = d.ring m := (rfl)
@[simp] theorem Dev.modQueue_wset (d : Dev) (q : Nat) (f : Queue → Queue) (m : Nat) : (d.modQueue q f).wset m = d.wset m := (rfl)
@[simp] theorem Dev.modQueue_group (d : Dev) (q : Nat) (f : Queue → Queue) (m : Nat) : (d.modQueue q f).group m = d.group m := (rfl)
@[simp] theorem Dev.modQueue_port (d : Dev) (q : Nat) (f : Queue → Queue) (m : Nat) : (d.modQueue q f).port m = d.port m := (rfl)
@[simp] theorem Dev.modQueue_unit (d : Dev) (q : Nat) (f : Queue → Queue) (m : Nat) : (d.modQueue q f).unit m = d.unit m := (rfl)
@[simp] theorem Dev.modQueue_reg (d : Dev) (q : Nat) (f : Queue → Queue) (r' : Reg) (i' j' : Nat) : (d.modQueue q f).reg r' i' j' = d.reg r' i' j' := (rfl)
@[simp] theorem Dev.modQueue_get (d : Dev) (q : Nat) (f : Queue → Queue) (f' : Fld) (i' j' : Nat) : (d.modQueue q f).get f' i' j' = d.get f' i' j' := (rfl)
@[simp] theorem Dev.modQueue_flag (d : Dev) (q : Nat) (f : Queue → Queue) (f' : Fld) (i' j' : Nat) : (d.modQueue q f).flag f' i' j' = d.flag f' i' j' := (rfl)
@[simp] theorem Dev.modQueue_ns (d : Dev) (q : Nat) (f : Queue → Queue) : (d.modQueue q f).ns = d.ns := (rfl)
@[simp] theorem Dev.modRing_ctx (d : Dev) (r : Nat) (f : Ring → Ring) (m : Nat) : (d.modRing r f).ctx m = d.ctx m := (rfl)
@[simp] theorem Dev.modRing_core (d : Dev) (r : Nat) (f : Ring → Ring) (m : Nat) : (d.modRing r f).core m = d.core m := (rfl)
@[simp] theorem Dev.modRing_queue (d : Dev) (r : Nat) (f : Ring → Ring) (m : Nat) : (d.modRing r f).queue m = d.queue m := (rfl)
@[simp] theorem Dev.modRing_wset (d : Dev) (r : Nat) (f : Ring → Ring) (m : Nat) : (d.modRing r f).wset m = d.wset m := (rfl)
@[simp] theorem Dev.modRing_group (d : Dev) (r : Nat) (f : Ring → Ring) (m : Nat) : (d.modRing r f).group m = d.group m := (rfl)
@[simp] theorem Dev.modRing_port (d : Dev) (r : Nat) (f : Ring → Ring) (m : Nat) : (d.modRing r f).port m = d.port m := (rfl)
@[simp] theorem Dev.modRing_unit (d : Dev) (r : Nat) (f : Ring → Ring) (m : Nat) : (d.modRing r f).unit m = d.unit m := (rfl)
@[simp] theorem Dev.modRing_reg (d : Dev) (r : Nat) (f : Ring → Ring) (r' : Reg) (i' j' : Nat) : (d.modRing r f).reg r' i' j' = d.reg r' i' j' := (rfl)
@[simp] theorem Dev.modRing_get (d : Dev) (r : Nat) (f : Ring → Ring) (f' : Fld) (i' j' : Nat) : (d.modRing r f).get f' i' j' = d.get f' i' j' := (rfl)
@[simp] theorem Dev.modRing_flag (d : Dev) (r : Nat) (f : Ring → Ring) (f' : Fld) (i' j' : Nat) : (d.modRing r f).flag f' i' j' = d.flag f' i' j' := (rfl)
@[simp] theorem Dev.modRing_ns (d : Dev) (r : Nat) (f : Ring → Ring) : (d.modRing r f).ns = d.ns := (rfl)
@[simp] theorem Dev.modWset_ctx (d : Dev) (w : Nat) (f : WSet → WSet) (m : Nat) : (d.modWset w f).ctx m = d.ctx m := (rfl)
@[simp] theorem Dev.modWset_core (d : Dev) (w : Nat) (f : WSet → WSet) (m : Nat) : (d.modWset w f).core m = d.core m := (rfl)
@[simp] theorem Dev.modWset_queue (d : Dev) (w : Nat) (f : WSet → WSet) (m : Nat) : (d.modWset w f).queue m = d.queue m := (rfl)
@[simp] theorem Dev.modWset_ring (d : Dev) (w : Nat) (f : WSet → WSet) (m : Nat) : (d.modWset w f).ring m = d.ring m := (rfl)
@[simp] theorem Dev.modWset_group (d : Dev) (w : Nat) (f : WSet → WSet) (m : Nat) : (d.modWset w f).group m = d.group m := (rfl)
@[simp] theorem Dev.modWset_port (d : Dev) (w : Nat) (f : WSet → WSet) (m : Nat) : (d.modWset w f).port m = d.port m := (rfl)
@[simp] theorem Dev.modWset_unit (d : Dev) (w : Nat) (f : WSet → WSet) (m : Nat) : (d.modWset w f).unit m = d.unit m := (rfl)
@[simp] theorem Dev.modWset_reg (d : Dev) (w : Nat) (f : WSet → WSet) (r' : Reg) (i' j' : Nat) : (d.modWset w f).reg r' i' j' = d.reg r' i' j' := (rfl)
@[simp] theorem Dev.modWset_get (d : Dev) (w : Nat) (f : WSet → WSet) (f' : Fld) (i' j' : Nat) : (d.modWset w f).get f' i' j' = d.get f' i' j' := (rfl)
@[simp] theorem Dev.modWset_flag (d : Dev) (w : Nat) (f : WSet → WSet) (f' : Fld) (i' j' : Nat) : (d.modWset w f).flag f' i' j' = d.flag f' i' j' := (rfl)
@[simp] theorem Dev.modWset_ns (d : Dev) (w : Nat) (f : WSet → WSet) : (d.modWset w f).ns = d.ns := (rfl)
@[simp] theorem Dev.modGroup_ctx (d : Dev) (g : Nat) (f : Group → Group) (m : Nat) : (d.modGroup g f).ctx m = d.ctx m := (rfl)
@[simp] theorem Dev.modGroup_core (d : Dev) (g : Nat) (f : Group → Group) (m : Nat) : (d.modGroup g f).core m = d.core m := (rfl)
@[simp] theorem Dev.modGroup_queue (d : Dev) (g : Nat) (f : Group → Group) (m : Nat) : (d.modGroup g f).queue m = d.queue m := (rfl)
@[simp] theorem Dev.modGroup_ring (d : Dev) (g : Nat) (f : Group → Group) (m : Nat) : (d.modGroup g f).ring m = d.ring m := (rfl)
@[simp] theorem Dev.modGroup_wset (d : Dev) (g : Nat) (f : Group → Group) (m : Nat) : (d.modGroup g f).wset m = d.wset m := (rfl)
@[simp] theorem Dev.modGroup_port (d : Dev) (g : Nat) (f : Group → Group) (m : Nat) : (d.modGroup g f).port m = d.port m := (rfl)
@[simp] theorem Dev.modGroup_unit (d : Dev) (g : Nat) (f : Group → Group) (m : Nat) : (d.modGroup g f).unit m = d.unit m := (rfl)
@[simp] theorem Dev.modGroup_reg (d : Dev) (g : Nat) (f : Group → Group) (r' : Reg) (i' j' : Nat) : (d.modGroup g f).reg r' i' j' = d.reg r' i' j' := (rfl)
@[simp] theorem Dev.modGroup_get (d : Dev) (g : Nat) (f : Group → Group) (f' : Fld) (i' j' : Nat) : (d.modGroup g f).get f' i' j' = d.get f' i' j' := (rfl)
@[simp] theorem Dev.modGroup_flag (d : Dev) (g : Nat) (f : Group → Group) (f' : Fld) (i' j' : Nat) : (d.modGroup g f).flag f' i' j' = d.flag f' i' j' := (rfl)
@[simp] theorem Dev.modGroup_ns (d : Dev) (g : Nat) (f : Group → Group) : (d.modGroup g f).ns = d.ns := (rfl)
@[simp] theorem Dev.modPort_ctx (d : Dev) (p : Nat) (f : Port → Port) (m : Nat) : (d.modPort p f).ctx m = d.ctx m := (rfl)
@[simp] theorem Dev.modPort_core (d : Dev) (p : Nat) (f : Port → Port) (m : Nat) : (d.modPort p f).core m = d.core m := (rfl)
@[simp] theorem Dev.modPort_queue (d : Dev) (p : Nat) (f : Port → Port) (m : Nat) : (d.modPort p f).queue m = d.queue m := (rfl)
@[simp] theorem Dev.modPort_ring (d : Dev) (p : Nat) (f : Port → Port) (m : Nat) : (d.modPort p f).ring m = d.ring m := (rfl)
@[simp] theorem Dev.modPort_wset (d : Dev) (p : Nat) (f : Port → Port) (m : Nat) : (d.modPort p f).wset m = d.wset m := (rfl)
@[simp] theorem Dev.modPort_group (d : Dev) (p : Nat) (f : Port → Port) (m : Nat) : (d.modPort p f).group m = d.group m := (rfl)
@[simp] theorem Dev.modPort_unit (d : Dev) (p : Nat) (f : Port → Port) (m : Nat) : (d.modPort p f).unit m = d.unit m := (rfl)
@[simp] theorem Dev.modPort_reg (d : Dev) (p : Nat) (f : Port → Port) (r' : Reg) (i' j' : Nat) : (d.modPort p f).reg r' i' j' = d.reg r' i' j' := (rfl)
@[simp] theorem Dev.modPort_get (d : Dev) (p : Nat) (f : Port → Port) (f' : Fld) (i' j' : Nat) : (d.modPort p f).get f' i' j' = d.get f' i' j' := (rfl)
@[simp] theorem Dev.modPort_flag (d : Dev) (p : Nat) (f : Port → Port) (f' : Fld) (i' j' : Nat) : (d.modPort p f).flag f' i' j' = d.flag f' i' j' := (rfl)
@[simp] theorem Dev.modPort_ns (d : Dev) (p : Nat) (f : Port → Port) : (d.modPort p f).ns = d.ns := (rfl)
@[simp] theorem Dev.modUnit_ctx (d : Dev) (u : Nat) (f : UnitSt → UnitSt) (m : Nat) : (d.modUnit u f).ctx m = d.ctx m := (rfl)
@[simp] theorem Dev.modUnit_core (d : Dev) (u : Nat) (f : UnitSt → UnitSt) (m : Nat) : (d.modUnit u f).core m = d.core m := (rfl)
@[simp] theorem Dev.modUnit_queue (d : Dev) (u : Nat) (f : UnitSt → UnitSt) (m : Nat) : (d.modUnit u f).queue m = d.queue m := (rfl)
@[simp] theorem Dev.modUnit_ring (d : Dev) (u : Nat) (f : UnitSt → UnitSt) (m : Nat) : (d.modUnit u f).ring m = d.ring m := (rfl)
@[simp] theorem Dev.modUnit_wset (d : Dev) (u : Nat) (f : UnitSt → UnitSt) (m : Nat) : (d.modUnit u f).wset m = d.wset m := (rfl)
@[simp] theorem Dev.modUnit_group (d : Dev) (u : Nat) (f : UnitSt → UnitSt) (m : Nat) : (d.modUnit u f).group m = d.group m := (rfl)
@[simp] theorem Dev.modUnit_port (d : Dev) (u : Nat) (f : UnitSt → UnitSt) (m : Nat) : (d.modUnit u f).port m = d.port m := (rfl)
@[simp] theorem Dev.modUnit_reg (d : Dev) (u : Nat) (f : UnitSt → UnitSt) (r' : Reg) (i' j' : Nat) : (d.modUnit u f).reg r' i' j' = d.reg r' i' j' := (rfl)
@[simp] theorem Dev.modUnit_get (d : Dev) (u : Nat) (f : UnitSt → UnitSt) (f' : Fld) (i' j' : Nat) : (d.modUnit u f).get f' i' j' = d.get f' i' j' := (rfl)
@[simp] theorem Dev.modUnit_flag (d : Dev) (u : Nat) (f : UnitSt → UnitSt) (f' : Fld) (i' j' : Nat) : (d.modUnit u f).flag f' i' j' = d.flag f' i' j' := (rfl)
@[simp] theorem Dev.modUnit_ns (d : Dev) (u : Nat) (f : UnitSt → UnitSt) : (d.modUnit u f).ns = d.ns := (rfl)
@[simp] theorem Dev.emit_ctx (d : Dev) (o : Out) (m : Nat) : (d.emit o).ctx m = d.ctx m := (rfl)
@[simp] theorem Dev.emit_core (d : Dev) (o : Out) (m : Nat) : (d.emit o).core m = d.core m := (rfl)
@[simp] theorem Dev.emit_queue (d : Dev) (o : Out) (m : Nat) : (d.emit o).queue m = d.queue m := (rfl)
@[simp] theorem Dev.emit_ring (d : Dev) (o : Out) (m : Nat) : (d.emit o).ring m = d.ring m := (rfl)
@[simp] theorem Dev.emit_wset (d : Dev) (o : Out) (m : Nat) : (d.emit o).wset m = d.wset m := (rfl)
@[simp] theorem Dev.emit_group (d : Dev) (o : Out) (m : Nat) : (d.emit o).group m = d.group m := (rfl)
@[simp] theorem Dev.emit_port (d : Dev) (o : Out) (m : Nat) : (d.emit o).port m = d.port m := (rfl)
@[simp] theorem Dev.emit_unit (d : Dev) (o : Out) (m : Nat) : (d.emit o).unit m = d.unit m := (rfl)
@[simp] theorem Dev.emit_reg (d : Dev) (o : Out) (r' : Reg) (i' j' : Nat) : (d.emit o).reg r' i' j' = d.reg r' i' j' := (rfl)
@[simp] theorem Dev.emit_get (d : Dev) (o : Out) (f' : Fld) (i' j' : Nat) : (d.emit o).get f' i' j' = d.get f' i' j' := (rfl)
@[simp] theorem Dev.emit_flag (d : Dev) (o : Out) (f' : Fld) (i' j' : Nat) : (d.emit o).flag f' i' j' = d.flag f' i' j' := (rfl)
@[simp] theorem Dev.emit_ns (d : Dev) (o : Out) : (d.emit o).ns = d.ns := (rfl)
@[simp] theorem Dev.setCtx_ctx (d : Dev) (c : Nat) (x : Ctx) : (d.setCtx c x).ctx c = x := SMap.get_set_self _ _ _ _
theorem Dev.setCtx_ctx_ne (d : Dev) (c : Nat) (x : Ctx) (m : Nat) (h : m ≠ c) : (d.setCtx c x).ctx m = d.ctx m := SMap.get_set_ne _ _ _ h
@[simp] theorem Dev.modCtx_ctx (d : Dev) (c : Nat) (f : Ctx → Ctx) : (d.modCtx c f).ctx c = f (d.ctx c) := SMap.get_set_self _ _ _ _
theorem Dev.modCtx_ctx_ne (d : Dev) (c : Nat) (f : Ctx → Ctx) (m : Nat) (h : m ≠ c) : (d.modCtx c f).ctx m = d.ctx m := SMap.get_set_ne _ _ _ h
@[simp] theorem Dev.setCore_core (d : Dev) (k : Nat) (x : Core) : (d.setCore k x).core k = x := SMap.get_set_self _ _ _ _
theorem Dev.setCore_core_ne (d : Dev) (k : Nat) (x : Core) (m : Nat) (h : m ≠ k) : (d.setCore k x).core m = d.core m := SMap.get_set_ne _ _ _ h
@[simp] theorem Dev.modCore_core (d : Dev) (k : Nat) (f : Core → Core) : (d.modCore k f).core k = f (d.core k) := SMap.get_set_self _ _ _ _
theorem Dev.modCore_core_ne (d : Dev) (k : Nat) (f : Core → Core) (m : Nat) (h : m ≠ k) : (d.modCore k f).core m = d.core m := SMap.get_set_ne _ _ _ h
@[simp] theorem Dev.setQueue_queue (d : Dev) (q : Nat) (x : Queue) : (d.setQueue q x).queue q = x := SMap.get_set_self _ _ _ _
theorem Dev.setQueue_queue_ne (d : Dev) (q : Nat) (x : Queue) (m : Nat) (h : m ≠ q) : (d.setQueue q x).queue m = d.queue m := SMap.get_set_ne _ _ _ h
@[simp] theorem Dev.modQueue_queue (d : Dev) (q : Nat) (f : Queue → Queue) : (d.modQueue q f).queue q = f (d.queue q) := SMap.get_set_self _ _ _ _
theorem Dev.modQueue_queue_ne (d : Dev) (q : Nat) (f : Queue → Queue) (m : Nat) (h : m ≠ q) : (d.modQueue q f).queue m = d.queue m := SMap.get_set_ne _ _ _ h
@[simp] theorem Dev.setRing_ring (d : Dev) (r : Nat) (x : Ring) : (d.setRing r x).ring r = x := SMap.get_set_self _ _ _ _
theorem Dev.setRing_ring_ne (d : Dev) (r : Nat) (x : Ring) (m : Nat) (h : m ≠ r) : (d.setRing r x).ring m = d.ring m := SMap.get_set_ne _ _ _ h
@[simp] theorem Dev.modRing_ring (d : Dev) (r : Nat) (f : Ring → Ring) : (d.modRing r f).ring r = f (d.ring r) := SMap.get_set_self _ _ _ _
theorem Dev.modRing_ring_ne (d : Dev) (r : Nat) (f : Ring → Ring) (m : Nat) (h : m ≠ r) : (d.modRing r f).ring m = d.ring m := SMap.get_set_ne _ _ _ h
@[simp] theorem Dev.setWset_wset (d : Dev) (w : Nat) (x : WSet) : (d.setWset w x).wset w = x := SMap.get_set_self _ _ _ _
theorem Dev.setWset_wset_ne (d : Dev) (w : Nat) (x : WSet) (m : Nat) (h : m ≠ w) : (d.setWset w x).wset m = d.wset m := SMap.get_set_ne _ _ _ h
@[simp] theorem Dev.modWset_wset (d : Dev) (w : Nat) (f : WSet → WSet) : (d.modWset w f).wset w = f (d.wset w) := SMap.get_set_self _ _ _ _
theorem Dev.modWset_wset_ne (d : Dev) (w : Nat) (f : WSet → WSet) (m : Nat) (h : m ≠ w) : (d.modWset w f).wset m = d.wset m := SMap.get_set_ne _ _ _ h
@[simp] theorem Dev.setGroup_group (d : Dev) (g : Nat) (x : Group) : (d.setGroup g x).group g = x := SMap.get_set_self _ _ _ _
theorem Dev.setGroup_group_ne (d : Dev) (g : Nat) (x : Group) (m : Nat) (h : m ≠ g) : (d.setGroup g x).group m = d.group m := SMap.get_set_ne _ _ _ h
@[simp] theorem Dev.modGroup_group (d : Dev) (g : Nat) (f : Group → Group) : (d.modGroup g f).group g = f (d.group g) := SMap.get_set_self _ _ _ _
theorem Dev.modGroup_group_ne (d : Dev) (g : Nat) (f : Group → Group) (m : Nat) (h : m ≠ g) : (d.modGroup g f).group m = d.group m := SMap.get_set_ne _ _ _ h
@[simp] theorem Dev.setPort_port (d : Dev) (p : Nat) (x : Port) : (d.setPort p x).port p = x := SMap.get_set_self _ _ _ _
theorem Dev.setPort_port_ne (d : Dev) (p : Nat) (x : Port) (m : Nat) (h : m ≠ p) : (d.setPort p x).port m = d.port m := SMap.get_set_ne _ _ _ h
@[simp] theorem Dev.modPort_port (d : Dev) (p : Nat) (f : Port → Port) : (d.modPort p f).port p = f (d.port p) := SMap.get_set_self _ _ _ _
theorem Dev.modPort_port_ne (d : Dev) (p : Nat) (f : Port → Port) (m : Nat) (h : m ≠ p) : (d.modPort p f).port m = d.port m := SMap.get_set_ne _ _ _ h
@[simp] theorem Dev.setUnit_unit (d : Dev) (u : Nat) (x : UnitSt) : (d.setUnit u x).unit u = x := SMap.get_set_self _ _ _ _
theorem Dev.setUnit_unit_ne (d : Dev) (u : Nat) (x : UnitSt) (m : Nat) (h : m ≠ u) : (d.setUnit u x).unit m = d.unit m := SMap.get_set_ne _ _ _ h
@[simp] theorem Dev.modUnit_unit (d : Dev) (u : Nat) (f : UnitSt → UnitSt) : (d.modUnit u f).unit u = f (d.unit u) := SMap.get_set_self _ _ _ _
theorem Dev.modUnit_unit_ne (d : Dev) (u : Nat) (f : UnitSt → UnitSt) (m : Nat) (h : m ≠ u) : (d.modUnit u f).unit m = d.unit m := SMap.get_set_ne _ _ _ h

theorem Dev.incSat_eq (d : Dev) (f : Fld) (i n j : Nat) : d.incSat f i n j = d.put f i (satAdd f.w (d.get f i j) n) j := (rfl)
theorem Dev.incMod_eq (d : Dev) (f : Fld) (i n j : Nat) : d.incMod f i n j = d.put f i (d.get f i j + n) j := (rfl)
theorem Dev.dec_eq (d : Dev) (f : Fld) (i n j : Nat) : d.dec f i n j = d.put f i (d.get f i j - n) j := (rfl)

end Sys2Proof.Machine
end

