-- ==== Sys2Proof/Laws/Ops.lean ====
section
/-! SUPPORT. The laws of the register file and of the shared operations: what a field reads after a write, and what each
operation leaves alone. -/

namespace Sys2Proof.Machine

/-! ### Bits -/

/-- The bits just set read as set. -/
theorem bitsOf_setBits_self (n lo w v : Nat) : bitsOf (setBits n lo w v) lo w = v % 2 ^ w := by
  have h1 : 0 < 2 ^ lo := Nat.two_pow_pos lo
  have h2 : 0 < 2 ^ w := Nat.two_pow_pos w
  have e : setBits n lo w v = n % 2 ^ lo + 2 ^ lo * (v % 2 ^ w + 2 ^ w * (n / 2 ^ (lo + w))) := by
    rw [setBits, Nat.pow_add]; ring
  rw [bitsOf, e, Nat.add_mul_div_left _ _ h1, Nat.div_eq_of_lt (Nat.mod_lt _ h1), Nat.zero_add,
    Nat.add_mul_mod_self_left, Nat.mod_mod]

/-- Bits below the ones set are as before. -/
theorem bitsOf_setBits_below (n lo w v lo' w' : Nat) (h : lo' + w' ≤ lo) :
    bitsOf (setBits n lo w v) lo' w' = bitsOf n lo' w' := by
  obtain ⟨k, rfl⟩ := Nat.exists_eq_add_of_le h
  have e : setBits n (lo' + w' + k) w v =
      n % 2 ^ (lo' + w' + k) + 2 ^ (lo' + w' + k) * (v % 2 ^ w + 2 ^ w * (n / 2 ^ (lo' + w' + k + w))) := by
    rw [setBits, Nat.pow_add _ _ w]; ring
  have m : setBits n (lo' + w' + k) w v % 2 ^ (lo' + w' + k) = n % 2 ^ (lo' + w' + k) := by
    rw [e, Nat.add_mul_mod_self_left, Nat.mod_mod]
  have red (x : Nat) : x / 2 ^ lo' % 2 ^ w' = x % 2 ^ (lo' + w' + k) / 2 ^ lo' % 2 ^ w' := by
    conv_rhs => rw [show 2 ^ (lo' + w' + k) = 2 ^ lo' * (2 ^ w' * 2 ^ k) by rw [Nat.pow_add, Nat.pow_add]; ring,
      Nat.mod_mul_right_div_self, Nat.mod_mul_right_mod]
  rw [bitsOf, bitsOf, red, m, ← red]

/-- Bits above the ones set are as before. -/
theorem bitsOf_setBits_above (n lo w v lo' w' : Nat) (h : lo + w ≤ lo') :
    bitsOf (setBits n lo w v) lo' w' = bitsOf n lo' w' := by
  obtain ⟨k, rfl⟩ := Nat.exists_eq_add_of_le h
  have h1 : 0 < 2 ^ lo := Nat.two_pow_pos lo
  have small : n % 2 ^ lo + 2 ^ lo * (v % 2 ^ w) < 2 ^ (lo + w) := by
    rw [Nat.pow_add]
    have := Nat.mod_lt n h1
    have := Nat.mod_lt v (Nat.two_pow_pos w)
    calc n % 2 ^ lo + 2 ^ lo * (v % 2 ^ w) < 2 ^ lo + 2 ^ lo * (v % 2 ^ w) := by omega
      _ = 2 ^ lo * (v % 2 ^ w + 1) := by ring
      _ ≤ 2 ^ lo * 2 ^ w := Nat.mul_le_mul_left _ (by omega)
  have e : setBits n lo w v = (n % 2 ^ lo + 2 ^ lo * (v % 2 ^ w)) + 2 ^ (lo + w) * (n / 2 ^ (lo + w)) := by
    rw [setBits]; ring
  have q : setBits n lo w v / 2 ^ (lo + w) = n / 2 ^ (lo + w) := by
    rw [e, Nat.add_mul_div_left _ _ (Nat.two_pow_pos _), Nat.div_eq_of_lt small, Nat.zero_add]
  rw [bitsOf, bitsOf, Nat.pow_add 2 (lo + w) k, ← Nat.div_div_eq_div_mul, ← Nat.div_div_eq_div_mul, q]

/-- A word with some bits set still fits. -/
theorem setBits_lt (n lo w v k : Nat) (hn : n < 2 ^ k) (h : lo + w ≤ k) : setBits n lo w v < 2 ^ k := by
  obtain ⟨m, rfl⟩ := Nat.exists_eq_add_of_le h
  have e : setBits n lo w v =
      n % 2 ^ lo + 2 ^ lo * (v % 2 ^ w + 2 ^ w * (n / 2 ^ (lo + w))) := by
    rw [setBits, Nat.pow_add]; ring
  have h1 := Nat.mod_lt n (Nat.two_pow_pos lo)
  have h2 := Nat.mod_lt v (Nat.two_pow_pos w)
  have h3 : n / 2 ^ (lo + w) < 2 ^ m := by
    rw [Nat.div_lt_iff_lt_mul (Nat.two_pow_pos _), ← Nat.pow_add, Nat.add_comm m]; exact hn
  rw [e, show 2 ^ (lo + w + m) = 2 ^ lo * (2 ^ w * 2 ^ m) by rw [Nat.pow_add, Nat.pow_add]; ring]
  calc n % 2 ^ lo + 2 ^ lo * (v % 2 ^ w + 2 ^ w * (n / 2 ^ (lo + w)))
      < 2 ^ lo + 2 ^ lo * (v % 2 ^ w + 2 ^ w * (n / 2 ^ (lo + w))) := by omega
    _ = 2 ^ lo * (v % 2 ^ w + 2 ^ w * (n / 2 ^ (lo + w)) + 1) := by ring
    _ ≤ 2 ^ lo * (2 ^ w * (n / 2 ^ (lo + w) + 1)) := Nat.mul_le_mul_left _ (by rw [Nat.mul_add]; omega)
    _ ≤ 2 ^ lo * (2 ^ w * 2 ^ m) := Nat.mul_le_mul_left _ (Nat.mul_le_mul_left _ h3)

/-! ### Registers -/

/-- The list of all registers names each by its index. -/
theorem Reg.all_ctorIdx (r : Reg) : Reg.all[r.ctorIdx]? = some r := by cases r <;> rfl

/-- Registers of one index are one register. -/
theorem Reg.ctorIdx_inj {r r' : Reg} (h : r.ctorIdx = r'.ctorIdx) : r = r' := by
  have e := Reg.all_ctorIdx r
  rw [h, Reg.all_ctorIdx r'] at e
  exact (Option.some.inj e).symm

/-- A register holds at most 64 bits. -/
theorem Dev.reg_lt (d : Dev) (r : Reg) (i j : Nat) : d.reg r i j < 2 ^ 64 := BitVec.isLt _

/-- A register just set reads as set. -/
@[simp] theorem Dev.reg_setReg_self (d : Dev) (r : Reg) (i v j : Nat) : (d.setReg r i v j).reg r i j = v % 2 ^ 64 := by
  simp [Dev.reg, Dev.setReg, BitVec.toNat_ofNat]

/-- Another register, or another place of the same one, is as before. -/
theorem Dev.reg_setReg_ne (d : Dev) {r r' : Reg} {i i' j j' : Nat} (v : Nat) (h : ¬(r' = r ∧ i' = i ∧ j' = j)) :
    (d.setReg r i v j).reg r' i' j' = d.reg r' i' j' := by
  unfold Dev.reg Dev.setReg
  by_cases hr : r' = r
  · subst hr
    by_cases hi : i' = i
    · subst hi
      have hj : j' ≠ j := fun e => h ⟨rfl, rfl, e⟩
      simp [SMap.get_set_ne _ _ _ hj]
    · simp [SMap.get_set_ne _ _ _ hi]
  · have hn : r'.ctorIdx ≠ r.ctorIdx := fun e => hr (Reg.ctorIdx_inj e)
    simp [SMap.get_set_ne _ _ _ hn]

/-- A field just written reads as written, cut to its width. -/
theorem Dev.get_put_self (d : Dev) (f : Fld) (i v j : Nat) (h : f.lo + f.w ≤ 64) :
    (d.put f i v j).get f i j = v % 2 ^ f.w := by
  unfold Dev.get Dev.put
  rw [Dev.reg_setReg_self, Nat.mod_eq_of_lt (setBits_lt _ _ _ _ _ (Dev.reg_lt _ _ _ _) h), bitsOf_setBits_self]

/-- A field of another register, or of another place, is as before. -/
theorem Dev.get_put_ne (d : Dev) {f f' : Fld} {i i' j j' : Nat} (v : Nat)
    (h : ¬(f'.reg = f.reg ∧ i' = i ∧ j' = j)) : (d.put f i v j).get f' i' j' = d.get f' i' j' := by
  unfold Dev.get Dev.put
  rw [Dev.reg_setReg_ne _ _ h]

/-- A field of the same register beside the one written is as before. -/
theorem Dev.get_put_beside (d : Dev) (f f' : Fld) (i v j : Nat) (hr : f'.reg = f.reg) (h : f.lo + f.w ≤ 64)
    (b : f'.lo + f'.w ≤ f.lo ∨ f.lo + f.w ≤ f'.lo) : (d.put f i v j).get f' i j = d.get f' i j := by
  unfold Dev.get Dev.put
  rw [hr, Dev.reg_setReg_self, Nat.mod_eq_of_lt (setBits_lt _ _ _ _ _ (Dev.reg_lt _ _ _ _) h)]
  rcases b with b | b
  · exact bitsOf_setBits_below _ _ _ _ _ _ b
  · exact bitsOf_setBits_above _ _ _ _ _ _ b

/-- What a filter on instances leaves of a register. -/
theorem RegFile.find_keep (m : RegFile) (p : Nat → Nat → Bool) (n i : Nat) :
    SMap.find (SMap.get (m.keep p) [] n) i = if p n i then SMap.find (SMap.get m [] n) i else none := by
  have inner (x : SMap (SMap Word)) : SMap.find (x.filter fun e => p n e.1) i = if p n i then SMap.find x i else none := by
    induction x with
    | nil => simp [SMap.find]
    | cons e t ih =>
      by_cases he : i = e.1
      · subst he
        by_cases hp : p n e.1 <;> simp [SMap.find, hp] at ih ⊢
        exact ih
      · by_cases hp : p n e.1 <;> simp [SMap.find, hp, he, ih]
  unfold RegFile.keep
  induction m with
  | nil => simp [SMap.get, SMap.find]
  | cons e t ih =>
    by_cases he : n = e.1
    · subst he
      simpa [SMap.get, SMap.find] using inner e.2
    · simpa [SMap.get, SMap.find, he] using ih

/-! ### Folds -/

/-- What every step of a fold keeps, the fold keeps. -/
theorem Dev.each_induct {α : Type} (P : Dev → Prop) (d : Dev) (xs : List α) (f : α → Dev → Dev) (h0 : P d)
    (h : ∀ x ∈ xs, ∀ d, P d → P (f x d)) : P (d.each xs f) := by
  unfold Dev.each
  induction xs generalizing d with
  | nil => exact h0
  | cons x xs ih => exact ih _ (h x (by simp) d h0) fun y hy => h y (by simp [hy])

@[simp] theorem Dev.each_nil {α : Type} (d : Dev) (f : α → Dev → Dev) : d.each [] f = d := rfl
@[simp] theorem Dev.each_cons {α : Type} (d : Dev) (x : α) (xs : List α) (f : α → Dev → Dev) :
    d.each (x :: xs) f = (f x d).each xs f := rfl

/-! ### The shared operations -/

/-- All that `run` can do. -/
theorem run_next {ok : Bool} {f : Dev → Dev} {s t : State} (h : run ok f s = .next t) :
    ok = true ∧ t = { s with dev := f s.dev } := by
  unfold run at h
  split at h
  · rename_i e
    exact ⟨e, by injection h with h; exact h.symm⟩
  · cases h

theorem run_ok {ok : Bool} (f : Dev → Dev) (s : State) (h : ok = true) : run ok f s = .next { s with dev := f s.dev } := by
  simp [run, h]

/-- All that `runFlash` can do. -/
theorem runFlash_next {ok : Bool} {f : Flash → Dev → Flash × Dev} {s t : State} (h : runFlash ok f s = .next t) :
    ok = true ∧ t = { s with flash := (f s.flash s.dev).1, dev := (f s.flash s.dev).2 } := by
  unfold runFlash at h
  split at h
  · rename_i e
    exact ⟨e, by injection h with h; exact h.symm⟩
  · cases h

theorem runFlash_ok {ok : Bool} (f : Flash → Dev → Flash × Dev) (s : State) (h : ok = true) :
    runFlash ok f s = .next { s with flash := (f s.flash s.dev).1, dev := (f s.flash s.dev).2 } := by
  simp [runFlash, h]

/-- A completion touches its queue's record alone. -/
theorem Dev.complete_eq (d : Dev) (w : Waiter) (st r : Nat) : ∃ x, d.complete w st r = d.setQueue w.q x := ⟨_, rfl⟩

/-- Taking a descriptor in touches its queue's record alone. -/
theorem Dev.accept_eq (d : Dev) (w : Waiter) : ∃ x, d.accept w = d.setQueue w.q x := ⟨_, rfl⟩

/-- A context that does not work on meets no new fault: LATER counts it (R339). -/
theorem Dev.faultCtx_later (d : Dev) (c status core seq va : Nat) (h : d.ctxState c ≠ CtxSt.active)
    (h' : d.ctxState c ≠ CtxSt.detached) : d.faultCtx c status core seq va = d.incSat F.ctxFault_later c := by
  simp [Dev.faultCtx, h, h']

/-- A command whose descriptor does not stand taken, is of another class or operation, leaves the device unchanged. -/
theorem Dev.withDesc_none (d : Dev) (q i cls op : Nat) (f : Nat → Waiter → List Byte → Dev → Dev) (h : d.desc q i = none) :
    d.withDesc q i cls op f = d := by
  unfold Dev.withDesc
  rw [h]

/-- An instruction on a sequencer that runs no clause leaves the device unchanged. -/
theorem Dev.withClause_none (d : Dev) (core seq : Nat) (f : Nat → Clause → Dev → Dev) (h : d.clauseOn core seq = none) :
    d.withClause core seq f = d := by
  unfold Dev.withClause
  rw [h]

/-! ### What an issue, and flits that join a port, leave alone -/

/-- A device that differs from another in its registers and its bank accesses alone. -/
theorem Dev.touchBank_frame (d : Dev) (core seq unit bank : Nat) :
    d.touchBank core seq unit bank =
      { d with regs := (d.touchBank core seq unit bank).regs, banks := (d.touchBank core seq unit bank).banks } := by
  unfold Dev.touchBank
  dsimp only
  split
  · rfl
  · split <;> rfl

/-- An instruction that issues changes registers of its core and the record of bank accesses alone. -/
theorem Dev.issuesOn_frame (d : Dev) (core seq : Nat) (units : List Nat) (spans : List (Word × Nat)) :
    ∃ rs bs, d.issuesOn core seq units spans = { d with regs := rs, banks := bs } := by
  unfold Dev.issuesOn
  dsimp only
  split
  · refine Dev.each_induct (fun e => ∃ rs bs, e = { d with regs := rs, banks := bs }) _ _ _ ⟨_, d.banks, rfl⟩ ?_
    rintro b - e ⟨rs, bs, rfl⟩
    exact ⟨_, _, Dev.touchBank_frame _ _ _ _ _⟩
  · exact ⟨_, d.banks, rfl⟩

/-- POOL_STAT alone follows the buffers in use. -/
theorem Dev.countPool_frame (d : Dev) (die : Nat) : ∃ rs, d.countPool die = { d with regs := rs } := by
  unfold Dev.countPool
  dsimp only
  split
  · exact ⟨d.regs, rfl⟩
  · exact ⟨_, rfl⟩

/-- Staging flits changes their port and POOL_STAT alone. -/
theorem Dev.stageEntry_frame (d : Dev) (p : Nat) (x : Egress) : ∃ ps rs, d.stageEntry p x = { d with ports := ps, regs := rs } := by
  unfold Dev.stageEntry
  generalize (if d.paused x then 0 else min (x.left - x.staged) (d.flitRoom x.die x.owner)) = n
  dsimp only
  split
  · exact ⟨d.ports, d.regs, rfl⟩
  · obtain ⟨rs, h⟩ := Dev.countPool_frame
      (d.modPort p fun y => { y with egress := modFirstFlit (· = x) (fun z => { z with staged := z.staged + n }) y.egress }) x.die
    exact ⟨_, rs, h⟩

/-- Flits that join a port change that port and the pool's registers alone. -/
theorem Dev.enqueue_frame (d : Dev) (p : Nat) (x : Egress) : ∃ ps rs, d.enqueue p x = { d with ports := ps, regs := rs } := by
  obtain ⟨ps, rs, h⟩ := Dev.stageEntry_frame (d.modPort p fun y => { y with egress := y.egress ++ [x] }) p x
  unfold Dev.enqueue
  dsimp only
  rw [h]
  split
  · unfold Dev.countWait
    split
    · exact ⟨ps, _, rfl⟩
    · split <;> exact ⟨ps, _, rfl⟩
  · exact ⟨ps, rs, rfl⟩

/-- A control flit changes ports and the pool's registers alone. -/
theorem Dev.sendCtrl_frame (d : Dev) (p : Nat) (msg : FlitMsg) : ∃ ps rs, d.sendCtrl p msg = { d with ports := ps, regs := rs } := by
  unfold Dev.sendCtrl
  split
  · exact Dev.enqueue_frame _ _ _
  · exact ⟨d.ports, d.regs, rfl⟩

end Sys2Proof.Machine
end

