-- ==== Sys2Proof/Laws/Claims.lean ====
section
/-! SUPPORT. The lemmas by which claims use the terms of Safety: how a descriptor that stands, and a clause that runs, enter
their meanings; what a completion leaves. -/

namespace Sys2Proof.Machine

/-- A descriptor that stands goes to its meaning. -/
theorem Dev.withDesc_stands {d : Dev} {q i cls op c : Nat} {w : Waiter} {bs : List Byte} (h : d.Stands q i cls op c w bs)
    (f : Nat → Waiter → List Byte → Dev → Dev) : d.withDesc q i cls op f = f c w bs d := by
  obtain ⟨-, -, h1, ⟨_, _, _, h2⟩, h3, h4, h5, h6⟩ := h
  obtain ⟨wq, wi, wp⟩ := w
  simp only at h3 h4
  subst h3 h4
  unfold Dev.withDesc
  rw [h2, h1]
  rcases h6 with h6 | h6 <;> simp [h5, h6]

theorem Dev.Stands.wf {d : Dev} {q i cls op c : Nat} {w : Waiter} {bs : List Byte} (h : d.Stands q i cls op c w bs) :
    q < 16384 ∧ i < 65536 := ⟨h.1, h.2.1⟩

/-- A clause that runs goes to its instruction's meaning. -/
theorem Dev.withClause_runs {d : Dev} {core seq c : Nat} {y : Clause} (h : d.Runs core seq c y) (f : Nat → Clause → Dev → Dev) :
    d.withClause core seq f = f c y d := by
  obtain ⟨-, -, h1, h2⟩ := h
  unfold Dev.withClause
  rw [h1]
  simp [h2]

/-- A completion whose queue awaits it is due, last. -/
theorem Dev.complete_due {d : Dev} {w : Waiter} (st r : Nat) (h : d.Awaited w) : (d.complete w st r).DueLast w st r := by
  obtain ⟨h1, h2⟩ := h
  unfold Dev.complete
  refine ⟨(d.queue w.q).due, ?_⟩
  rw [Dev.modQueue_queue]
  simp [h1, h2]

/-! ### Running an instruction -/

/-- A part that gives its value hands it on. -/
theorem bind_gives {α β : Type} {m : ClauseM α} {k : α → ClauseM β} {d d' : Dev} {x : α} (h : Gives m d x d') :
    (m >>= k) d = k x d' := by
  show EStateM.bind m k d = _
  unfold EStateM.bind
  rw [show m d = .ok x d' from h]

theorem get_bind {β : Type} (k : Dev → ClauseM β) (d : Dev) : ((get : ClauseM Dev) >>= k) d = k d d := rfl

theorem set_bind {β : Type} (e : Dev) (k : PUnit → ClauseM β) (d : Dev) : ((set e : ClauseM PUnit) >>= k) d = k ⟨⟩ e := rfl

theorem update_bind {β : Type} (f : Dev → Dev) (k : Unit → ClauseM β) (d : Dev) : (update f >>= k) d = k () (f d) := rfl

theorem pure_bind' {α β : Type} (x : α) (k : α → ClauseM β) (d : Dev) : ((pure x : ClauseM α) >>= k) d = k x d := rfl

/-- An instruction that has its unit and whose parts all give values runs to its end. -/
theorem Dev.instr_gives {d d1 : Dev} {core seq c : Nat} {y : Clause} {units : List Nat} (spans : List (Word × Nat)) (rsp : TierRsp)
    (m : Env → ClauseM Unit) (h : d.Ready core seq c y units)
    (g : Gives (m ⟨c, core, seq, y, rsp⟩) (d.issuesOn core seq units spans) () d1) : d.instr core seq units spans rsp m = d1 := by
  obtain ⟨h, u⟩ := h
  unfold Dev.instr
  rw [Dev.withClause_runs h]
  simp [u, show m _ _ = _ from g]

/-- An instruction that meets a fault tears its context down (R34, R338). -/
theorem Dev.instr_traps {d d1 : Dev} {core seq c status va : Nat} {y : Clause} {units : List Nat} (spans : List (Word × Nat)) (rsp : TierRsp)
    (m : Env → ClauseM Unit) (h : d.Ready core seq c y units)
    (g : m ⟨c, core, seq, y, rsp⟩ (d.issuesOn core seq units spans) = .error (status, va) d1) :
    d.instr core seq units spans rsp m = d1.faultCtx c status core seq va := by
  obtain ⟨h, u⟩ := h
  unfold Dev.instr
  rw [Dev.withClause_runs h]
  simp [u, g]

end Sys2Proof.Machine
end

