-- ==== Sys2Proof/Laws/Exec.lean ====
section
/-! SUPPORT. What the meaning of each command is, by the one operation that runs it; that a command stops only where it names
something absent, and what no command touches. -/

namespace Sys2Proof.Machine

theorem exec_launch (q i : Nat) (s : State) :
    exec (.launch q i) s = run (Instr.wf (.launch q i)) (Dev.launch q i) s := rfl
theorem exec_clausePlace (ref : ClauseRef) (s : State) :
    exec (.clausePlace ref) s = run (Instr.wf (.clausePlace ref)) (Dev.clausePlace ref) s := rfl
theorem exec_clauseComplete (ctx id : Nat) (lengths : List Nat) (s : State) :
    exec (.clauseComplete ctx id lengths) s = run (Instr.wf (.clauseComplete ctx id lengths)) (Dev.clauseComplete ctx id lengths) s := rfl
theorem exec_handlePush (core seq chain : Nat) (handle : Word) (s : State) :
    exec (.handlePush core seq chain handle) s = run (Instr.wf (.handlePush core seq chain handle)) (Dev.handlePush core seq chain handle) s := rfl
theorem exec_handlePop (core seq chain : Nat) (s : State) :
    exec (.handlePop core seq chain) s = run (Instr.wf (.handlePop core seq chain)) (Dev.handlePop core seq chain) s := rfl
theorem exec_learningFullStop (ctx : Nat) (rsp : TierRsp) (s : State) :
    exec (.learningFullStop ctx rsp) s = run (Instr.wf (.learningFullStop ctx rsp)) (Dev.learningFullStop ctx rsp) s := rfl
theorem exec_barrierMet (ctx : Nat) (rsp : TierRsp) (s : State) :
    exec (.barrierMet ctx rsp) s = run (Instr.wf (.barrierMet ctx rsp)) (Dev.barrierMet ctx rsp) s := rfl
theorem exec_barrierAbort (ctx : Nat) (s : State) :
    exec (.barrierAbort ctx) s = run (Instr.wf (.barrierAbort ctx)) (Dev.barrierAbort ctx) s := rfl
theorem exec_generationFullStop (ctx : Nat) (s : State) :
    exec (.generationFullStop ctx) s = run (Instr.wf (.generationFullStop ctx)) (Dev.generationFullStop ctx) s := rfl
theorem exec_coreReset (core : Nat) (s : State) :
    exec (.coreReset core) s = run (Instr.wf (.coreReset core)) (Dev.coreReset core) s := rfl
theorem exec_coreRemove (core : Nat) (s : State) :
    exec (.coreRemove core) s = run (Instr.wf (.coreRemove core)) (Dev.coreRemove core) s := rfl
theorem exec_cntClrStall (fn core : Nat) (s : State) :
    exec (.cntClrStall fn core) s = run (Instr.wf (.cntClrStall fn core)) (Dev.cntClrStall fn core) s := rfl
theorem exec_cntClrLag (fn core : Nat) (s : State) :
    exec (.cntClrLag fn core) s = run (Instr.wf (.cntClrLag fn core)) (Dev.cntClrLag fn core) s := rfl
theorem exec_cntClrWcet (fn core : Nat) (s : State) :
    exec (.cntClrWcet fn core) s = run (Instr.wf (.cntClrWcet fn core)) (Dev.cntClrWcet fn core) s := rfl
theorem exec_matrixInstruction (core seq : Nat) (op : MatOp) (rsp : TierRsp) (s : State) :
    exec (.matrixInstruction core seq op rsp) s = run (Instr.wf (.matrixInstruction core seq op rsp)) (Dev.matrixInstruction core seq op rsp) s := rfl
theorem exec_engineOutputWrite (core seq : Nat) (op : ConvOp) (rsp : TierRsp) (s : State) :
    exec (.engineOutputWrite core seq op rsp) s = run (Instr.wf (.engineOutputWrite core seq op rsp)) (Dev.engineOutputWrite core seq op rsp) s := rfl
theorem exec_conversionInstruction (core seq : Nat) (op : ConvOp) (rsp : TierRsp) (s : State) :
    exec (.conversionInstruction core seq op rsp) s = run (Instr.wf (.conversionInstruction core seq op rsp)) (Dev.conversionInstruction core seq op rsp) s := rfl
theorem exec_scaleFormingInstruction (core seq : Nat) (op : ScaleOp) (rsp : TierRsp) (s : State) :
    exec (.scaleFormingInstruction core seq op rsp) s = run (Instr.wf (.scaleFormingInstruction core seq op rsp)) (Dev.scaleFormingInstruction core seq op rsp) s := rfl
theorem exec_attentionInstruction (core seq : Nat) (op : AttnOp) (rsp : TierRsp) (s : State) :
    exec (.attentionInstruction core seq op rsp) s = run (Instr.wf (.attentionInstruction core seq op rsp)) (Dev.attentionInstruction core seq op rsp) s := rfl
theorem exec_attentionBackward (core seq : Nat) (op : AttnBwOp) (rsp : TierRsp) (s : State) :
    exec (.attentionBackward core seq op rsp) s = run (Instr.wf (.attentionBackward core seq op rsp)) (Dev.attentionBackward core seq op rsp) s := rfl
theorem exec_activationInstruction (core seq : Nat) (op : ActOp) (rsp : TierRsp) (s : State) :
    exec (.activationInstruction core seq op rsp) s = run (Instr.wf (.activationInstruction core seq op rsp)) (Dev.activationInstruction core seq op rsp) s := rfl
theorem exec_activationBackward (core seq : Nat) (op : ActBwOp) (rsp : TierRsp) (s : State) :
    exec (.activationBackward core seq op rsp) s = run (Instr.wf (.activationBackward core seq op rsp)) (Dev.activationBackward core seq op rsp) s := rfl
theorem exec_dropoutInstruction (core seq : Nat) (op : DropOp) (rsp : TierRsp) (s : State) :
    exec (.dropoutInstruction core seq op rsp) s = run (Instr.wf (.dropoutInstruction core seq op rsp)) (Dev.dropoutInstruction core seq op rsp) s := rfl
theorem exec_normBackward (core seq : Nat) (op : NormBwOp) (rsp : TierRsp) (s : State) :
    exec (.normBackward core seq op rsp) s = run (Instr.wf (.normBackward core seq op rsp)) (Dev.normBackward core seq op rsp) s := rfl
theorem exec_vocabHeadInstruction (core seq : Nat) (op : VocabOp) (rsp : TierRsp) (s : State) :
    exec (.vocabHeadInstruction core seq op rsp) s = run (Instr.wf (.vocabHeadInstruction core seq op rsp)) (Dev.vocabHeadInstruction core seq op rsp) s := rfl
theorem exec_vocabHeadBackward (core seq : Nat) (op : VocabBwOp) (rsp : TierRsp) (s : State) :
    exec (.vocabHeadBackward core seq op rsp) s = run (Instr.wf (.vocabHeadBackward core seq op rsp)) (Dev.vocabHeadBackward core seq op rsp) s := rfl
theorem exec_vectorDraw (core seq : Nat) (op : DrawOp) (s : State) :
    exec (.vectorDraw core seq op) s = run (Instr.wf (.vectorDraw core seq op)) (Dev.vectorDraw core seq op) s := rfl
theorem exec_kvAppendWrite (core seq : Nat) (op : KvAppendOp) (rsp : TierRsp) (s : State) :
    exec (.kvAppendWrite core seq op rsp) s = run (Instr.wf (.kvAppendWrite core seq op rsp)) (Dev.kvAppendWrite core seq op rsp) s := rfl
theorem exec_start (q i : Nat) (s : State) :
    exec (.start q i) s = run (Instr.wf (.start q i)) (Dev.start q i) s := rfl
theorem exec_cancel (q i : Nat) (s : State) :
    exec (.cancel q i) s = run (Instr.wf (.cancel q i)) (Dev.cancel q i) s := rfl
theorem exec_pause (q i : Nat) (s : State) :
    exec (.pause q i) s = run (Instr.wf (.pause q i)) (Dev.pause q i) s := rfl
theorem exec_resume (q i : Nat) (s : State) :
    exec (.resume q i) s = run (Instr.wf (.resume q i)) (Dev.resume q i) s := rfl
theorem exec_pool (q i : Nat) (s : State) :
    exec (.pool q i) s = run (Instr.wf (.pool q i)) (Dev.pool q i) s := rfl
theorem exec_mask (q i : Nat) (s : State) :
    exec (.mask q i) s = run (Instr.wf (.mask q i)) (Dev.mask q i) s := rfl
theorem exec_prefillStep (ctx seq : Nat) (table : Word) (s : State) :
    exec (.prefillStep ctx seq table) s = run (Instr.wf (.prefillStep ctx seq table)) (Dev.prefillStep ctx seq table) s := rfl
theorem exec_decodeStep (ctx pool : Nat) (table : Word) (scores : List SeqScores) (s : State) :
    exec (.decodeStep ctx pool table scores) s = run (Instr.wf (.decodeStep ctx pool table scores)) (Dev.decodeStep ctx pool table scores) s := rfl
theorem exec_stepBoundary (ctx seq : Nat) (s : State) :
    exec (.stepBoundary ctx seq) s = run (Instr.wf (.stepBoundary ctx seq)) (Dev.stepBoundary ctx seq) s := rfl
theorem exec_promptShipped (ctx seq : Nat) (s : State) :
    exec (.promptShipped ctx seq) s = run (Instr.wf (.promptShipped ctx seq)) (Dev.promptShipped ctx seq) s := rfl
theorem exec_remotePrefillRefused (ctx seq : Nat) (s : State) :
    exec (.remotePrefillRefused ctx seq) s = run (Instr.wf (.remotePrefillRefused ctx seq)) (Dev.remotePrefillRefused ctx seq) s := rfl
theorem exec_pauseMoveDone (ctx seq : Nat) (s : State) :
    exec (.pauseMoveDone ctx seq) s = run (Instr.wf (.pauseMoveDone ctx seq)) (Dev.pauseMoveDone ctx seq) s := rfl
theorem exec_resumeMoveDone (ctx seq : Nat) (s : State) :
    exec (.resumeMoveDone ctx seq) s = run (Instr.wf (.resumeMoveDone ctx seq)) (Dev.resumeMoveDone ctx seq) s := rfl
theorem exec_ttlExpire (ctx seq : Nat) (s : State) :
    exec (.ttlExpire ctx seq) s = run (Instr.wf (.ttlExpire ctx seq)) (Dev.ttlExpire ctx seq) s := rfl
theorem exec_evict (q i : Nat) (s : State) :
    exec (.evict q i) s = run (Instr.wf (.evict q i)) (Dev.evict q i) s := rfl
theorem exec_kvBaseWrite (fn ctx which : Nat) (value : Word) (s : State) :
    exec (.kvBaseWrite fn ctx which value) s = run (Instr.wf (.kvBaseWrite fn ctx which value)) (Dev.kvBaseWrite fn ctx which value) s := rfl
theorem exec_kvPoolWrite (fn ctx pages : Nat) (s : State) :
    exec (.kvPoolWrite fn ctx pages) s = run (Instr.wf (.kvPoolWrite fn ctx pages)) (Dev.kvPoolWrite fn ctx pages) s := rfl
theorem exec_silCreate (q i : Nat) (s : State) :
    exec (.silCreate q i) s = run (Instr.wf (.silCreate q i)) (Dev.silCreate q i) s := rfl
theorem exec_silDestroy (q i : Nat) (s : State) :
    exec (.silDestroy q i) s = run (Instr.wf (.silDestroy q i)) (Dev.silDestroy q i) s := rfl
theorem exec_silAppend (q i : Nat) (rsp : TierRsp) (s : State) :
    exec (.silAppend q i rsp) s = run (Instr.wf (.silAppend q i rsp)) (Dev.silAppend q i rsp) s := rfl
theorem exec_silDraw (q i : Nat) (rsp : TierRsp) (s : State) :
    exec (.silDraw q i rsp) s = run (Instr.wf (.silDraw q i rsp)) (Dev.silDraw q i rsp) s := rfl
theorem exec_recordCommit (ring : Nat) (rsp : TierRsp) (s : State) :
    exec (.recordCommit ring rsp) s = run (Instr.wf (.recordCommit ring rsp)) (Dev.recordCommit ring rsp) s := rfl
theorem exec_lrnStepWrite (fn ctx : Nat) (value : Word) (s : State) :
    exec (.lrnStepWrite fn ctx value) s = run (Instr.wf (.lrnStepWrite fn ctx value)) (Dev.lrnStepWrite fn ctx value) s := rfl
theorem exec_upd (core seq offset : Nat) (rsp : TierRsp) (s : State) :
    exec (.upd core seq offset rsp) s = run (Instr.wf (.upd core seq offset rsp)) (Dev.upd core seq offset rsp) s := rfl
theorem exec_apply (ctx id : Nat) (rsp : TierRsp) (s : State) :
    exec (.apply ctx id rsp) s = run (Instr.wf (.apply ctx id rsp)) (Dev.apply ctx id rsp) s := rfl
theorem exec_watch (ctx id : Nat) (s : State) :
    exec (.watch ctx id) s = run (Instr.wf (.watch ctx id)) (Dev.watch ctx id) s := rfl
theorem exec_unwatch (ctx id : Nat) (s : State) :
    exec (.unwatch ctx id) s = run (Instr.wf (.unwatch ctx id)) (Dev.unwatch ctx id) s := rfl
theorem exec_reduce (ctx id : Nat) (s : State) :
    exec (.reduce ctx id) s = run (Instr.wf (.reduce ctx id)) (Dev.reduce ctx id) s := rfl
theorem exec_updChunk (ctx id unit : Nat) (rsp : TierRsp) (s : State) :
    exec (.updChunk ctx id unit rsp) s = run (Instr.wf (.updChunk ctx id unit rsp)) (Dev.updChunk ctx id unit rsp) s := rfl
theorem exec_factPassB (ctx id : Nat) (s : State) :
    exec (.factPassB ctx id) s = run (Instr.wf (.factPassB ctx id)) (Dev.factPassB ctx id) s := rfl
theorem exec_updComplete (ctx id : Nat) (s : State) :
    exec (.updComplete ctx id) s = run (Instr.wf (.updComplete ctx id)) (Dev.updComplete ctx id) s := rfl
theorem exec_wsCreate (q i : Nat) (rsp : TierRsp) (s : State) :
    exec (.wsCreate q i rsp) s = run (Instr.wf (.wsCreate q i rsp)) (Dev.wsCreate q i rsp) s := rfl
theorem exec_send (q i : Nat) (rsp : TierRsp) (s : State) :
    exec (.send q i rsp) s = run (Instr.wf (.send q i rsp)) (Dev.sendSet q i rsp) s := rfl
theorem exec_sendComplete (q i : Nat) (s : State) :
    exec (.sendComplete q i) s = run (Instr.wf (.sendComplete q i)) (Dev.sendComplete q i) s := rfl
theorem exec_wsDestroy (q i : Nat) (s : State) :
    exec (.wsDestroy q i) s = run (Instr.wf (.wsDestroy q i)) (Dev.wsDestroy q i) s := rfl
theorem exec_await (q i : Nat) (s : State) :
    exec (.await q i) s = run (Instr.wf (.await q i)) (Dev.await q i) s := rfl
theorem exec_accordFlitArrive (port : Nat) (flit : AccFlit) (s : State) :
    exec (.accordFlitArrive port flit) s = run (Instr.wf (.accordFlitArrive port flit)) (Dev.accordFlitArrive port flit) s := rfl
theorem exec_bankRelease (set : Nat) (s : State) :
    exec (.bankRelease set) s = run (Instr.wf (.bankRelease set)) (Dev.bankRelease set) s := rfl
theorem exec_shareDetach (group gset epoch : Nat) (edge : Option Nat) (s : State) :
    exec (.shareDetach group gset epoch edge) s = run (Instr.wf (.shareDetach group gset epoch edge)) (Dev.shareDetach group gset epoch edge) s := rfl
theorem exec_detachFlitArrive (flit : AccFlit) (s : State) :
    exec (.detachFlitArrive flit) s = run (Instr.wf (.detachFlitArrive flit)) (Dev.detachFlitArrive flit) s := rfl
theorem exec_asmTmo (set : Nat) (s : State) :
    exec (.asmTmo set) s = run (Instr.wf (.asmTmo set)) (Dev.asmTmo set) s := rfl
theorem exec_map (q i : Nat) (s : State) :
    exec (.map q i) s = run (Instr.wf (.map q i)) (Dev.map q i) s := rfl
theorem exec_unmap (q i : Nat) (s : State) :
    exec (.unmap q i) s = run (Instr.wf (.unmap q i)) (Dev.unmap q i) s := rfl
theorem exec_move (q i : Nat) (s : State) :
    exec (.move q i) s = run (Instr.wf (.move q i)) (Dev.move q i) s := rfl
theorem exec_hint (q i : Nat) (s : State) :
    exec (.hint q i) s = run (Instr.wf (.hint q i)) (Dev.hint q i) s := rfl
theorem exec_moveGranule (ctx id : Nat) (rsp : TierRsp) (s : State) :
    exec (.moveGranule ctx id rsp) s = run (Instr.wf (.moveGranule ctx id rsp)) (Dev.moveGranule ctx id rsp) s := rfl
theorem exec_tierRequestComplete (req : Requester) (va : Nat) (uncorrectable : Bool) (s : State) :
    exec (.tierRequestComplete req va uncorrectable) s = run (Instr.wf (.tierRequestComplete req va uncorrectable)) (Dev.tierRequestComplete req va uncorrectable) s := rfl
theorem exec_tierTimeoutExpiry (req : Requester) (va : Nat) (s : State) :
    exec (.tierTimeoutExpiry req va) s = run (Instr.wf (.tierTimeoutExpiry req va)) (Dev.tierTimeoutExpiry req va) s := rfl
theorem exec_patrolScrub (tier frame corrected : Nat) (uncorrectable passEnd : Bool) (s : State) :
    exec (.patrolScrub tier frame corrected uncorrectable passEnd) s = run (Instr.wf (.patrolScrub tier frame corrected uncorrectable passEnd)) (Dev.patrolScrub tier frame corrected uncorrectable passEnd) s := rfl
theorem exec_tierQuotaWrite (fn ctx tier limit : Nat) (s : State) :
    exec (.tierQuotaWrite fn ctx tier limit) s = run (Instr.wf (.tierQuotaWrite fn ctx tier limit)) (Dev.tierQuotaWrite fn ctx tier limit) s := rfl
theorem exec_tierProbe (fn ctx va : Nat) (s : State) :
    exec (.tierProbe fn ctx va) s = run (Instr.wf (.tierProbe fn ctx va)) (Dev.tierProbe fn ctx va) s := rfl
theorem exec_dma (core seq ch offset : Nat) (next : Bool) (s : State) :
    exec (.dma core seq ch offset next) s = run (Instr.wf (.dma core seq ch offset next)) (Dev.dma core seq ch offset next) s := rfl
theorem exec_dmaWait (core seq ch n : Nat) (s : State) :
    exec (.dmaWait core seq ch n) s = run (Instr.wf (.dmaWait core seq ch n)) (Dev.dmaWait core seq ch n) s := rfl
theorem exec_dmaStat (core seq ch : Nat) (s : State) :
    exec (.dmaStat core seq ch) s = run (Instr.wf (.dmaStat core seq ch)) (Dev.dmaStat core seq ch) s := rfl
theorem exec_dmaClr (core seq ch : Nat) (s : State) :
    exec (.dmaClr core seq ch) s = run (Instr.wf (.dmaClr core seq ch)) (Dev.dmaClr core seq ch) s := rfl
theorem exec_ptWait (core seq n : Nat) (s : State) :
    exec (.ptWait core seq n) s = run (Instr.wf (.ptWait core seq n)) (Dev.ptWait core seq n) s := rfl
theorem exec_ptStat (core seq : Nat) (s : State) :
    exec (.ptStat core seq) s = run (Instr.wf (.ptStat core seq)) (Dev.ptStat core seq) s := rfl
theorem exec_ptClr (core seq : Nat) (s : State) :
    exec (.ptClr core seq) s = run (Instr.wf (.ptClr core seq)) (Dev.ptClr core seq) s := rfl
theorem exec_dmaTransfer (core ch : Nat) (rsp : TierRsp) (s : State) :
    exec (.dmaTransfer core ch rsp) s = run (Instr.wf (.dmaTransfer core ch rsp)) (Dev.dmaTransfer core ch rsp) s := rfl
theorem exec_dmaTransferComplete (core ch : Nat) (s : State) :
    exec (.dmaTransferComplete core ch) s = run (Instr.wf (.dmaTransferComplete core ch)) (Dev.dmaTransferComplete core ch) s := rfl
theorem exec_dmaRetry (core ch : Nat) (addr : Word) (s : State) :
    exec (.dmaRetry core ch addr) s = run (Instr.wf (.dmaRetry core ch addr)) (Dev.dmaRetry core ch addr) s := rfl
theorem exec_remoteWriteArrive (group rank : Nat) (tag : WriteTag) (dst : Word) (data : List Byte) (rsp : TierRsp) (s : State) :
    exec (.remoteWriteArrive group rank tag dst data rsp) s = run (Instr.wf (.remoteWriteArrive group rank tag dst data rsp)) (Dev.remoteWriteArrive group rank tag dst data rsp) s := rfl
theorem exec_dmaCopy (q i : Nat) (rsp : TierRsp) (busErrors : Nat) (addr : Word) (s : State) :
    exec (.dmaCopy q i rsp busErrors addr) s = run (Instr.wf (.dmaCopy q i rsp busErrors addr)) (Dev.dmaCopy q i rsp busErrors addr) s := rfl
theorem exec_flitReceive (port : Nat) (flit : Flit) (symbols : List Nat) (s : State) :
    exec (.flitReceive port flit symbols) s = run (Instr.wf (.flitReceive port flit symbols)) (Dev.flitReceive port flit symbols) s := rfl
theorem exec_replayRequest (port seq : Nat) (s : State) :
    exec (.replayRequest port seq) s = run (Instr.wf (.replayRequest port seq)) (Dev.replayRequest port seq) s := rfl
theorem exec_portTraining (port : Nat) (lanes : BitVec 4) (kx : KeyExchange) (s : State) :
    exec (.portTraining port lanes kx) s = run (Instr.wf (.portTraining port lanes kx)) (Dev.portTraining port lanes kx) s := rfl
theorem exec_laneFail (port : Nat) (s : State) :
    exec (.laneFail port) s = run (Instr.wf (.laneFail port)) (Dev.laneFail port) s := rfl
theorem exec_retrainTimeout (port : Nat) (s : State) :
    exec (.retrainTimeout port) s = run (Instr.wf (.retrainTimeout port)) (Dev.retrainTimeout port) s := rfl
theorem exec_portDown (port : Nat) (s : State) :
    exec (.portDown port) s = run (Instr.wf (.portDown port)) (Dev.portDown port) s := rfl
theorem exec_rekey (port dir : Nat) (kx : KeyExchange) (s : State) :
    exec (.rekey port dir kx) s = run (Instr.wf (.rekey port dir kx)) (Dev.rekey port dir kx) s := rfl
theorem exec_rekeyRetry (port : Nat) (kx : KeyExchange) (s : State) :
    exec (.rekeyRetry port kx) s = run (Instr.wf (.rekeyRetry port kx)) (Dev.rekeyRetry port kx) s := rfl
theorem exec_keyLimitReached (port : Nat) (s : State) :
    exec (.keyLimitReached port) s = run (Instr.wf (.keyLimitReached port)) (Dev.keyLimitReached port) s := rfl
theorem exec_group (q i : Nat) (s : State) :
    exec (.group q i) s = run (Instr.wf (.group q i)) (Dev.groupCreate q i) s := rfl
theorem exec_joinReceive (group rank : Nat) (digest : List Byte) (s : State) :
    exec (.joinReceive group rank digest) s = run (Instr.wf (.joinReceive group rank digest)) (Dev.joinReceive group rank digest) s := rfl
theorem exec_groupJoinTimeout (group : Nat) (s : State) :
    exec (.groupJoinTimeout group) s = run (Instr.wf (.groupJoinTimeout group)) (Dev.groupJoinTimeout group) s := rfl
theorem exec_collDestroy (q i : Nat) (s : State) :
    exec (.collDestroy q i) s = run (Instr.wf (.collDestroy q i)) (Dev.collDestroy q i) s := rfl
theorem exec_allReduce (q i : Nat) (rsp : TierRsp) (s : State) :
    exec (.allReduce q i rsp) s = run (Instr.wf (.allReduce q i rsp)) (Dev.allReduce q i rsp) s := rfl
theorem exec_reduceScatter (q i : Nat) (rsp : TierRsp) (s : State) :
    exec (.reduceScatter q i rsp) s = run (Instr.wf (.reduceScatter q i rsp)) (Dev.reduceScatter q i rsp) s := rfl
theorem exec_allGather (q i : Nat) (rsp : TierRsp) (s : State) :
    exec (.allGather q i rsp) s = run (Instr.wf (.allGather q i rsp)) (Dev.allGather q i rsp) s := rfl
theorem exec_broadcast (q i : Nat) (rsp : TierRsp) (s : State) :
    exec (.broadcast q i rsp) s = run (Instr.wf (.broadcast q i rsp)) (Dev.broadcast q i rsp) s := rfl
theorem exec_barrier (q i : Nat) (s : State) :
    exec (.barrier q i) s = run (Instr.wf (.barrier q i)) (Dev.barrier q i) s := rfl
theorem exec_coll (core seq offset : Nat) (rsp : TierRsp) (s : State) :
    exec (.coll core seq offset rsp) s = run (Instr.wf (.coll core seq offset rsp)) (Dev.coll core seq offset rsp) s := rfl
theorem exec_collWait (core seq group n : Nat) (s : State) :
    exec (.collWait core seq group n) s = run (Instr.wf (.collWait core seq group n)) (Dev.collWait core seq group n) s := rfl
theorem exec_collStat (core seq group : Nat) (s : State) :
    exec (.collStat core seq group) s = run (Instr.wf (.collStat core seq group)) (Dev.collStat core seq group) s := rfl
theorem exec_collOperationComplete (group op : Nat) (rsp : TierRsp) (s : State) :
    exec (.collOperationComplete group op rsp) s = run (Instr.wf (.collOperationComplete group op rsp)) (Dev.collOperationComplete group op rsp) s := rfl
theorem exec_collAbortTimeout (group op : Nat) (s : State) :
    exec (.collAbortTimeout group op) s = run (Instr.wf (.collAbortTimeout group op)) (Dev.collAbortTimeout group op) s := rfl
theorem exec_abortReceive (group op rank cause : Nat) (s : State) :
    exec (.abortReceive group op rank cause) s = run (Instr.wf (.abortReceive group op rank cause)) (Dev.abortReceive group op rank cause) s := rfl
theorem exec_collShareDetach (group op : Nat) (edge : Option Nat) (s : State) :
    exec (.collShareDetach group op edge) s = run (Instr.wf (.collShareDetach group op edge)) (Dev.collShareDetach group op edge) s := rfl
theorem exec_recal (fn port : Nat) (s : State) :
    exec (.recal fn port) s = run (Instr.wf (.recal fn port)) (Dev.recal fn port) s := rfl
theorem exec_recalStart (port : Nat) (s : State) :
    exec (.recalStart port) s = run (Instr.wf (.recalStart port)) (Dev.recalStart port) s := rfl
theorem exec_recalComplete (port : Nat) (lanes : BitVec 4) (s : State) :
    exec (.recalComplete port lanes) s = run (Instr.wf (.recalComplete port lanes)) (Dev.recalComplete port lanes) s := rfl
theorem exec_area (q i : Nat) (s : State) :
    exec (.area q i) s = run (Instr.wf (.area q i)) (Dev.area q i) s := rfl
theorem exec_save (q i : Nat) (s : State) :
    exec (.save q i) s = run (Instr.wf (.save q i)) (Dev.save q i) s := rfl
theorem exec_saveWritesDone (ctx : Nat) (rsp : TierRsp) (s : State) :
    exec (.saveWritesDone ctx rsp) s = run (Instr.wf (.saveWritesDone ctx rsp)) (Dev.saveWritesDone ctx rsp) s := rfl
theorem exec_saveOutcome (ctx : Nat) (rsp : TierRsp) (s : State) :
    exec (.saveOutcome ctx rsp) s = run (Instr.wf (.saveOutcome ctx rsp)) (Dev.saveOutcome ctx rsp) s := rfl
theorem exec_restore (q i : Nat) (rsp : TierRsp) (s : State) :
    exec (.restore q i rsp) s = run (Instr.wf (.restore q i rsp)) (Dev.restore q i rsp) s := rfl
theorem exec_query (q i : Nat) (rsp : TierRsp) (s : State) :
    exec (.query q i rsp) s = run (Instr.wf (.query q i rsp)) (Dev.query q i rsp) s := rfl
theorem exec_ckptJobWrite (fn ctx which : Nat) (value : Word) (s : State) :
    exec (.ckptJobWrite fn ctx which value) s = run (Instr.wf (.ckptJobWrite fn ctx which value)) (Dev.ckptJobWrite fn ctx which value) s := rfl
theorem exec_tenCreate (fn tenant : Nat) (value : Word) (s : State) :
    exec (.tenCreate fn tenant value) s = run (Instr.wf (.tenCreate fn tenant value)) (Dev.tenCreate fn tenant value) s := rfl
theorem exec_ctxReset (fn ctx : Nat) (s : State) :
    exec (.ctxReset fn ctx) s = run (Instr.wf (.ctxReset fn ctx)) (Dev.ctxReset fn ctx) s := rfl
theorem exec_ctxDestroy (fn ctx : Nat) (s : State) :
    exec (.ctxDestroy fn ctx) s = run (Instr.wf (.ctxDestroy fn ctx)) (Dev.ctxDestroy fn ctx) s := rfl
theorem exec_ctxTeardown (ctx : Nat) (s : State) :
    exec (.ctxTeardown ctx) s = run (Instr.wf (.ctxTeardown ctx)) (Dev.ctxTeardown ctx) s := rfl
theorem exec_tenantReset (fn tenant : Nat) (s : State) :
    exec (.tenantReset fn tenant) s = run (Instr.wf (.tenantReset fn tenant)) (Dev.tenantReset fn tenant) s := rfl
theorem exec_tenCfgWrite (fn tenant : Nat) (value : Word) (s : State) :
    exec (.tenCfgWrite fn tenant value) s = run (Instr.wf (.tenCfgWrite fn tenant value)) (Dev.tenCfgWrite fn tenant value) s := rfl
theorem exec_cores (q i : Nat) (s : State) :
    exec (.cores q i) s = run (Instr.wf (.cores q i)) (Dev.coresRequest q i) s := rfl
theorem exec_coresApply (ctx : Nat) (s : State) :
    exec (.coresApply ctx) s = run (Instr.wf (.coresApply ctx)) (Dev.coresApply ctx) s := rfl
theorem exec_queDb (fn q tail : Nat) (s : State) :
    exec (.queDb fn q tail) s = run (Instr.wf (.queDb fn q tail)) (Dev.queDb fn q tail) s := rfl
theorem exec_queCqDb (fn q head : Nat) (s : State) :
    exec (.queCqDb fn q head) s = run (Instr.wf (.queCqDb fn q head)) (Dev.queCqDb fn q head) s := rfl
theorem exec_queEnable (fn q : Nat) (value : Word) (s : State) :
    exec (.queEnable fn q value) s = run (Instr.wf (.queEnable fn q value)) (Dev.queEnable fn q value) s := rfl
theorem exec_queDisable (fn q : Nat) (value : Word) (s : State) :
    exec (.queDisable fn q value) s = run (Instr.wf (.queDisable fn q value)) (Dev.queDisable fn q value) s := rfl
theorem exec_descriptorTake (ctx : Nat) (lost : Bool) (s : State) :
    exec (.descriptorTake ctx lost) s = run (Instr.wf (.descriptorTake ctx lost)) (Dev.descriptorTake ctx lost) s := rfl
theorem exec_completionWrite (q : Nat) (s : State) :
    exec (.completionWrite q) s = run (Instr.wf (.completionWrite q)) (Dev.completionWrite q) s := rfl
theorem exec_topo (q i : Nat) (rsp : TierRsp) (s : State) :
    exec (.topo q i rsp) s = run (Instr.wf (.topo q i rsp)) (Dev.topo q i rsp) s := rfl
theorem exec_base (q i : Nat) (s : State) :
    exec (.base q i) s = run (Instr.wf (.base q i)) (Dev.base q i) s := rfl
theorem exec_win (q i : Nat) (s : State) :
    exec (.win q i) s = run (Instr.wf (.win q i)) (Dev.win q i) s := rfl
theorem exec_power (q i : Nat) (s : State) :
    exec (.power q i) s = run (Instr.wf (.power q i)) (Dev.envPower q i) s := rfl
theorem exec_thermal (q i : Nat) (s : State) :
    exec (.thermal q i) s = run (Instr.wf (.thermal q i)) (Dev.thermal q i) s := rfl
theorem exec_detach (q i : Nat) (s : State) :
    exec (.detach q i) s = run (Instr.wf (.detach q i)) (Dev.detach q i) s := rfl
theorem exec_hostWindowRead (fn offset len : Nat) (mem : Bool) (rsp : TierRsp) (s : State) :
    exec (.hostWindowRead fn offset len mem rsp) s = run (Instr.wf (.hostWindowRead fn offset len mem rsp)) (Dev.hostWindowRead fn offset len mem rsp) s := rfl
theorem exec_hostWindowWrite (fn offset : Nat) (mem : Bool) (data : List Byte) (rsp : TierRsp) (s : State) :
    exec (.hostWindowWrite fn offset mem data rsp) s = run (Instr.wf (.hostWindowWrite fn offset mem data rsp)) (Dev.hostWindowWrite fn offset mem data rsp) s := rfl
theorem exec_linkL0Timeout (s : State) :
    exec (.linkL0Timeout) s = run (Instr.wf (.linkL0Timeout)) (Dev.linkL0Timeout) s := rfl
theorem exec_ideFailure (s : State) :
    exec (.ideFailure) s = run (Instr.wf (.ideFailure)) (Dev.ideFailure) s := rfl
theorem exec_viral (s : State) :
    exec (.viral) s = run (Instr.wf (.viral)) (Dev.viral) s := rfl
theorem exec_reattach (fn : Nat) (s : State) :
    exec (.reattach fn) s = run (Instr.wf (.reattach fn)) (Dev.reattach fn) s := rfl
theorem exec_hostAttach (s : State) :
    exec (.hostAttach) s = run (Instr.wf (.hostAttach)) (Dev.hostAttach) s := rfl
theorem exec_hostLinkTrainingStart (s : State) :
    exec (.hostLinkTrainingStart) s = run (Instr.wf (.hostLinkTrainingStart)) (Dev.hostLinkTrainingStart) s := rfl
theorem exec_flr (kind : FlrKind) (s : State) :
    exec (.flr kind) s = run (Instr.wf (.flr kind)) (Dev.flr kind) s := rfl
theorem exec_tenKeyLoad (fn tenant : Nat) (addr : Word) (s : State) :
    exec (.tenKeyLoad fn tenant addr) s = run (Instr.wf (.tenKeyLoad fn tenant addr)) (Dev.tenKeyLoad fn tenant addr) s := rfl
theorem exec_tenRpt (fn tenant : Nat) (addr : Word) (s : State) :
    exec (.tenRpt fn tenant addr) s = run (Instr.wf (.tenRpt fn tenant addr)) (Dev.tenRpt fn tenant addr) s := rfl
theorem exec_erase (fn tenant : Nat) (s : State) :
    exec (.erase fn tenant) s = run (Instr.wf (.erase fn tenant)) (Dev.erase fn tenant) s := rfl
theorem exec_commitSvn (fn : Nat) (flashOk : Bool) (s : State) :
    exec (.commitSvn fn flashOk) s = runFlash (Instr.wf (.commitSvn fn flashOk)) (Dev.commitSvn fn flashOk) s := rfl
theorem exec_getVersion (req : List Byte) (s : State) :
    exec (.getVersion req) s = run (Instr.wf (.getVersion req)) (Dev.getVersion req) s := rfl
theorem exec_getCapabilities (req : List Byte) (s : State) :
    exec (.getCapabilities req) s = run (Instr.wf (.getCapabilities req)) (Dev.getCapabilities req) s := rfl
theorem exec_negotiateAlgorithms (req : List Byte) (falcon shake kem : Bool) (s : State) :
    exec (.negotiateAlgorithms req falcon shake kem) s = run (Instr.wf (.negotiateAlgorithms req falcon shake kem)) (Dev.negotiateAlgorithms req falcon shake kem) s := rfl
theorem exec_getDigests (req : List Byte) (s : State) :
    exec (.getDigests req) s = run (Instr.wf (.getDigests req)) (Dev.getDigests req) s := rfl
theorem exec_getCertificate (req : List Byte) (slot offset len : Nat) (s : State) :
    exec (.getCertificate req slot offset len) s = run (Instr.wf (.getCertificate req slot offset len)) (Dev.getCertificate req slot offset len) s := rfl
theorem exec_challenge (req : List Byte) (slot : Nat) (s : State) :
    exec (.challenge req slot) s = run (Instr.wf (.challenge req slot)) (Dev.challenge req slot) s := rfl
theorem exec_getMeasurements (req : List Byte) (index : Nat) (s : State) :
    exec (.getMeasurements req index) s = run (Instr.wf (.getMeasurements req index)) (Dev.getMeasurements req index) s := rfl
theorem exec_keyExchange (req : List Byte) (kemOffered : Bool) (s : State) :
    exec (.keyExchange req kemOffered) s = run (Instr.wf (.keyExchange req kemOffered)) (Dev.keyExchange req kemOffered) s := rfl
theorem exec_finish (req : List Byte) (session : Nat) (ok : Bool) (s : State) :
    exec (.finish req session ok) s = run (Instr.wf (.finish req session ok)) (Dev.finish req session ok) s := rfl
theorem exec_endSession (req : List Byte) (session : Nat) (s : State) :
    exec (.endSession req session) s = run (Instr.wf (.endSession req session)) (Dev.endSession req session) s := rfl
theorem exec_heartbeat (req : List Byte) (session : Nat) (s : State) :
    exec (.heartbeat req session) s = run (Instr.wf (.heartbeat req session)) (Dev.heartbeat req session) s := rfl
theorem exec_keyUpdate (req : List Byte) (session : Nat) (s : State) :
    exec (.keyUpdate req session) s = run (Instr.wf (.keyUpdate req session)) (Dev.keyUpdate req session) s := rfl
theorem exec_chunkSend (req : List Byte) (handle seqNo : Nat) (last : Bool) (s : State) :
    exec (.chunkSend req handle seqNo last) s = run (Instr.wf (.chunkSend req handle seqNo last)) (Dev.chunkSend req handle seqNo last) s := rfl
theorem exec_chunkGet (req : List Byte) (handle seqNo : Nat) (s : State) :
    exec (.chunkGet req handle seqNo) s = run (Instr.wf (.chunkGet req handle seqNo)) (Dev.chunkGet req handle seqNo) s := rfl
theorem exec_ideKm (req : List Byte) (session : Nat) (cachemem : Bool) (s : State) :
    exec (.ideKm req session cachemem) s = run (Instr.wf (.ideKm req session cachemem)) (Dev.ideKm req session cachemem) s := rfl
theorem exec_noiseHealthFailure (s : State) :
    exec (.noiseHealthFailure) s = run (Instr.wf (.noiseHealthFailure)) (Dev.noiseHealthFailure) s := rfl
theorem exec_coldReset (puf : List Byte) (s : State) :
    exec (.coldReset puf) s = runFlash (Instr.wf (.coldReset puf)) (Dev.coldReset puf) s := rfl
theorem exec_recover (image : List Byte) (s : State) :
    exec (.recover image) s = runFlash (Instr.wf (.recover image)) (Dev.recover image) s := rfl
theorem exec_warmReset (s : State) :
    exec (.warmReset) s = run (Instr.wf (.warmReset)) (Dev.warmReset) s := rfl
theorem exec_version (s : State) :
    exec (.version) s = run (Instr.wf (.version)) (Dev.version) s := rfl
theorem exec_flashWrite (s : State) :
    exec (.flashWrite) s = runFlash (Instr.wf (.flashWrite)) (Dev.flashWrite) s := rfl
theorem exec_removeCore (s : State) :
    exec (.removeCore) s = run (Instr.wf (.removeCore)) (Dev.removeCoreCmd) s := rfl
theorem exec_timeRole (s : State) :
    exec (.timeRole) s = run (Instr.wf (.timeRole)) (Dev.timeRole) s := rfl
theorem exec_logRead (s : State) :
    exec (.logRead) s = run (Instr.wf (.logRead)) (Dev.logRead) s := rfl
theorem exec_mbxWarmReset (s : State) :
    exec (.mbxWarmReset) s = run (Instr.wf (.mbxWarmReset)) (Dev.mbxWarmReset) s := rfl
theorem exec_wakeRequest (domain : Nat) (s : State) :
    exec (.wakeRequest domain) s = run (Instr.wf (.wakeRequest domain)) (Dev.wakeRequest domain) s := rfl
theorem exec_wakeGrant (s : State) :
    exec (.wakeGrant) s = run (Instr.wf (.wakeGrant)) (Dev.wakeGrant) s := rfl
theorem exec_tokenRefill (s : State) :
    exec (.tokenRefill) s = run (Instr.wf (.tokenRefill)) (Dev.tokenRefill) s := rfl
theorem exec_domainIdleOff (domain : Nat) (s : State) :
    exec (.domainIdleOff domain) s = run (Instr.wf (.domainIdleOff domain)) (Dev.domainIdleOff domain) s := rfl
theorem exec_selfThrottleSample (domain : Nat) (temp : Int) (s : State) :
    exec (.selfThrottleSample domain temp) s = run (Instr.wf (.selfThrottleSample domain temp)) (Dev.selfThrottleSample domain temp) s := rfl
theorem exec_junctionClampStep (domain : Nat) (temp : Int) (s : State) :
    exec (.junctionClampStep domain temp) s = run (Instr.wf (.junctionClampStep domain temp)) (Dev.junctionClampStep domain temp) s := rfl
theorem exec_packageFloorSample (watts : Nat) (s : State) :
    exec (.packageFloorSample watts) s = run (Instr.wf (.packageFloorSample watts)) (Dev.packageFloorSample watts) s := rfl
theorem exec_currentClamp (rail milliamps : Nat) (s : State) :
    exec (.currentClamp rail milliamps) s = run (Instr.wf (.currentClamp rail milliamps)) (Dev.currentClamp rail milliamps) s := rfl
theorem exec_thermalShutdown (die : Nat) (s : State) :
    exec (.thermalShutdown die) s = run (Instr.wf (.thermalShutdown die)) (Dev.thermalShutdown die) s := rfl
theorem exec_railMonitorTrip (rail : Nat) (s : State) :
    exec (.railMonitorTrip rail) s = run (Instr.wf (.railMonitorTrip rail)) (Dev.railMonitorTrip rail) s := rfl
theorem exec_powerLoss (s : State) :
    exec (.powerLoss) s = run (Instr.wf (.powerLoss)) (Dev.powerLoss) s := rfl
theorem exec_beaconSend (s : State) :
    exec (.beaconSend) s = run (Instr.wf (.beaconSend)) (Dev.beaconSend) s := rfl
theorem exec_beaconReceive (port rank hop time : Nat) (s : State) :
    exec (.beaconReceive port rank hop time) s = run (Instr.wf (.beaconReceive port rank hop time)) (Dev.beaconReceive port rank hop time) s := rfl
theorem exec_linkDelayMeasure (port delayPs : Nat) (s : State) :
    exec (.linkDelayMeasure port delayPs) s = run (Instr.wf (.linkDelayMeasure port delayPs)) (Dev.linkDelayMeasure port delayPs) s := rfl
theorem exec_holdover (s : State) :
    exec (.holdover) s = run (Instr.wf (.holdover)) (Dev.holdover) s := rfl
theorem exec_timeAdj (fn : Nat) (value : Word) (s : State) :
    exec (.timeAdj fn value) s = run (Instr.wf (.timeAdj fn value)) (Dev.timeAdj fn value) s := rfl
theorem exec_tsyncInEdge (time : Nat) (s : State) :
    exec (.tsyncInEdge time) s = run (Instr.wf (.tsyncInEdge time)) (Dev.tsyncInEdge time) s := rfl
theorem exec_wholeSecond (s : State) :
    exec (.wholeSecond) s = run (Instr.wf (.wholeSecond)) (Dev.wholeSecond) s := rfl
theorem exec_timeNowRead (fn : Nat) (half : Option Bool) (s : State) :
    exec (.timeNowRead fn half) s = run (Instr.wf (.timeNowRead fn half)) (Dev.timeNowRead fn half) s := rfl
theorem exec_timeHostInRead (fn : Nat) (wide : Bool) (departNs : Nat) (s : State) :
    exec (.timeHostInRead fn wide departNs) s = run (Instr.wf (.timeHostInRead fn wide departNs)) (Dev.timeHostInRead fn wide departNs) s := rfl
theorem exec_selftest (q i : Nat) (s : State) :
    exec (.selftest q i) s = run (Instr.wf (.selftest q i)) (Dev.selftest q i) s := rfl
theorem exec_selftestStart (block index : Nat) (s : State) :
    exec (.selftestStart block index) s = run (Instr.wf (.selftestStart block index)) (Dev.selftestStart block index) s := rfl
theorem exec_selftestDone (block index part timeUs : Nat) (s : State) :
    exec (.selftestDone block index part timeUs) s = run (Instr.wf (.selftestDone block index part timeUs)) (Dev.selftestDone block index part timeUs) s := rfl
theorem exec_selftestWaitExpiry (block index : Nat) (s : State) :
    exec (.selftestWaitExpiry block index) s = run (Instr.wf (.selftestWaitExpiry block index)) (Dev.selftestWaitExpiry block index) s := rfl
theorem exec_regWrite (fn bar offset : Nat) (wide : Bool) (value : Word) (s : State) :
    exec (.regWrite fn bar offset wide value) s = run (Instr.wf (.regWrite fn bar offset wide value)) (Dev.regWrite fn bar offset wide value) s := rfl
theorem exec_hostLinkTrained (width rate : Nat) (s : State) :
    exec (.hostLinkTrained width rate) s = run (Instr.wf (.hostLinkTrained width rate)) (Dev.hostLinkTrained width rate) s := rfl
theorem exec_configRequest (fn : Nat) (s : State) :
    exec (.configRequest fn) s = run (Instr.wf (.configRequest fn)) (Dev.configRequest fn) s := rfl
theorem exec_currentClampRelease (rail : Nat) (s : State) :
    exec (.currentClampRelease rail) s = run (Instr.wf (.currentClampRelease rail)) (Dev.currentClampRelease rail) s := rfl
theorem exec_resetPinAssert (s : State) :
    exec (.resetPinAssert) s = run (Instr.wf (.resetPinAssert)) (Dev.resetPinAssert) s := rfl
theorem exec_firmwareSelftest (block index level : Nat) (s : State) :
    exec (.firmwareSelftest block index level) s = run (Instr.wf (.firmwareSelftest block index level)) (Dev.firmwareSelftest block index level) s := rfl

/-- A command runs on the device alone, or, where it uses the flash, on the flash and the device; nothing else. -/
def Shape (i : Instr) : Prop :=
  (∃ f, ∀ s, exec i s = run i.wf f s) ∨ usesFlash i = true ∧ ∃ f, ∀ s, exec i s = runFlash i.wf f s

/-- All that a command can do to a state. -/
theorem exec_shape (i : Instr) : Shape i :=
  match i with
  | .launch _ _ => .inl ⟨_, exec_launch _ _⟩
  | .clausePlace _ => .inl ⟨_, exec_clausePlace _⟩
  | .clauseComplete _ _ _ => .inl ⟨_, exec_clauseComplete _ _ _⟩
  | .handlePush _ _ _ _ => .inl ⟨_, exec_handlePush _ _ _ _⟩
  | .handlePop _ _ _ => .inl ⟨_, exec_handlePop _ _ _⟩
  | .learningFullStop _ _ => .inl ⟨_, exec_learningFullStop _ _⟩
  | .barrierMet _ _ => .inl ⟨_, exec_barrierMet _ _⟩
  | .barrierAbort _ => .inl ⟨_, exec_barrierAbort _⟩
  | .generationFullStop _ => .inl ⟨_, exec_generationFullStop _⟩
  | .coreReset _ => .inl ⟨_, exec_coreReset _⟩
  | .coreRemove _ => .inl ⟨_, exec_coreRemove _⟩
  | .cntClrStall _ _ => .inl ⟨_, exec_cntClrStall _ _⟩
  | .cntClrLag _ _ => .inl ⟨_, exec_cntClrLag _ _⟩
  | .cntClrWcet _ _ => .inl ⟨_, exec_cntClrWcet _ _⟩
  | .matrixInstruction _ _ _ _ => .inl ⟨_, exec_matrixInstruction _ _ _ _⟩
  | .engineOutputWrite _ _ _ _ => .inl ⟨_, exec_engineOutputWrite _ _ _ _⟩
  | .conversionInstruction _ _ _ _ => .inl ⟨_, exec_conversionInstruction _ _ _ _⟩
  | .scaleFormingInstruction _ _ _ _ => .inl ⟨_, exec_scaleFormingInstruction _ _ _ _⟩
  | .attentionInstruction _ _ _ _ => .inl ⟨_, exec_attentionInstruction _ _ _ _⟩
  | .attentionBackward _ _ _ _ => .inl ⟨_, exec_attentionBackward _ _ _ _⟩
  | .activationInstruction _ _ _ _ => .inl ⟨_, exec_activationInstruction _ _ _ _⟩
  | .activationBackward _ _ _ _ => .inl ⟨_, exec_activationBackward _ _ _ _⟩
  | .dropoutInstruction _ _ _ _ => .inl ⟨_, exec_dropoutInstruction _ _ _ _⟩
  | .normBackward _ _ _ _ => .inl ⟨_, exec_normBackward _ _ _ _⟩
  | .vocabHeadInstruction _ _ _ _ => .inl ⟨_, exec_vocabHeadInstruction _ _ _ _⟩
  | .vocabHeadBackward _ _ _ _ => .inl ⟨_, exec_vocabHeadBackward _ _ _ _⟩
  | .vectorDraw _ _ _ => .inl ⟨_, exec_vectorDraw _ _ _⟩
  | .kvAppendWrite _ _ _ _ => .inl ⟨_, exec_kvAppendWrite _ _ _ _⟩
  | .start _ _ => .inl ⟨_, exec_start _ _⟩
  | .cancel _ _ => .inl ⟨_, exec_cancel _ _⟩
  | .pause _ _ => .inl ⟨_, exec_pause _ _⟩
  | .resume _ _ => .inl ⟨_, exec_resume _ _⟩
  | .pool _ _ => .inl ⟨_, exec_pool _ _⟩
  | .mask _ _ => .inl ⟨_, exec_mask _ _⟩
  | .prefillStep _ _ _ => .inl ⟨_, exec_prefillStep _ _ _⟩
  | .decodeStep _ _ _ _ => .inl ⟨_, exec_decodeStep _ _ _ _⟩
  | .stepBoundary _ _ => .inl ⟨_, exec_stepBoundary _ _⟩
  | .promptShipped _ _ => .inl ⟨_, exec_promptShipped _ _⟩
  | .remotePrefillRefused _ _ => .inl ⟨_, exec_remotePrefillRefused _ _⟩
  | .pauseMoveDone _ _ => .inl ⟨_, exec_pauseMoveDone _ _⟩
  | .resumeMoveDone _ _ => .inl ⟨_, exec_resumeMoveDone _ _⟩
  | .ttlExpire _ _ => .inl ⟨_, exec_ttlExpire _ _⟩
  | .evict _ _ => .inl ⟨_, exec_evict _ _⟩
  | .kvBaseWrite _ _ _ _ => .inl ⟨_, exec_kvBaseWrite _ _ _ _⟩
  | .kvPoolWrite _ _ _ => .inl ⟨_, exec_kvPoolWrite _ _ _⟩
  | .silCreate _ _ => .inl ⟨_, exec_silCreate _ _⟩
  | .silDestroy _ _ => .inl ⟨_, exec_silDestroy _ _⟩
  | .silAppend _ _ _ => .inl ⟨_, exec_silAppend _ _ _⟩
  | .silDraw _ _ _ => .inl ⟨_, exec_silDraw _ _ _⟩
  | .recordCommit _ _ => .inl ⟨_, exec_recordCommit _ _⟩
  | .lrnStepWrite _ _ _ => .inl ⟨_, exec_lrnStepWrite _ _ _⟩
  | .upd _ _ _ _ => .inl ⟨_, exec_upd _ _ _ _⟩
  | .apply _ _ _ => .inl ⟨_, exec_apply _ _ _⟩
  | .watch _ _ => .inl ⟨_, exec_watch _ _⟩
  | .unwatch _ _ => .inl ⟨_, exec_unwatch _ _⟩
  | .reduce _ _ => .inl ⟨_, exec_reduce _ _⟩
  | .updChunk _ _ _ _ => .inl ⟨_, exec_updChunk _ _ _ _⟩
  | .factPassB _ _ => .inl ⟨_, exec_factPassB _ _⟩
  | .updComplete _ _ => .inl ⟨_, exec_updComplete _ _⟩
  | .wsCreate _ _ _ => .inl ⟨_, exec_wsCreate _ _ _⟩
  | .send _ _ _ => .inl ⟨_, exec_send _ _ _⟩
  | .sendComplete _ _ => .inl ⟨_, exec_sendComplete _ _⟩
  | .wsDestroy _ _ => .inl ⟨_, exec_wsDestroy _ _⟩
  | .await _ _ => .inl ⟨_, exec_await _ _⟩
  | .accordFlitArrive _ _ => .inl ⟨_, exec_accordFlitArrive _ _⟩
  | .bankRelease _ => .inl ⟨_, exec_bankRelease _⟩
  | .shareDetach _ _ _ _ => .inl ⟨_, exec_shareDetach _ _ _ _⟩
  | .detachFlitArrive _ => .inl ⟨_, exec_detachFlitArrive _⟩
  | .asmTmo _ => .inl ⟨_, exec_asmTmo _⟩
  | .map _ _ => .inl ⟨_, exec_map _ _⟩
  | .unmap _ _ => .inl ⟨_, exec_unmap _ _⟩
  | .move _ _ => .inl ⟨_, exec_move _ _⟩
  | .hint _ _ => .inl ⟨_, exec_hint _ _⟩
  | .moveGranule _ _ _ => .inl ⟨_, exec_moveGranule _ _ _⟩
  | .tierRequestComplete _ _ _ => .inl ⟨_, exec_tierRequestComplete _ _ _⟩
  | .tierTimeoutExpiry _ _ => .inl ⟨_, exec_tierTimeoutExpiry _ _⟩
  | .patrolScrub _ _ _ _ _ => .inl ⟨_, exec_patrolScrub _ _ _ _ _⟩
  | .tierQuotaWrite _ _ _ _ => .inl ⟨_, exec_tierQuotaWrite _ _ _ _⟩
  | .tierProbe _ _ _ => .inl ⟨_, exec_tierProbe _ _ _⟩
  | .dma _ _ _ _ _ => .inl ⟨_, exec_dma _ _ _ _ _⟩
  | .dmaWait _ _ _ _ => .inl ⟨_, exec_dmaWait _ _ _ _⟩
  | .dmaStat _ _ _ => .inl ⟨_, exec_dmaStat _ _ _⟩
  | .dmaClr _ _ _ => .inl ⟨_, exec_dmaClr _ _ _⟩
  | .ptWait _ _ _ => .inl ⟨_, exec_ptWait _ _ _⟩
  | .ptStat _ _ => .inl ⟨_, exec_ptStat _ _⟩
  | .ptClr _ _ => .inl ⟨_, exec_ptClr _ _⟩
  | .dmaTransfer _ _ _ => .inl ⟨_, exec_dmaTransfer _ _ _⟩
  | .dmaTransferComplete _ _ => .inl ⟨_, exec_dmaTransferComplete _ _⟩
  | .dmaRetry _ _ _ => .inl ⟨_, exec_dmaRetry _ _ _⟩
  | .remoteWriteArrive _ _ _ _ _ _ => .inl ⟨_, exec_remoteWriteArrive _ _ _ _ _ _⟩
  | .dmaCopy _ _ _ _ _ => .inl ⟨_, exec_dmaCopy _ _ _ _ _⟩
  | .flitReceive _ _ _ => .inl ⟨_, exec_flitReceive _ _ _⟩
  | .replayRequest _ _ => .inl ⟨_, exec_replayRequest _ _⟩
  | .portTraining _ _ _ => .inl ⟨_, exec_portTraining _ _ _⟩
  | .laneFail _ => .inl ⟨_, exec_laneFail _⟩
  | .retrainTimeout _ => .inl ⟨_, exec_retrainTimeout _⟩
  | .portDown _ => .inl ⟨_, exec_portDown _⟩
  | .rekey _ _ _ => .inl ⟨_, exec_rekey _ _ _⟩
  | .rekeyRetry _ _ => .inl ⟨_, exec_rekeyRetry _ _⟩
  | .keyLimitReached _ => .inl ⟨_, exec_keyLimitReached _⟩
  | .group _ _ => .inl ⟨_, exec_group _ _⟩
  | .joinReceive _ _ _ => .inl ⟨_, exec_joinReceive _ _ _⟩
  | .groupJoinTimeout _ => .inl ⟨_, exec_groupJoinTimeout _⟩
  | .collDestroy _ _ => .inl ⟨_, exec_collDestroy _ _⟩
  | .allReduce _ _ _ => .inl ⟨_, exec_allReduce _ _ _⟩
  | .reduceScatter _ _ _ => .inl ⟨_, exec_reduceScatter _ _ _⟩
  | .allGather _ _ _ => .inl ⟨_, exec_allGather _ _ _⟩
  | .broadcast _ _ _ => .inl ⟨_, exec_broadcast _ _ _⟩
  | .barrier _ _ => .inl ⟨_, exec_barrier _ _⟩
  | .coll _ _ _ _ => .inl ⟨_, exec_coll _ _ _ _⟩
  | .collWait _ _ _ _ => .inl ⟨_, exec_collWait _ _ _ _⟩
  | .collStat _ _ _ => .inl ⟨_, exec_collStat _ _ _⟩
  | .collOperationComplete _ _ _ => .inl ⟨_, exec_collOperationComplete _ _ _⟩
  | .collAbortTimeout _ _ => .inl ⟨_, exec_collAbortTimeout _ _⟩
  | .abortReceive _ _ _ _ => .inl ⟨_, exec_abortReceive _ _ _ _⟩
  | .collShareDetach _ _ _ => .inl ⟨_, exec_collShareDetach _ _ _⟩
  | .recal _ _ => .inl ⟨_, exec_recal _ _⟩
  | .recalStart _ => .inl ⟨_, exec_recalStart _⟩
  | .recalComplete _ _ => .inl ⟨_, exec_recalComplete _ _⟩
  | .area _ _ => .inl ⟨_, exec_area _ _⟩
  | .save _ _ => .inl ⟨_, exec_save _ _⟩
  | .saveWritesDone _ _ => .inl ⟨_, exec_saveWritesDone _ _⟩
  | .saveOutcome _ _ => .inl ⟨_, exec_saveOutcome _ _⟩
  | .restore _ _ _ => .inl ⟨_, exec_restore _ _ _⟩
  | .query _ _ _ => .inl ⟨_, exec_query _ _ _⟩
  | .ckptJobWrite _ _ _ _ => .inl ⟨_, exec_ckptJobWrite _ _ _ _⟩
  | .tenCreate _ _ _ => .inl ⟨_, exec_tenCreate _ _ _⟩
  | .ctxReset _ _ => .inl ⟨_, exec_ctxReset _ _⟩
  | .ctxDestroy _ _ => .inl ⟨_, exec_ctxDestroy _ _⟩
  | .ctxTeardown _ => .inl ⟨_, exec_ctxTeardown _⟩
  | .tenantReset _ _ => .inl ⟨_, exec_tenantReset _ _⟩
  | .tenCfgWrite _ _ _ => .inl ⟨_, exec_tenCfgWrite _ _ _⟩
  | .cores _ _ => .inl ⟨_, exec_cores _ _⟩
  | .coresApply _ => .inl ⟨_, exec_coresApply _⟩
  | .queDb _ _ _ => .inl ⟨_, exec_queDb _ _ _⟩
  | .queCqDb _ _ _ => .inl ⟨_, exec_queCqDb _ _ _⟩
  | .queEnable _ _ _ => .inl ⟨_, exec_queEnable _ _ _⟩
  | .queDisable _ _ _ => .inl ⟨_, exec_queDisable _ _ _⟩
  | .descriptorTake _ _ => .inl ⟨_, exec_descriptorTake _ _⟩
  | .completionWrite _ => .inl ⟨_, exec_completionWrite _⟩
  | .topo _ _ _ => .inl ⟨_, exec_topo _ _ _⟩
  | .base _ _ => .inl ⟨_, exec_base _ _⟩
  | .win _ _ => .inl ⟨_, exec_win _ _⟩
  | .power _ _ => .inl ⟨_, exec_power _ _⟩
  | .thermal _ _ => .inl ⟨_, exec_thermal _ _⟩
  | .detach _ _ => .inl ⟨_, exec_detach _ _⟩
  | .hostWindowRead _ _ _ _ _ => .inl ⟨_, exec_hostWindowRead _ _ _ _ _⟩
  | .hostWindowWrite _ _ _ _ _ => .inl ⟨_, exec_hostWindowWrite _ _ _ _ _⟩
  | .linkL0Timeout => .inl ⟨_, exec_linkL0Timeout⟩
  | .ideFailure => .inl ⟨_, exec_ideFailure⟩
  | .viral => .inl ⟨_, exec_viral⟩
  | .reattach _ => .inl ⟨_, exec_reattach _⟩
  | .hostAttach => .inl ⟨_, exec_hostAttach⟩
  | .hostLinkTrainingStart => .inl ⟨_, exec_hostLinkTrainingStart⟩
  | .flr _ => .inl ⟨_, exec_flr _⟩
  | .tenKeyLoad _ _ _ => .inl ⟨_, exec_tenKeyLoad _ _ _⟩
  | .tenRpt _ _ _ => .inl ⟨_, exec_tenRpt _ _ _⟩
  | .erase _ _ => .inl ⟨_, exec_erase _ _⟩
  | .commitSvn _ _ => .inr ⟨rfl, _, exec_commitSvn _ _⟩
  | .getVersion _ => .inl ⟨_, exec_getVersion _⟩
  | .getCapabilities _ => .inl ⟨_, exec_getCapabilities _⟩
  | .negotiateAlgorithms _ _ _ _ => .inl ⟨_, exec_negotiateAlgorithms _ _ _ _⟩
  | .getDigests _ => .inl ⟨_, exec_getDigests _⟩
  | .getCertificate _ _ _ _ => .inl ⟨_, exec_getCertificate _ _ _ _⟩
  | .challenge _ _ => .inl ⟨_, exec_challenge _ _⟩
  | .getMeasurements _ _ => .inl ⟨_, exec_getMeasurements _ _⟩
  | .keyExchange _ _ => .inl ⟨_, exec_keyExchange _ _⟩
  | .finish _ _ _ => .inl ⟨_, exec_finish _ _ _⟩
  | .endSession _ _ => .inl ⟨_, exec_endSession _ _⟩
  | .heartbeat _ _ => .inl ⟨_, exec_heartbeat _ _⟩
  | .keyUpdate _ _ => .inl ⟨_, exec_keyUpdate _ _⟩
  | .chunkSend _ _ _ _ => .inl ⟨_, exec_chunkSend _ _ _ _⟩
  | .chunkGet _ _ _ => .inl ⟨_, exec_chunkGet _ _ _⟩
  | .ideKm _ _ _ => .inl ⟨_, exec_ideKm _ _ _⟩
  | .noiseHealthFailure => .inl ⟨_, exec_noiseHealthFailure⟩
  | .coldReset _ => .inr ⟨rfl, _, exec_coldReset _⟩
  | .recover _ => .inr ⟨rfl, _, exec_recover _⟩
  | .warmReset => .inl ⟨_, exec_warmReset⟩
  | .version => .inl ⟨_, exec_version⟩
  | .flashWrite => .inr ⟨rfl, _, exec_flashWrite⟩
  | .removeCore => .inl ⟨_, exec_removeCore⟩
  | .timeRole => .inl ⟨_, exec_timeRole⟩
  | .logRead => .inl ⟨_, exec_logRead⟩
  | .mbxWarmReset => .inl ⟨_, exec_mbxWarmReset⟩
  | .wakeRequest _ => .inl ⟨_, exec_wakeRequest _⟩
  | .wakeGrant => .inl ⟨_, exec_wakeGrant⟩
  | .tokenRefill => .inl ⟨_, exec_tokenRefill⟩
  | .domainIdleOff _ => .inl ⟨_, exec_domainIdleOff _⟩
  | .selfThrottleSample _ _ => .inl ⟨_, exec_selfThrottleSample _ _⟩
  | .junctionClampStep _ _ => .inl ⟨_, exec_junctionClampStep _ _⟩
  | .packageFloorSample _ => .inl ⟨_, exec_packageFloorSample _⟩
  | .currentClamp _ _ => .inl ⟨_, exec_currentClamp _ _⟩
  | .thermalShutdown _ => .inl ⟨_, exec_thermalShutdown _⟩
  | .railMonitorTrip _ => .inl ⟨_, exec_railMonitorTrip _⟩
  | .powerLoss => .inl ⟨_, exec_powerLoss⟩
  | .beaconSend => .inl ⟨_, exec_beaconSend⟩
  | .beaconReceive _ _ _ _ => .inl ⟨_, exec_beaconReceive _ _ _ _⟩
  | .linkDelayMeasure _ _ => .inl ⟨_, exec_linkDelayMeasure _ _⟩
  | .holdover => .inl ⟨_, exec_holdover⟩
  | .timeAdj _ _ => .inl ⟨_, exec_timeAdj _ _⟩
  | .tsyncInEdge _ => .inl ⟨_, exec_tsyncInEdge _⟩
  | .wholeSecond => .inl ⟨_, exec_wholeSecond⟩
  | .timeNowRead _ _ => .inl ⟨_, exec_timeNowRead _ _⟩
  | .timeHostInRead _ _ _ => .inl ⟨_, exec_timeHostInRead _ _ _⟩
  | .selftest _ _ => .inl ⟨_, exec_selftest _ _⟩
  | .selftestStart _ _ => .inl ⟨_, exec_selftestStart _ _⟩
  | .selftestDone _ _ _ _ => .inl ⟨_, exec_selftestDone _ _ _ _⟩
  | .selftestWaitExpiry _ _ => .inl ⟨_, exec_selftestWaitExpiry _ _⟩
  | .regWrite _ _ _ _ _ => .inl ⟨_, exec_regWrite _ _ _ _ _⟩
  | .hostLinkTrained _ _ => .inl ⟨_, exec_hostLinkTrained _ _⟩
  | .configRequest _ => .inl ⟨_, exec_configRequest _⟩
  | .currentClampRelease _ => .inl ⟨_, exec_currentClampRelease _⟩
  | .resetPinAssert => .inl ⟨_, exec_resetPinAssert⟩
  | .firmwareSelftest _ _ _ => .inl ⟨_, exec_firmwareSelftest _ _ _⟩

end Sys2Proof.Machine
end

