-- ==== Sys2Proof/Tests/Slice0.lean ====
section
/-! SUPPORT. Tests of the model. First, for each statement, states and operands that meet all the hypotheses of each of its clauses
together: each theorem `wit_…` applies the statement to them, and its proof discharges every hypothesis by evaluation. Then the
ill-formed commands that each check of `Instr.wf` refuses, and small tests of single steps against what the manual states. -/

set_option Elab.async false


namespace Sys2Proof.Tests

open Sys2Proof.Machine

/-! ### Helpers -/

/-- A device with some fields of its registers set: field, instance, value. -/
def put (fs : List (Fld × Nat × Nat)) (d : Dev) : Dev := fs.foldl (fun d e => d.put e.1 e.2.1 e.2.2) d

/-- A state with no command waiting and a blank flash. -/
def st (d : Dev) : State := ⟨[], Flash.blank, d⟩

/-- `n` bytes, zero but for some fields: offset, length, value. -/
def bytes (n : Nat) (fs : List (Nat × Nat × Nat)) : List Byte :=
  fs.foldl (fun bs e => patch bs e.1 (leBytes e.2.1 e.2.2)) (leBytes n 0)

/-- A descriptor of a class and an operation with some further fields. -/
def desc (cls op : Nat) (fs : List (Nat × Nat × Nat)) : List Byte := bytes 64 ((0, 1, cls) :: (16, 1, op) :: fs)

/-- An attached device whose boot is complete: context 1 is a mixed context of tenant 0 with queues 0 to 3, the first enabled, and
cores 0 (generation) and 1 (learning); core 2 is free. -/
def base : Dev := put [(F.secStat_stage, 0, 3), (F.glbInfo_ready, 0, 1), (F.hostStat_state, 0, 2), (F.hostStat_ide, 0, 1),
  (F.ctxCfg_valid, 1, 1), (F.ctxCfg_kind, 1, 2), (F.ctxCfg_nq, 1, 4), (F.ctxState_state, 1, 1), (F.coreState_state, 0, 2),
  (F.coreState_ctx, 0, 1), (F.coreState_state, 1, 2), (F.coreState_ctx, 1, 1), (F.coreState_role, 1, 1), (F.queCfg_enable, 0, 1),
  (F.queCfg_sq_log, 0, 4), (F.queCfg_cq_log, 0, 4), (F.queStat_state, 0, 1)] (Dev.init SignedCfg.least)

/-- The name of the descriptor at index 0 of queue 0. -/
def who : Waiter := ⟨0, 0, 0⟩

/-- A descriptor stands taken at index 0 of queue 0. -/
def taken (bs : List Byte) (d : Dev) : Dev := d.modQueue 0 fun x => { x with descs := [⟨0, 0, bs, false, 0, 0, 0⟩] }

/-- A clause of context 1: its number, its cores, whether it is a generation clause. -/
def clause (id : Nat) (cores : List Nat) (gen : Bool) : Clause :=
  ⟨id, id, .desc 0 id, some who, 1, 0, gen, false, 10, 20, [], [], 0, 0, 16, 0, 0, 0xFFFF, 0, 0, [(0, 4096)], [], [], true, cores, cores, [], 7⟩

/-- Clause 0 runs on core 0, generation, and clause 1 on core 1, learning; both on sequencer 0. -/
def running : Dev :=
  put [(F.coreSeqStat_state, 0, 1), (F.coreSeqStat_state, 1, 1)]
    (((base.modCtx 1 fun x => { x with clauses := [clause 0 [0] true, clause 1 [1] false], nextId := 2 }).modCore 0
      fun x => { x with clauses := [(0, 0)], used := true }).modCore 1 fun x => { x with clauses := [(0, 1)], used := true })

/-- An address in the local store of a core. -/
def ls (core off : Nat) : Word := BitVec.ofNat 64 (2 ^ 63 + core * 2 ^ 22 + off)

/-- A leaf of context 1 in the top note, allocated. -/
def leaf (frame : Nat) : Leaf := ⟨3, 0, true, false, false, false, true, false, 0, frame, .map⟩

/-- Whether a part of an instruction gives a value, the value, and the device that it leaves. -/
def okOf {α : Type} (m : ClauseM α) (d : Dev) : Bool := match m d with | .ok _ _ => true | .error _ _ => false
def valOf {α : Type} {m : ClauseM α} {d : Dev} (h : okOf m d = true) : α :=
  match e : m d with
  | .ok y _ => y
  | .error _ _ => False.elim (by simp [okOf, e] at h)
def devOf {α : Type} (m : ClauseM α) (d : Dev) : Dev := match m d with | .ok _ e => e | .error _ e => e

theorem gives {α : Type} {m : ClauseM α} {d : Dev} (h : okOf m d = true) : Gives m d (valOf h) (devOf m d) := by
  unfold Gives valOf devOf
  split
  · rename_i e
    rw [e]
  · rename_i e
    simp [okOf, e] at h

theorem gives2 {α β : Type} {m : ClauseM (α × β)} {d : Dev} (h : okOf m d = true) :
    Gives m d ((valOf h).1, (valOf h).2) (devOf m d) := gives h

theorem gives3 {α β γ : Type} {m : ClauseM (α × β × γ)} {d : Dev} (h : okOf m d = true) :
    Gives m d ((valOf h).1, (valOf h).2.1, (valOf h).2.2) (devOf m d) := gives h

theorem gives4 {α β γ δ : Type} {m : ClauseM (α × β × γ × δ)} {d : Dev} (h : okOf m d = true) :
    Gives m d ((valOf h).1, (valOf h).2.1, (valOf h).2.2.1, (valOf h).2.2.2) (devOf m d) := gives h

theorem gives5 {α β γ δ ε : Type} {m : ClauseM ((α × β) × (γ × δ) × ε)} {d : Dev} (h : okOf m d = true) :
    Gives m d (((valOf h).1.1, (valOf h).1.2), ((valOf h).2.1.1, (valOf h).2.1.2), (valOf h).2.2) (devOf m d) := gives h

/-- A descriptor stands, when its parts hold. -/
theorem stands {d : Dev} {q i cls op c : Nat} {w : Waiter} {bs : List Byte} (h : q < 16384 ∧ i < 65536 ∧
    d.ctxOfQueue q = some c ∧ d.desc q i = some ⟨i, w.period, bs, false, 0, 0, 0⟩ ∧ w.q = q ∧ w.idx = i ∧ fieldAt bs 0 1 = cls ∧
    (op = 256 ∨ fieldAt bs 16 1 = op)) : d.Stands q i cls op c w bs :=
  ⟨h.1, h.2.1, h.2.2.1, ⟨0, 0, 0, h.2.2.2.1⟩, h.2.2.2.2⟩

theorem runs {d : Dev} {core seq c : Nat} {y : Clause} (h : core < 256 ∧ seq < 3 ∧ d.clauseOn core seq = some (c, y) ∧
    d.withheld core = false) : d.Runs core seq c y := h

theorem ready {d : Dev} {core seq c : Nat} {y : Clause} {units : List Nat} (h : core < 256 ∧ seq < 3 ∧
    d.clauseOn core seq = some (c, y) ∧ d.withheld core = false) (u : units.any (d.slotGives core seq) = true) :
    d.Ready core seq c y units := ⟨h, u⟩

theorem awaited {d : Dev} {w : Waiter} (h : d.flag F.queCfg_enable w.q = true ∧ (d.queue w.q).period = w.period) : d.Awaited w := h

theorem both {α β : Type} (p : α × β) : p = (p.1, p.2) := rfl

theorem both2 {α β γ : Type} (p : (α × β) × γ) : p = ((p.1.1, p.1.2), p.2) := rfl
theorem both3 {α β γ δ : Type} (p : (α × β × γ) × δ) : p = ((p.1.1, p.1.2.1, p.1.2.2), p.2) := rfl
theorem first {α β : Type} {p : α × β} {x : α} (h : p.1 = x) : p = (x, p.2) := Prod.ext h rfl
theorem both4 {α β γ : Type} (p : α × β × γ) : p = (p.1, p.2.1, p.2.2) := rfl
theorem first3 {α β γ : Type} {p : α × β × γ} {x : α} (h : p.1 = x) : p = (x, p.2.1, p.2.2) := Prod.ext h rfl
theorem mid3 {α β γ : Type} {p : α × β × γ} {x : β} (h : p.2.1 = x) : p = (p.1, x, p.2.2) := Prod.ext rfl (Prod.ext h rfl)

/-- The value of a part that gives one. -/
def okDev (x : Except Nat Dev) : Dev := match x with | .ok d => d | .error _ => base
theorem oks {x : Except Nat Dev} (h : (match x with | .ok _ => true | .error _ => false) = true) : x = .ok (okDev x) := by
  cases x
  · simp at h
  · rfl

/-- A part that gives a value which can be compared gives that value. -/
theorem okIs {ε α : Type} [DecidableEq α] {x : Except ε α} {v : α}
    (h : (match x with | .ok y => decide (y = v) | .error _ => false) = true) : x = .ok v := by
  cases x
  · simp at h
  · simpa using h

/-! ### Witnesses: the machine, clauses, full stops, cores -/

/-- A command that names no unit of the device, and one that does, with the next state that it answers. -/
theorem wit_CommandsStopOnlyOnAbsentUnits : (Instr.coreReset 256).wf = false ∧ (Instr.coreReset 255).wf = true := by decide

theorem wit_CommandsKeepTheQueue : exec .holdover (st base) = .next (st base.holdover) := rfl

def dLaunch : List Byte := desc 1 0 [(24, 2, 1), (27, 1, 1), (40, 8, 2 ^ 64 - 1), (48, 8, 2 ^ 64 - 1)]

/-- A LAUNCH on a context that has mapped nothing. -/
theorem wit_LaunchQueuesItsClause : Obligations.LaunchQueuesItsClause →
    ∃ t, exec (.launch 0 0) (st (taken dLaunch base)) = .next t :=
  fun h => (h (st (taken dLaunch base)) 0 0 1 who dLaunch _ _ (stands (by decide +kernel)) (by decide +kernel)
    (by decide +kernel) (by decide +kernel) (both _) (by decide +kernel)).imp fun _ x => x.1

/-- Clause 0 waits for core 0. -/
def unplaced : Clause := { clause 0 [] true with placed := false }
def waiting : Dev := put [(F.pwrDomOn_on, 0, 1)] (base.modCtx 1 fun x => { x with clauses := [unplaced], nextId := 1 })

/-- The same clause as the first of a decode step of pool 0, restricted to core 0. -/
def stepClause : Clause := { unplaced with ref := .step 1 0 0, who := none, restrict := [0] }
def waitingStep : Dev := put [(F.pwrDomOn_on, 0, 1)] (base.modCtx 1 fun x => { x with clauses := [stepClause], nextId := 1 })

theorem wit_PlacementTakesTheLowestEligibleCores : Obligations.PlacementTakesTheLowestEligibleCores →
    (∃ t, exec (.clausePlace (.desc 0 0)) (st waiting) = .next t) ∧ ∃ t, exec (.clausePlace (.step 1 0 0)) (st waitingStep) = .next t := by
  intro h
  refine ⟨(h (st waiting) (.desc 0 0) 1 unplaced ?_ ?_ ?_ ?_ ?_).imp fun _ x => x.1,
    (h (st waitingStep) (.step 1 0 0) 1 stepClause ?_ ?_ ?_ ?_ ?_).imp fun _ x => x.1⟩ <;> decide +kernel

theorem wit_ClauseCompletionEndsItsLaunch : Obligations.ClauseCompletionEndsItsLaunch →
    ∃ t, exec (.clauseComplete 1 0 [5]) (st running) = .next t := by
  intro h
  refine (h (st running) 1 0 [5] (clause 0 [0] true) who ?_ ?_ ?_ ?_ ?_ ?_ (awaited ?_) ?_).imp fun _ x => x.1 <;> decide +kernel

/-- Chain 1023 leads from core 0 to handle queue 31 of core 1, which holds one handle. -/
def chained : Dev := (put [(F.coreHqStat_fill, 1, 0)] (running.modCtx 1 fun x => { x with chains := [(1023, ⟨1, [(1, 31)], 0⟩)] })).modCore 1
  fun x => { x with handles := [(31, [5])] }

/-- The same with a handle of the reserved FMT. -/
def chainedBad : Dev := chained.modCore 1 fun x => { x with handles := [(31, [0x0F00000000000000])] }

theorem wit_HandlesPassInOrder : Obligations.HandlesPassInOrder →
    (∃ t, exec (.handlePush 0 0 1023 9) (st chained) = .next t) ∧ (∃ t, exec (.handlePop 1 0 1023) (st chained) = .next t) ∧
    ∃ t, exec (.handlePop 1 0 1023) (st chainedBad) = .next t ∧ t.dev.ctxState 1 = CtxSt.tearing := by
  intro h
  refine ⟨(h.1 (st chained) 0 0 1023 1 1 31 (clause 0 [0] true) ⟨1, [(1, 31)], 0⟩ 9 (runs ?_) ?_ ?_ ?_ ?_ ?_ ?_ ?_).imp
      fun _ x => x.1, (h.2 (st chained) 1 0 1023 1 31 (clause 1 [1] false) ⟨1, [(1, 31)], 0⟩ 5 [] (runs ?_) ?_ ?_ ?_ ?_ ?_ ?_ ?_).imp
      fun _ x => x.1, (h.2 (st chainedBad) 1 0 1023 1 31 (clause 1 [1] false) ⟨1, [(1, 31)], 0⟩ 0x0F00000000000000 [] (runs ?_) ?_ ?_ ?_
      ?_ ?_ ?_ ?_).imp fun _ x => ⟨x.1, (congrArg (Dev.ctxState · 1) (x.2.2 ?_)).trans ?_⟩⟩ <;> decide +kernel

/-- Context 1 in its first step, at its learning full stop: core 1 waits. -/
def stopped : Dev := put [(F.lrnStepStat_phase, 1, 1), (F.coreSeqStat_state, 1, 3), (F.ctxLsCfg_enable, 1, 1),
  (F.ckptJob_grp, 1, 0xFFFF)] base

/-- The same context as a member of group 0 with rank 0 and a peer; in the barrier, with the sums of every stage and the result; and
after its operation ended with an abort. -/
def barrierOp0 : CollOp :=
  { CollOp.early 0 with sig := ⟨barrierOp, 0, 1, 0, 0⟩, use := .stop, issued := some 0, running := true, chunks := [[0, 0]],
                        ups := [(0, 1, [0, 0])], downs := [(0, 0, leBytes 8 0)] }
def grouped : Dev := put [(F.fabGrpCfg_valid, 0, 1), (F.fabGrpCfg_ctx, 0, 1), (F.fabGrpCtl_tmo_us, 0, 1000), (F.ckptJob_grp, 1, 0)]
  (stopped.setGroup 0 ⟨[(0, 1), (1, 1)], none, [], 1, [], []⟩)
def barred : Dev := (grouped.modCtx 1 fun x => { x with inBarrier := true }).modGroup 0 fun x => { x with ops := [barrierOp0] }
def lateBar : Dev := { barred with time := { barred.time with now := 2000000 * 65536 } }
def barrierGone : Dev := barred.modGroup 0 fun x => { x with ops := [] }

theorem wit_FullStopsComplete : Obligations.FullStopsComplete →
    (∃ t, exec (.learningFullStop 1 []) (st stopped) = .next t) ∧ (∃ t, exec (.learningFullStop 1 []) (st grouped) = .next t) ∧
    (∃ t, exec (.learningFullStop 1 []) (st (put [(F.fabGrpCfg_valid, 0, 0)] grouped)) = .next t) ∧
    (∃ t, exec (.barrierMet 1 []) (st barred) = .next t) ∧ (∃ t, exec (.barrierAbort 1) (st lateBar) = .next t) ∧
    (∃ t, exec (.barrierAbort 1) (st barrierGone) = .next t) ∧
    ∃ t, exec (.generationFullStop 1) (st (base.modCtx 1 fun x => { x with stopping := [0] })) = .next t := by
  intro h
  refine ⟨⟨_, (h.1 (st stopped) 1 [] _ ?_ ?_ ?_ ?_ rfl).1 ?_⟩, ⟨_, (h.1 (st grouped) 1 [] _ ?_ ?_ ?_ ?_ rfl).2.1 0 ?_ ?_⟩,
    ⟨_, (h.1 (st (put [(F.fabGrpCfg_valid, 0, 0)] grouped)) 1 [] _ ?_ ?_ ?_ ?_ rfl).2.2 0 ?_ ?_⟩,
    ⟨_, h.2.1 (st barred) 1 0 [] barrierOp0 ?_ ?_ ?_ ?_ ?_ ?_ ?_⟩,
    ⟨_, h.2.2.1 (st lateBar) 1 0 barrierOp0 0 ?_ ?_ ?_ ?_ ?_ ?_ ?_ ?_ ?_⟩,
    ⟨_, h.2.2.2.1 (st barrierGone) 1 0 ?_ ?_ ?_ ?_ ?_⟩,
    ⟨_, h.2.2.2.2 (st (base.modCtx 1 fun x => { x with stopping := [0] })) 1 [0] ?_ ?_ ?_ ?_ ?_⟩⟩ <;> decide +kernel

/-- Core 255 is free. -/
theorem wit_CoreCommandsComplete : Obligations.CoreCommandsComplete →
    (∃ t, exec (.coreReset 255) (st base) = .next t) ∧ (∃ t, exec (.coreRemove 255) (st base) = .next t) ∧
    (∃ t, exec (.cntClrStall 0 1) (st base) = .next t) ∧ (∃ t, exec (.cntClrLag 0 255) (st base) = .next t) ∧
    ∃ t, exec (.cntClrWcet 0 0) (st base) = .next t := by
  intro h
  refine ⟨⟨_, h.1 (st base) 255 ?_ ?_⟩, (h.2.1 (st base) 255 ?_ ?_).imp fun _ x => x.1, (h.2.2.1 (st base) 0 1 23 ?_ ?_ ?_ ?_).imp
    fun _ x => x.1, (h.2.2.2.1 (st base) 0 255 ?_ ?_ ?_).imp fun _ x => x.1, (h.2.2.2.2 (st base) 0 0 ?_ ?_ ?_).imp fun _ x => x.1⟩ <;>
    decide +kernel

theorem wit_CoreResetScope : Obligations.CoreResetScope → ∃ t, exec (.coreReset 255) (st base) = .next t := by
  intro h
  refine (h (st base) 255 ?_ ?_).imp fun _ x => x.1 <;> decide +kernel

/-! ### Witnesses: generation -/

/-- Context 1 with a granule at address 0x400000, pool 0 (any role) on core 0, and ring 0. -/
def pool0 : Pool := ⟨2, false, 0, 1, 4, [], 0, 0, 0, 0xFFFF, 0, 8, 16, 1, 64, 0xFFFF, 0, 0, 100, [0], false, false, none, 0, 7, []⟩
def gen : Dev := put [(F.silRingCfg_valid, 0, 1), (F.silRingCfg_ctx, 0, 1), (F.genKv_quota_pages, 1, 100), (F.tierQuota_limit, 1, 100), (F.accSetCfg_valid, 0, 1),
  (F.accSetCfg_ctx, 0, 1), (F.accSetBase_vbase, 0, 1)] (base.modCtx 1 fun x => { x with leaves := [(0x100, leaf 5)], pools := [(0, pool0)] })

def dStart : List Byte := desc 4 0 [(20, 3, 9), (24, 4, 3), (28, 4, 5), (32, 8, 0x400000), (44, 4, 0x3F800000), (52, 2, 0xFFFF)]

/-- Rollout 9 of context 1, in a state. -/
def roll (z : RollState) : Rollout := { rolloutFrom dStart who false 0 1 (leBytes 12 0) with st := z }
def withRoll (r : Rollout) (d : Dev) : Dev := d.modCtx 1 fun x => { x with rollouts := [r] }

def dCancel : List Byte := desc 4 1 [(20, 3, 9)]
def dPause : List Byte := desc 4 2 [(20, 3, 9), (24, 4, 1000)]
def dResume : List Byte := desc 4 3 [(20, 3, 9)]
def dPool : List Byte := desc 4 4 [(17, 1, 0x21), (20, 2, 1), (22, 2, 4), (24, 8, 0x400000), (42, 2, 0xFFFF), (48, 2, 8), (50, 2, 16), (52, 2, 1),
  (56, 2, 0xFFFF), (60, 4, 100)]
def dUnpool : List Byte := desc 4 4 [(17, 1, 1)]
def dMask : List Byte := desc 4 5 [(18, 2, 63), (20, 4, 100), (24, 8, 0x400000)]
def dEvict : List Byte := desc 9 0 [(17, 1, 1), (20, 3, 9), (24, 4, 65536)]

/-- A rollout that resumes before its time to live ends. -/
def pausedRoll : Rollout := { roll .paused with expiry := some 10 }

theorem wit_GenerationDescriptorsComplete : Obligations.GenerationDescriptorsComplete →
    (∃ t, exec (.start 0 0) (st (taken dStart gen)) = .next t) ∧
    (∃ t, exec (.cancel 0 0) (st (taken dCancel (withRoll (roll .running) gen))) = .next t) ∧
    (∃ t, exec (.cancel 0 0) (st (taken dCancel (withRoll (roll .paused) gen))) = .next t) ∧
    (∃ t, exec (.pause 0 0) (st (taken dPause (withRoll (roll .running) gen))) = .next t) ∧
    (∃ t, exec (.resume 0 0) (st (taken dResume (withRoll pausedRoll gen))) = .next t) ∧
    (∃ t, exec (.pool 0 0) (st (taken dPool (gen.modCtx 1 fun x => { x with pools := [] }))) = .next t) ∧
    (∃ t, exec (.pool 0 0) (st (taken dUnpool gen)) = .next t) ∧
    (∃ t, exec (.mask 0 0) (st (taken dMask gen)) = .next t) ∧
    ∃ t, exec (.evict 0 0) (st (taken dEvict (withRoll (roll .running) gen))) = .next t := by
  intro ⟨h1, h2, h3, h4, h5, h6, h7, h8, h9⟩
  let sPool := st (taken dPool (gen.modCtx 1 fun x => { x with pools := [] }))
  refine ⟨⟨_, h1 (st (taken dStart gen)) 0 0 1 who dStart pool0 _ _ (stands ?_) ?_ ?_ ?_ ?_ ?_ ?_ ?_ (both _)⟩,
    ⟨_, h2 (st (taken dCancel (withRoll (roll .running) gen))) 0 0 1 who dCancel (roll .running) (stands ?_) ?_ ?_ ?_⟩,
    ⟨_, h3 (st (taken dCancel (withRoll (roll .paused) gen))) 0 0 1 who dCancel (roll .paused) (stands ?_) ?_ ?_ ?_⟩,
    ⟨_, h4 (st (taken dPause (withRoll (roll .running) gen))) 0 0 1 who dPause (roll .running) (stands ?_) ?_ ?_ ?_ ?_ ?_⟩,
    ⟨_, h5 (st (taken dResume (withRoll pausedRoll gen))) 0 0 1 who dResume pausedRoll (stands ?_) ?_ ?_ ?_
      ⟨⟨0, 0, dResume, false, 0, 0, 0⟩, ?_, ?_⟩ ?_⟩,
    ⟨_, h6 sPool 0 0 1 who dPool [] _ (sPool.dev.stepProgram 1 0x400000).2 (stands ?_) ?_ ?_ ?_ ?_ ?_ ?_ ?_ rfl ?_ ?_⟩,
    ⟨_, h7 (st (taken dUnpool gen)) 0 0 1 who dUnpool (stands ?_) ?_ ?_ ?_⟩,
    (h8 (st (taken dMask gen)) 0 0 1 who dMask _ _ (stands ?_) ?_ ?_ ?_ ?_ ?_ ?_ (both _) ?_).imp fun _ x => x.1,
    ⟨_, h9 (st (taken dEvict (withRoll (roll .running) gen))) 0 0 1 who dEvict (roll .running) pool0 (stands ?_) ?_ ?_ ?_ ?_ ?_ ?_ ?_ ?_ ?_ ?_⟩⟩
  all_goals decide +kernel

/-- A step of pool 0 over rollout 9, which is at its boundary. -/
def run0 : StepRun := ⟨0, [9], [9], 0, true, 0, false, [0]⟩
def stepping : Dev := withRoll { roll .running with inStep := true } (gen.modCtx 1 fun x => { x with pools := [(0, { pool0 with step := some run0 })] })

/-- The pool of a remote prefill, and a rollout whose whole prompt has landed. -/
def filledRoll : Rollout := { roll .prefill with filled := 3 }
def remote : Dev := gen.modCtx 1 fun x => { x with pools := [(0, { pool0 with peerRank := 5 })] }

/-- The moves of a pause and of a resume, with nothing left to move. -/
def move0 (o : MoveOwner) : Move := ⟨3, o, 0, 0, 0, 1, [], 0, 0⟩
def pausingRoll : Rollout := { roll .pausing with pausing := some (who, 1000) }
def resumingRoll : Rollout := { roll .resuming with resumes := [who] }
def withMove (o : MoveOwner) (d : Dev) : Dev := d.modCtx 1 fun x => { x with moves := [move0 o] }

/-- A rollout whose time to live has passed. -/
def expired : Rollout := { roll .paused with expiry := some 0 }

theorem wit_RolloutEventsComplete : Obligations.RolloutEventsComplete →
    (∃ t, exec (.prefillStep 1 9 0) (st (withRoll (roll .prefill) gen)) = .next t) ∧
    (∃ t, exec (.decodeStep 1 0 0 []) (st (withRoll (roll .running) gen)) = .next t) ∧
    (∃ t, exec (.stepBoundary 1 9) (st stepping) = .next t) ∧
    (∃ t, exec (.promptShipped 1 9) (st (withRoll filledRoll remote)) = .next t) ∧
    (∃ t, exec (.remotePrefillRefused 1 9) (st (withRoll (roll .prefill) remote)) = .next t) ∧
    (∃ t, exec (.pauseMoveDone 1 9) (st (withMove (.pause 9) (withRoll pausingRoll gen))) = .next t) ∧
    (∃ t, exec (.resumeMoveDone 1 9) (st (withMove (.resume 9) (withRoll resumingRoll gen))) = .next t) ∧
    ∃ t, exec (.ttlExpire 1 9) (st (withRoll expired gen)) = .next t := by
  intro ⟨h1, h2, h3, h4, h5, h6, h7, h8⟩
  refine ⟨⟨_, h1 (st (withRoll (roll .prefill) gen)) 1 9 0 (roll .prefill) pool0 pool0 ?_ ?_ ?_ ?_ ?_ ?_ ?_ ?_ ?_ ?_ ?_ ?_⟩,
    ⟨_, h2 (st (withRoll (roll .running) gen)) 1 0 0 [] pool0 ?_ ?_ ?_ ?_ ?_ ?_ ?_⟩,
    ⟨_, h3 (st stepping) 1 9 { roll .running with inStep := true } { pool0 with step := some run0 } run0 ?_ ?_ ?_ ?_ ?_ ?_ ?_ ?_ ?_⟩,
    ⟨_, h4 (st (withRoll filledRoll remote)) 1 9 filledRoll { pool0 with peerRank := 5 } ?_ ?_ ?_ ?_ ?_ ?_ ?_ ?_ ?_ ?_ ?_⟩,
    ⟨_, h5 (st (withRoll (roll .prefill) remote)) 1 9 (roll .prefill) { pool0 with peerRank := 5 } ?_ ?_ ?_ ?_ ?_ ?_ ?_⟩,
    ⟨_, h6 (st (withMove (.pause 9) (withRoll pausingRoll gen))) 1 9 1000 pausingRoll who (move0 (.pause 9)) ?_ ?_ ?_ ?_ ?_ ?_ ?_ ?_ ?_⟩,
    ⟨_, h7 (st (withMove (.resume 9) (withRoll resumingRoll gen))) 1 9 resumingRoll who (move0 (.resume 9)) ?_ ?_ ?_ ?_ ?_ ?_ ?_⟩,
    ⟨_, h8 (st (withRoll expired gen)) 1 9 0 expired ?_ ?_ ?_ ?_ ?_ ?_ ?_ ?_⟩⟩
  all_goals decide +kernel

/-! ### Witnesses: instructions -/

/-- A BF16 tensor and an FP32 tensor in the local store of core 0, of which every byte is 0. -/
def half (off : Nat) : TRef := ⟨ls 0 off, BitVec.ofNat 64 (0x3F800000 * 2 ^ 32 + 1), 0⟩
def full (off : Nat) : TRef := ⟨ls 0 off, BitVec.ofNat 64 (0x3F800000 * 2 ^ 32), 0⟩

/-- An FP8 destination. -/
def small (off : Nat) : TRef := ⟨ls 0 off, BitVec.ofNat 64 (0x3F800000 * 2 ^ 32 + 3), 0⟩

def opMat : MatOp := ⟨half 0, half 64, ls 0 128, 1, 1, 2, 32, false⟩
def opBad : MatOp := { opMat with malformed := true }
def opConv : ConvOp := ⟨full 0, small 64, 1, 2, 0, 0, 0⟩
def opScale : ScaleOp := ⟨full 0, small 64, ls 0 128, 1, 2, 0⟩
def opDraw : DrawOp := ⟨BitVec.ofNat 64 (2 ^ 40), ls 0 64, 1, 1, 63, 63⟩

/-- What the instructions of clause 0 on core 0 run under. -/
def env : Env := ⟨1, 0, 0, clause 0 [0] true, []⟩
def d0 : Dev := running.issues 0 0

theorem rdyV : running.Ready 0 0 1 (clause 0 [0] true) vectorUnit := ready (by decide +kernel) (by decide +kernel)
theorem rdyE : running.Ready 0 0 1 (clause 0 [0] true) engines := ready (by decide +kernel) (by decide +kernel)

/-- The check of a good record leaves the device as it is. -/
theorem checked {r : TRec} {engine dest : Bool} {d : Dev}
    (h : (r.fmt = 0xF || (engine && r.fmt = 0)) = false ∧ r.okR69 dest = true) : Gives (checkRec r engine dest) d () d := by
  unfold Gives checkRec
  rw [h.1, h.2]
  rfl

theorem wit_MatrixInstructionsComplete : Obligations.NumberInstructionsComplete →
    (∃ t, exec (.matrixInstruction 0 0 opMat []) (st running) = .next t) ∧
    ∃ t, exec (.matrixInstruction 0 0 opBad []) (st running) = .next t := by
  intro ⟨h1, h0, _⟩
  exact ⟨⟨_, h1 (st running) 0 0 1 (clause 0 [0] true) opMat [] _ _ _ _ _ _ _ rdyE rfl (gives2 (by decide +kernel)) (gives2 (by decide +kernel))
      (by decide +kernel) (by decide +kernel) (by decide +kernel) (gives (by decide +kernel))⟩,
    ⟨_, h0 (st running) 0 0 1 (clause 0 [0] true) opBad [] rdyE.1 rfl⟩⟩

theorem wit_ConversionsComplete : Obligations.NumberInstructionsComplete →
    (∃ t, exec (.engineOutputWrite 0 0 opConv []) (st running) = .next t) ∧
    ∃ t, exec (.conversionInstruction 0 0 opConv []) (st running) = .next t := by
  intro ⟨_, _, h2, h3, _⟩
  exact ⟨⟨_, h2 (st running) 0 0 1 (clause 0 [0] true) opConv [] _ _ _ _ _ rdyE (by decide) (gives (by decide +kernel)) (checked (by decide +kernel))
      (gives (by decide +kernel)) (gives (by decide +kernel))⟩,
    ⟨_, h3 (st running) 0 0 1 (clause 0 [0] true) opConv [] _ _ _ _ _ rdyV (by decide) (gives (by decide +kernel)) (checked (by decide +kernel))
      (gives (by decide +kernel)) (gives (by decide +kernel))⟩⟩

theorem wit_ScalesAndDrawsComplete : Obligations.NumberInstructionsComplete →
    (∃ t, exec (.scaleFormingInstruction 0 0 opScale []) (st running) = .next t) ∧
    ∃ t, exec (.vectorDraw 0 0 opDraw) (st running) = .next t := by
  intro ⟨_, _, _, _, h4, h5⟩
  exact ⟨⟨_, h4 (st running) 0 0 1 (clause 0 [0] true) opScale [] _ _ _ _ _ _ _ rdyV (gives (by decide +kernel)) rfl (checked (by decide +kernel))
      rfl rfl (gives (by decide +kernel)) (gives (by decide +kernel))⟩,
    ⟨_, h5 (st running) 0 0 1 (clause 0 [0] true) opDraw _ _ _ rdyV (by decide) (by decide +kernel) (both _) (gives (by decide +kernel))⟩⟩

/-- Results of a generation clause go to the local store, whatever their values. -/
theorem givesLs {v : Env} {w : Word} {rows : List (List W32)} {d : Dev} {k off : Nat} (hv : v.learning = false)
    (ha : Addr.of w.toNat = .ls k off) (ho : (d.ownsCore v.c k && decide (off + (f32Bytes rows.flatten).length ≤ storeBytes)) = true) :
    Gives (putF32 v w rows) d () (d.lsWrite k off (f32Bytes rows.flatten)) := by
  have h : d.flagResults v.c v.core v.learning rows.flatten = d := by
    unfold Dev.flagResults Dev.raiseOvf
    rw [hv]
    simp
  show (putBytes v w (f32Bytes rows.flatten)) (d.flagResults v.c v.core v.learning rows.flatten) = _
  rw [h]
  unfold putBytes
  rw [ha]
  show (if (d.ownsCore v.c k && decide (off + (f32Bytes rows.flatten).length ≤ storeBytes)) = true then _ else _ : ClauseM Unit) d = _
  rw [if_pos ho]
  rfl

def opAct (k : ActKind) : ActOp := ⟨k, full 0, ls 0 32, ls 0 64, half 128, ls 0 192, 1, 2⟩
def opActBw (k : ActKind) : ActBwOp := ⟨k, ls 0 0, half 128, ls 0 32, ls 0 64, ls 0 192, 1, 2⟩
def opDrop : DropOp := ⟨BitVec.ofNat 64 (2 ^ 40), 0x80000000, .imm 0x40000000, ls 0 0, ls 0 64, 1, 2, 0, 0⟩
def opNorm (p : NormPart) : NormBwOp := ⟨false, ls 0 0, full 64, ls 0 128, ls 0 192, 0, ls 0 256, ls 0 320, 1, 2, 2, p⟩
def opVocab : VocabOp := ⟨half 0, half 64, ls 0 128, 1, 2, 2, 32⟩
def opVocabBw : VocabBwOp := ⟨opVocab, ls 0 192, ls 0 256, ls 0 320, ls 0 384⟩

theorem wit_LearningInstructionsComplete : Obligations.LearningInstructionsComplete →
    (∃ t, exec (.activationInstruction 0 0 (opAct .relu) []) (st running) = .next t) ∧
    (∃ t, exec (.activationInstruction 0 0 (opAct .silu) []) (st running) = .next t) ∧
    (∃ t, exec (.activationInstruction 0 0 (opAct .gated) []) (st running) = .next t) ∧
    (∃ t, exec (.activationInstruction 0 0 (opAct (.meanVarNorm 0x3F800000)) []) (st running) = .next t) ∧
    (∃ t, exec (.activationBackward 0 0 (opActBw (.leaky 0x3F000000)) []) (st running) = .next t) ∧
    (∃ t, exec (.activationBackward 0 0 (opActBw .gelu) []) (st running) = .next t) ∧
    (∃ t, exec (.activationBackward 0 0 (opActBw .gated) []) (st running) = .next t) ∧
    (∃ t, exec (.dropoutInstruction 0 0 opDrop []) (st running) = .next t) ∧
    (∃ t, exec (.normBackward 0 0 (opNorm .whole) []) (st running) = .next t) ∧
    (∃ t, exec (.normBackward 0 0 (opNorm (.push (ls 0 384))) []) (st running) = .next t) ∧
    (∃ t, exec (.normBackward 0 0 (opNorm (.join [ls 0 448] (ls 0 384))) []) (st running) = .next t) ∧
    (∃ t, exec (.normBackward 0 0 (opNorm (.finish (ls 0 384))) []) (st running) = .next t) ∧
    (∃ t, exec (.vocabHeadInstruction 0 0 opVocab []) (st running) = .next t) ∧
    ∃ t, exec (.vocabHeadBackward 0 0 opVocabBw []) (st running) = .next t := by
  intro ⟨g1, g2, g3, g4, g5, g6, g7, h3, h4, h5, h6⟩
  exact ⟨⟨_, g1 (st running) 0 0 1 (clause 0 [0] true) (opAct .relu) [] _ _ _ _ _ _ rdyV (Or.inl ⟨rfl, rfl, rfl⟩) (gives (by decide +kernel))
      (gives (by decide +kernel)) (gives (by decide +kernel))⟩,
    ⟨_, g2 (st running) 0 0 1 (clause 0 [0] true) (opAct .silu) [] _ _ _ _ _ rdyV (Or.inr ⟨rfl, rfl⟩) (gives (by decide +kernel))
      (gives (by decide +kernel)) (gives (by decide +kernel))⟩,
    ⟨_, g3 (st running) 0 0 1 (clause 0 [0] true) (opAct .gated) [] _ _ _ _ _ _ rdyV rfl (gives (by decide +kernel))
      (gives (by decide +kernel)) (gives (by decide +kernel)) (givesLs rfl (rfl : _ = Addr.ls 0 64) (by decide +kernel))⟩,
    ⟨_, g4 (st running) 0 0 1 (clause 0 [0] true) (opAct (.meanVarNorm 0x3F800000)) [] _ _ true _ _ _ _ _ _ _ rdyV (Or.inr ⟨rfl, rfl⟩)
      (gives (by decide +kernel)) (gives (by decide +kernel)) rfl (gives (by decide +kernel)) (gives (by decide +kernel)) (gives (by decide +kernel))⟩,
    ⟨_, g5 (st running) 0 0 1 (clause 0 [0] true) (opActBw (.leaky 0x3F000000)) [] _ _ _ _ _ _ rdyV (Or.inr ⟨_, rfl, rfl⟩)
      (gives (by decide +kernel)) (gives (by decide +kernel)) (gives (by decide +kernel))⟩,
    ⟨_, g6 (st running) 0 0 1 (clause 0 [0] true) (opActBw .gelu) [] _ _ _ _ _ _ rdyV (Or.inl ⟨rfl, rfl⟩)
      (gives (by decide +kernel)) (gives (by decide +kernel)) (givesLs rfl (rfl : _ = Addr.ls 0 64) (by decide +kernel))⟩,
    ⟨_, g7 (st running) 0 0 1 (clause 0 [0] true) (opActBw .gated) [] _ _ _ _ _ _ _ _ rdyV rfl (gives (by decide +kernel))
      (gives (by decide +kernel)) (gives (by decide +kernel)) (givesLs rfl (rfl : _ = Addr.ls 0 64) (by decide +kernel))
      (givesLs rfl (rfl : _ = Addr.ls 0 192) (by decide +kernel))⟩,
    ⟨_, h3 (st running) 0 0 1 (clause 0 [0] true) opDrop [] _ _ _ _ _ rdyV (by decide) (by decide +kernel) (gives (by decide +kernel)) (both _)
      (gives (by decide +kernel))⟩,
    ⟨_, (h4 (st running) 0 0 1 (clause 0 [0] true) (opNorm .whole) [] _ _ _ rdyV (gives2 (by decide +kernel))).1 _ _ _ _ (Or.inl ⟨rfl, rfl, rfl⟩)
      (gives (by decide +kernel)) (gives (by decide +kernel))⟩,
    ⟨_, (h4 (st running) 0 0 1 (clause 0 [0] true) (opNorm (.push (ls 0 384))) [] _ _ _ rdyV (gives2 (by decide +kernel))).2.1 _ _ rfl
      (gives (by decide +kernel))⟩,
    ⟨_, (h4 (st running) 0 0 1 (clause 0 [0] true) (opNorm (.join [ls 0 448] (ls 0 384))) [] _ _ _ rdyV (gives2 (by decide +kernel))).2.2 _ _ _ _ _ rfl
      (gives (by decide +kernel)) (gives (by decide +kernel))⟩,
    ⟨_, (h4 (st running) 0 0 1 (clause 0 [0] true) (opNorm (.finish (ls 0 384))) [] _ _ _ rdyV (gives2 (by decide +kernel))).1 _ _ _ _
      (Or.inr ⟨_, _, rfl, gives (by decide +kernel), rfl⟩) (gives (by decide +kernel)) (gives (by decide +kernel))⟩,
    ⟨_, h5 (st running) 0 0 1 (clause 0 [0] true) opVocab [] _ _ _ _ _ _ rdyE (gives4 (by decide +kernel)) (gives (by decide +kernel))⟩,
    ⟨_, h6 (st running) 0 0 1 (clause 0 [0] true) opVocabBw [] _ _ _ _ _ _ _ _ rdyE (gives5 (by decide +kernel)) (gives (by decide +kernel))
      (gives (by decide +kernel))⟩⟩

/-- Dense keys and values of one position in the local store. -/
def opAttn : AttnOp := ⟨half 0, .dense (half 64) (half 128) 1 1 1 2, 1, 0x3F800000, .causal, false, full 192, ls 0 256, ls 0 320, 0, 0, 0⟩


def opAttnBw : AttnBwOp := ⟨opAttn, half 384, ls 0 448, ls 0 512, ls 0 576⟩

/-- A layout record in local store, and a context with its first granule mapped. -/
def layout : List Byte := bytes 64 [(0, 1, 1), (2, 2, 1), (4, 2, 1), (6, 2, 16), (8, 4, 1)]
def mapped : Dev := (running.lsWrite 0 1024 layout).modCtx 1 fun x => { x with leaves := [(0, leaf 9)] }
def opAppend : KvAppendOp := ⟨ls 0 1024, 0, 0, false, 15, 0, 0, false, List.replicate 64 0x3F800000⟩

theorem wit_AttentionForwardCompletes : Obligations.AttentionInstructionsComplete →
    ∃ t, exec (.attentionInstruction 0 0 opAttn []) (st running) = .next t := by
  intro ⟨h1, _, _⟩
  exact ⟨_, h1 (st running) 0 0 1 (clause 0 [0] true) opAttn [] _ _ _ _ _ _ _ _ _ _ _ rdyE (by decide) (gives3 (by decide +kernel)) rfl
      (checked (by decide +kernel)) (gives (by decide +kernel)) rfl (gives (by decide +kernel)) (gives (by decide +kernel))
      (gives (by decide +kernel))⟩

theorem wit_AttentionBackwardCompletes : Obligations.AttentionInstructionsComplete →
    ∃ t, exec (.attentionBackward 0 0 opAttnBw []) (st running) = .next t := by
  intro ⟨_, h2, _⟩
  exact ⟨_, h2 (st running) 0 0 1 (clause 0 [0] true) opAttnBw [] _ _ _ _ _ rdyE (gives (by decide +kernel)) (gives (by decide +kernel))
      (gives (by decide +kernel)) (gives (by decide +kernel))⟩

theorem wit_KvAppendCompletes : Obligations.AttentionInstructionsComplete →
    ∃ t, exec (.kvAppendWrite 0 0 opAppend []) (st mapped) = .next t := by
  intro ⟨_, _, h3⟩
  exact ⟨_, h3 (st mapped) 0 0 1 (clause 0 [0] true) opAppend [] _ _ _ (ready (by decide +kernel) (by decide +kernel))
      (gives (by decide +kernel)) (by decide +kernel) (by decide +kernel) (by decide +kernel) (by decide +kernel)
      (gives (by decide +kernel))⟩

/-- The loaded slot table gives sequencer 0 no engine; and a clamp on the die of core 0. -/
def slotless : Dev := put [(F.coreSlotTbl_eng0, 0, 3), (F.coreSlotTbl_eng1, 0, 3), (F.coreSlotTbl_eng2, 0, 3), (F.coreSlotTbl_eng3, 0, 3)] running
def clamped : Dev := { running with power := { running.power with clamped := [0] } }

theorem wit_InstructionsWaitForTheirUnit : Obligations.InstructionsWaitForTheirUnit →
    (∃ t, exec (.matrixInstruction 0 0 opMat []) (st slotless) = .next t) ∧ ∃ t, exec (.vectorDraw 0 0 opDraw) (st clamped) = .next t :=
  fun ⟨h1, h2⟩ => ⟨(h1 (st slotless) 0 0 1 (clause 0 [0] true) opMat [] (runs (by decide +kernel)) rfl (by decide +kernel)).imp fun _ x => x.1,
    (h2 (st clamped) 0 0 1 (clause 0 [0] true) opDraw (by decide) (by decide) (by decide +kernel) (by decide) (by decide +kernel)).imp fun _ x => x.1⟩

/-! ### Witnesses: Sillage, update units -/

/-- Context 1 with a granule at address 0x400000, quotas, and ring 0, which lies in the top note; one record waits on it. -/
def onePkg : SignedCfg := { SignedCfg.least with pkgs := 1 }
def waits : RingWait := ⟨9, recordHeader 0 0 0 64 1, bytes 64 [(0, 4, 1), (8, 1, 2), (12, 4, 0)]⟩
def sil : Dev := { put [(F.silRingCfg_valid, 0, 1), (F.silRingCfg_ctx, 0, 1), (F.silRingCfg_cap, 0, 4), (F.silRingBase_vbase, 0, 1)]
  (((base.setReg .tierQuota 1 (2 ^ 30) 0).setReg .tierQuota 1 (2 ^ 30) 1).modCtx 1 fun x => { x with leaves := [(0x100, leaf 5)] }) with
  cfg := onePkg }
def silWaits : Dev := sil.modRing 0 fun x => { x with waiting := [waits] }
/-- Its ring refuses and has no room for the record. -/
def silFull : Dev := put [(F.silRingCfg_full, 0, 1), (F.silRingCfg_cap, 0, 0)] silWaits
/-- The same ring with one live record, whose bytes lie in a granule of the top note. -/
def silLive : Dev := (sil.modRing 0 fun x => { x with live := [⟨0, 0, 128, 0⟩], next := 128 }).modCtx 1 fun x =>
  { x with leaves := [(0x100, leaf 5), (65536, ringLeaf 0 6)] }

def dCreate : List Byte := desc 6 0 [(18, 2, 1023), (24, 8, 16384), (32, 8, 2 ^ 49)]
def dDestroy : List Byte := desc 6 1 []
def dAppend : List Byte := desc 6 2 [(20, 4, 65535), (24, 8, 0x400000), (32, 8, 64)]
def dDraw : List Byte := desc 6 3 [(20, 4, 1), (24, 8, 0x400000), (32, 8, 128)]

theorem wit_SillageCommandsComplete : Obligations.SillageCommandsComplete →
    (∃ t, exec (.silCreate 0 0) (st (taken dCreate sil)) = .next t) ∧ (∃ t, exec (.silDestroy 0 0) (st (taken dDestroy sil)) = .next t) ∧
    (∃ t, exec (.silAppend 0 0 []) (st (taken dAppend sil)) = .next t) ∧
    (∃ t, exec (.silDraw 0 0 []) (st (taken dDraw silLive)) = .next t) ∧ ∃ t, exec (.recordCommit 0 []) (st silWaits) = .next t := by
  intro ⟨h1, h2, h3, h4, h5⟩
  refine ⟨(h1 (st (taken dCreate sil)) 0 0 1 who dCreate (stands ?_) ?_ ?_ ?_ ?_ ?_ ?_ ?_ ?_ ?_ ?_ ?_).imp fun _ x => x.1,
    ⟨_, h2 (st (taken dDestroy sil)) 0 0 1 who dDestroy (stands ?_) ?_ ?_ ?_ ?_⟩,
    ⟨_, h3 (st (taken dAppend sil)) 0 0 1 who dAppend [] _ _ _ (stands ?_) ?_ ?_ ?_ ?_ (both2 _)⟩,
    ⟨_, h4 (st (taken dDraw silLive)) 0 0 1 who dDraw [] ⟨0, 0, dDraw, false, 0, 0, 0⟩ _ _ _ _ _ (stands ?_) ?_ ?_ ?_ ?_ ?_ ?_ rfl ?_ (both3 _)⟩,
    ⟨_, h5 (st silWaits) 0 [] waits [] _ ?_ ?_ ?_ (first ?_)⟩⟩
  all_goals decide +kernel

theorem wit_UncommittedGeneratedRecordsAreCounted : Obligations.UncommittedGeneratedRecordsAreCounted →
    ∃ t, exec (.recordCommit 0 []) (st silFull) = .next t := by
  intro h
  refine ⟨_, h (st silFull) 0 Status.quota [] waits [] _ ?_ ?_ ?_ (first ?_)⟩ <;> decide +kernel

/-- An update of 32 weights at 0x400000 under rule SGDM without a moment, on unit 31; and the same for the other operations. -/
def uBytes (fs : List (Nat × Nat × Nat)) : List Byte :=
  bytes 192 ([(4, 4, 2 ^ 31), (8, 4, 1), (12, 4, 32), (40, 8, 0x401000), (88, 2, 0xFFFF), (100, 4, 0x3F800000)] ++ fs)
def uSgdm : List Byte := uBytes [(16, 8, 0x400000), (56, 8, 0x402000)]
def uFact : List Byte := uBytes [(1, 1, 2), (16, 8, 0x400000), (32, 8, 0x403000), (56, 8, 0x402000)]
def uReduce : List Byte := uBytes [(0, 1, 3), (48, 8, 0x402000), (64, 4, 2)]

/-- Sequencer 2 of core 1 runs clause 1, with the descriptor in its local store, and granule 0x100 is mapped. -/
def upd0 : Dev := put [(F.coreSeqStat_state, 1, 0)]
  ((running.modCtx 1 fun x => { x with leaves := [(0x100, leaf 5)], latPend := 1 }).modCore 1 fun x => { x with clauses := [(2, 1)] })
def upd1 : Dev := upd0.setReg .coreSeqStat 1 1 2
def withUpdBytes (bs : List Byte) : Dev := upd1.lsWrite 1 64 bs

/-- An accepted descriptor of context 1. -/
def acc (bs : List Byte) : Upd := ⟨5, 1, 2, bs, false, [(31, 0)], 0, 0, false, false, [], [], 0, [], [], [], false⟩
def withUpds (u : Upd) : Dev := upd1.modCtx 1 fun x => { x with upds := [u] }
/-- The same context with no update of the step pending. -/
def idleUpd : Dev := (withUpds (acc uSgdm)).modCtx 1 fun x => { x with latPend := 0 }
def begun (n : Nat) (bs : List Byte) : Upd := { acc bs with begun := true, total := 1, counts := [0], next := [(31, n)] }
def reducing : Dev := (withUpds (acc uReduce)).pokeVa 1 0x402000 (leBytes 8 0x400000 ++ leBytes 8 0x401000)

theorem wit_UpdateCommandsComplete : Obligations.UpdateCommandsComplete →
    (∃ t, exec (.upd 1 2 64 []) (st (withUpdBytes uSgdm)) = .next t) ∧ (∃ t, exec (.apply 1 5 []) (st (withUpds (acc uSgdm))) = .next t) ∧
    (∃ t, exec (.apply 1 5 []) (st idleUpd) = .next t) ∧
    (∃ t, exec (.watch 1 5) (st (withUpds (acc (uBytes [(0, 1, 1)])))) = .next t) ∧
    (∃ t, exec (.unwatch 1 5) (st (withUpds (acc (uBytes [(0, 1, 2)])))) = .next t) ∧
    (∃ t, exec (.reduce 1 5) (st reducing) = .next t) ∧
    (∃ t, exec (.updChunk 1 5 31 []) (st (withUpds (begun 0 uSgdm))) = .next t) ∧
    (∃ t, exec (.factPassB 1 5) (st (withUpds (begun 1 uFact))) = .next t) ∧
    ∃ t, exec (.updComplete 1 5) (st (withUpds (begun 1 (uBytes [(0, 1, 2)])))) = .next t := by
  intro ⟨h1, h2, h3, h4, h5, h6, h7, h8⟩
  refine ⟨(h1 (st (withUpdBytes uSgdm)) 1 2 64 1 0 (clause 1 [1] false) [] [] [] _ (runs ?_) ?_ ?_ ?_ ?_ (first (okIs ?_))).elim fun t x => ⟨t, x.elim fun _ y => y.1⟩,
    ⟨_, (h2 (st (withUpds (acc uSgdm))) 1 5 [] (acc uSgdm) ?_ ?_ ?_ ?_ ?_ ?_).2 _ _ ?_ (gives (by decide +kernel))⟩,
    ⟨_, (h2 (st idleUpd) 1 5 [] (acc uSgdm) ?_ ?_ ?_ ?_ ?_ ?_).1 ?_⟩,
    (h3 (st (withUpds (acc (uBytes [(0, 1, 1)])))) 1 5 (acc (uBytes [(0, 1, 1)])) ?_ ?_ ?_ ?_ ?_ ?_ ?_).imp fun _ x => x.1,
    (h4 (st (withUpds (acc (uBytes [(0, 1, 2)])))) 1 5 (acc (uBytes [(0, 1, 2)])) ?_ ?_ ?_ ?_ ?_).imp fun _ x => x.1,
    ⟨_, h5 (st reducing) 1 5 (acc uReduce) ?_ ?_ ?_ ?_ ?_ ?_⟩,
    ⟨_, h6 (st (withUpds (begun 0 uSgdm))) 1 5 31 0 [] (begun 0 uSgdm) _ _ ?_ ?_ ?_ ?_ ?_ ?_ ?_ ?_ (gives (by decide +kernel))⟩,
    ⟨_, h7 (st (withUpds (begun 1 uFact))) 1 5 (begun 1 uFact) _ _ ?_ ?_ ?_ ?_ ?_ ?_ ?_ ?_ (gives (by decide +kernel))⟩,
    ⟨_, h8 (st (withUpds (begun 1 (uBytes [(0, 1, 2)])))) 1 5 (begun 1 (uBytes [(0, 1, 2)])) { begun 1 (uBytes [(0, 1, 2)]) with written := true } _ ?_ ?_ ?_ ?_ ?_ ?_ rfl ?_⟩⟩
  all_goals decide +kernel

/-! ### Witnesses: Accord, tiers -/

/-- The context with quotas and a granule, and weight set 255, which is local, of one shard of 64 bytes at frames 10 and 11. -/
def set0 : WSet := { WSet.init with bank0 := 163840, bank1 := 180224, table := [(0, 64)], tmoMs := 1 }
def ws : Dev := put [(F.accSetCfg_valid, 255, 1), (F.accSetCfg_ctx, 255, 1), (F.accSetCfg_local, 255, 1)] (sil.setWset 255 set0)
/-- A table of one shard, in memory. -/
def tabled (d : Dev) : Dev := d.pokeVa 1 0x402000 (leBytes 8 (64 * 2 ^ 32))
/-- A list of one shard to send, in memory: shard 0 at 0x400000. -/
def listed (d : Dev) : Dev := d.pokeVa 1 0x402000 (leBytes 8 0 ++ leBytes 8 0x400000)
def dWs : List Byte := desc 5 0 [(17, 1, 0xFF), (18, 2, 255), (22, 2, 1), (24, 8, 2 ^ 40), (32, 8, 64), (40, 8, 0x402000), (48, 8, 0x400000)]
def dSend : List Byte := desc 5 1 [(18, 2, 255), (22, 2, 1), (40, 8, 0x402000), (56, 4, 2 ^ 32 - 2)]
def sending : Sending := ⟨who, 255, 4, [0], 0, []⟩
def sends0 : Dev := { ws with sends := [sending] }

theorem parts {α β γ δ : Type} (p : α × β × γ × δ) : p = (p.1, p.2.1, p.2.2.1, p.2.2.2) := rfl

theorem wit_PublishDescriptorsComplete : Obligations.PublishDescriptorsComplete →
    (∃ t, exec (.wsCreate 0 0 []) (st (taken dWs (tabled sil))) = .next t) ∧
    (∃ t, exec (.send 0 0 []) (st (taken dSend (listed ws))) = .next t) ∧ (∃ t, exec (.sendComplete 0 0) (st sends0) = .next t) ∧
    (∃ t, exec (.wsDestroy 0 0) (st (taken (desc 5 2 [(18, 2, 255)]) ws)) = .next t) ∧
    ∃ t, exec (.await 0 0) (st (taken (desc 5 3 [(18, 2, 255)]) ws)) = .next t := by
  intro ⟨h1, h2, h3, h4, h5⟩
  refine ⟨⟨_, h1 (st (taken dWs (tabled sil))) 0 0 1 0 1 who dWs [] _ _ _ _ (stands ?_) ?_ ?_ ?_ ?_ ?_ ?_ ?_ (both _) ?_ ?_ ?_ ?_ ?_ ?_
      (both _) ?_⟩,
    ⟨_, h2 (st (taken dSend (listed ws))) 0 0 1 who dSend [] _ _ _ _ _ _ _ _ _ (stands ?_) ?_ ?_ ?_ ?_ (both _) ?_ ?_ rfl ?_ ?_ (parts _) (both _)⟩,
    (h3 (st sends0) 0 0 sending ?_ ?_ ?_ ?_ (awaited ?_)).imp fun _ x => x.1,
    ⟨_, h4 (st (taken (desc 5 2 [(18, 2, 255)]) ws)) 0 0 1 who (desc 5 2 [(18, 2, 255)]) (stands ?_) ?_ ?_ ?_⟩,
    (h5 (st (taken (desc 5 3 [(18, 2, 255)]) ws)) 0 0 1 who (desc 5 3 [(18, 2, 255)]) (stands ?_) ?_ ?_).imp fun _ x => x.1⟩
  all_goals decide +kernel

/-- A set that holds an assembly, and one whose assembly has stood still. -/
def heldSet : Dev := put [(F.accSetStat_state, 255, 1), (F.accSetStat_asm, 255, 4)] ws
def stillSet : Dev := put [(F.accSetStat_state, 255, 2), (F.accSetStat_asm, 255, 4)] { ws with time := { ws.time with now := 65536 * 10 ^ 6 } }
/-- A share that has stood at its cap since the cold reset, of the flits held to land and of those staged for port 31. -/
def shared (edge : Option Nat) : Dev := put [(F.accGrpCfg_cap, 63, 1)] { ws with
  time := { ws.time with now := 65536 * 10 ^ 6 }, shares := [(63, 65535, 4, edge, 0)] }
def landing : Dev := put [(F.accSetCfg_local, 255, 0), (F.accSetCfg_group, 255, 63), (F.accSetCfg_gset, 255, 65535)]
  ((shared none).modWset 255 fun x => { x with held := List.replicate 4096 (0, ⟨0, 63, 65535, 4, 0, 64, 0, 1, []⟩) })
def edged : Dev := (shared (some 31)).modPort 31 fun x => { x with
  egress := [⟨2, 63, 5, 0, 0, 4096, 4096, .acc ⟨0, 63, 65535, 4, 0, 64, 0, 1, []⟩, .acc 63, 1, 4096, none⟩] }
def flit (kind : Nat) : AccFlit := ⟨kind, 63, 65535, 4, 0, 64, 0, 1, leBytes 64 0⟩
def detach : AccFlit := ⟨2, 63, 65535, 4, 0, 0, 0, 1, []⟩

theorem wit_PublishEventsComplete : Obligations.PublishEventsComplete →
    (∃ t, exec (.accordFlitArrive 31 (flit 1)) (st ws) = .next t) ∧ (∃ t, exec (.bankRelease 255) (st heldSet) = .next t) ∧
    (∃ t, exec (.shareDetach 63 65535 4 none) (st landing) = .next t) ∧
    (∃ t, exec (.shareDetach 63 65535 4 (some 31)) (st edged) = .next t) ∧
    (∃ t, exec (.detachFlitArrive detach) (st ws) = .next t) ∧ ∃ t, exec (.asmTmo 255) (st stillSet) = .next t := by
  intro ⟨h1, h2, h3, h4, h5⟩
  refine ⟨⟨_, h1 (st ws) 31 (flit 1) ?_ ?_⟩, ⟨_, h2 (st heldSet) 255 ?_ ?_ ?_ ?_⟩,
    ⟨_, (h3 (st landing) 63 65535 4 0 none ?_ ?_ ?_ ?_ ?_ ?_).1 rfl⟩,
    ⟨_, (h3 (st edged) 63 65535 4 0 (some 31) ?_ ?_ ?_ ?_ ?_ ?_).2 31 rfl ?_⟩, ⟨_, h4 (st ws) detach ?_ ?_⟩,
    ⟨_, h5 (st stillSet) 255 ?_ ?_ ?_ ?_⟩⟩
  all_goals decide +kernel

def dMap : List Byte := desc 7 0 [(17, 1, 8), (24, 8, 2 ^ 50 - 16384), (32, 8, 16384)]
def dUnmap : List Byte := desc 7 1 [(24, 8, 0x400000), (32, 8, 16384)]
def dMove : List Byte := desc 7 2 [(24, 8, 0x400000), (32, 8, 16384)]
def dHint : List Byte := desc 7 3 [(17, 1, 4), (24, 8, 0x400000), (32, 8, 16384)]

theorem wit_MigrateDescriptorsComplete : Obligations.MigrateDescriptorsComplete →
    (∃ t, exec (.map 0 0) (st (taken dMap sil)) = .next t) ∧ (∃ t, exec (.unmap 0 0) (st (taken dUnmap sil)) = .next t) ∧
    (∃ t, exec (.move 0 0) (st (taken dMove sil)) = .next t) ∧ ∃ t, exec (.hint 0 0) (st (taken dHint sil)) = .next t := by
  intro ⟨h1, h2, h3, h4⟩
  refine ⟨⟨_, h1 (st (taken dMap sil)) 0 0 1 who dMap _ (stands ?_) rfl ?_ ?_ ?_ ?_ ?_ ?_ ?_ ?_⟩,
    ⟨_, h2 (st (taken dUnmap sil)) 0 0 1 who dUnmap _ (stands ?_) rfl ?_ ?_ ?_ ?_ ?_ ?_ ?_⟩,
    ⟨_, h3 (st (taken dMove sil)) 0 0 1 who dMove _ [(0x100, 0, 5)] _ (stands ?_) rfl ?_ ?_ ?_ ?_ ?_ ?_ ?_ ?_ ?_ (first ?_)⟩,
    ⟨_, h4 (st (taken dHint sil)) 0 0 1 who dHint _ (stands ?_) rfl ?_ ?_ ?_ ?_ ?_ ?_ ?_⟩⟩
  all_goals decide +kernel

/-- A MOVE of granule 0x100 to frame 7 of the top note. -/
def moving : Dev := sil.modCtx 1 fun x => { x with moves := [⟨3, .desc who, 0, 0x100, 1, 0, [(0x100, 0, 7)], 0, 0⟩] }

/-- A MOVE of a granule of the heart note, which began longer ago than the tier's time. -/
def moveDown : Move := ⟨3, .desc who, 0, 0x140, 1, 0, [(0x140, 0, 7)], 0, 0⟩
def lateMove : Dev := { sil.modCtx 1 fun x => { x with leaves := [(0x140, { leaf 5 with tier := 1 })], moves := [moveDown] } with
  time := { sil.time with now := 65536 * 10 ^ 9 } }

theorem wit_TierEventsComplete : Obligations.TierEventsComplete →
    (∃ t, exec (.moveGranule 1 3 []) (st moving) = .next t) ∧
    (∃ t, exec (.tierRequestComplete (.move 255 3) 0 true) (st sil) = .next t) ∧
    (∃ t, exec (.tierTimeoutExpiry (.move 1 3) 0x500000) (st lateMove) = .next t) ∧
    (∃ t, exec (.patrolScrub 0 0 3 false true) (st sil) = .next t) ∧
    (∃ t, exec (.tierQuotaWrite 0 1 2 0) (st sil) = .next t) ∧ ∃ t, exec (.tierProbe 0 1 0x403FFF) (st sil) = .next t := by
  intro ⟨h1, h2, h3, h4, h5, h6⟩
  refine ⟨⟨_, h1 (st moving) 1 3 0x100 0 7 [] ⟨3, .desc who, 0, 0x100, 1, 0, [(0x100, 0, 7)], 0, 0⟩ [] (leaf 5) _ ?_ ?_ ?_ ?_ ?_ (first ?_)⟩,
    ⟨_, h2 (st sil) 255 3 0 ?_⟩, ⟨_, h3 (st lateMove) 1 3 0x500000 1 moveDown ?_ ?_ ?_ ?_ ?_⟩, (h4 (st sil) 0 3 ?_).imp fun _ x => x.1,
    ⟨_, h5 (st sil) 1 2 0 ?_ ?_ ?_ ?_⟩, ⟨_, h6 (st sil) 0 1 0x403FFF 0x100 (leaf 5) ?_ ?_ ?_⟩⟩
  all_goals decide +kernel

/-! ### Witnesses: data movement, ports -/

/-- A transfer of 64 zero bytes to 0x3000. -/
def xZero : List Byte := bytes 64 [(0, 1, 4), (16, 4, 64), (20, 4, 1), (32, 8, 0x3000), (40, 4, 64), (44, 4, 1)]
/-- A transfer under that record. -/
def xf (seq path : Nat) (e : Option Nat) : Xfer := ⟨seq, path, 0, xZero, 0, 0, e, 0, 0, false, [], 0, false, false⟩
/-- Clause 0 of the context with quotas and a granule runs on sequencer 0 of core 0, with the record at 0x40 of its local store. -/
def xfer0 : Dev := { (mapped.lsWrite 0 64 xZero) with cfg := onePkg }
def waitingX (e : Option Nat) : Dev := (put [(F.dmaChCtl_retry, 0, 3)] xfer0).modCore 0 fun x => { x with xfers := [xf 0 0 e] }
def lastPath : Dev := mapped.modCore 0 fun x => { x with xfers := [xf 2 10 none] }

theorem wit_TransferInstructionsComplete : Obligations.TransferInstructionsComplete →
    (∃ t, exec (.dma 0 0 7 64 false) (st xfer0) = .next t) ∧ (∃ t, exec (.dmaWait 0 0 7 0) (st xfer0) = .next t) ∧
    (∃ t, exec (.dmaStat 0 0 7) (st xfer0) = .next t) ∧ (∃ t, exec (.dmaClr 0 0 7) (st xfer0) = .next t) ∧
    (∃ t, exec (.ptWait 0 0 0) (st xfer0) = .next t) ∧ (∃ t, exec (.ptStat 0 0) (st xfer0) = .next t) ∧
    ∃ t, exec (.ptClr 0 0) (st xfer0) = .next t := by
  intro ⟨h1, h2, h3, h4, h5, h6, h7⟩
  refine ⟨(h1 (st xfer0) 0 0 7 64 1 false (clause 0 [0] true) (runs ?_) ?_ ?_ ?_ ?_ ?_ ?_ ?_ ?_ ?_).imp fun _ x => x.elim fun _ y => y.1,
    ⟨_, h2 (st xfer0) 0 0 7 0 1 (clause 0 [0] true) (runs ?_) ?_ ?_ ?_⟩,
    (h3 (st xfer0) 0 0 7 1 (clause 0 [0] true) (runs ?_) ?_ ?_).imp fun _ x => x.1,
    (h4 (st xfer0) 0 0 7 1 (clause 0 [0] true) (runs ?_) ?_ ?_).imp fun _ x => x.1,
    ⟨_, h5 (st xfer0) 0 0 0 1 (clause 0 [0] true) (runs ?_) ?_ ?_⟩,
    (h6 (st xfer0) 0 0 1 (clause 0 [0] true) (runs ?_)).imp fun _ x => x.1,
    (h7 (st xfer0) 0 0 1 (clause 0 [0] true) (runs ?_)).imp fun _ x => x.1⟩
  all_goals decide +kernel

/-- Group 63 of context 1: this device and rank 1. -/
def grp (d : Dev) : Dev := put [(F.fabGrpCfg_valid, 63, 1), (F.fabGrpCfg_ctx, 63, 1), (F.fabGrpCtl_tmo_us, 63, 1000)]
  (d.setGroup 63 ⟨[(0, 1), (1, 1)], none, [], 1, [], []⟩)
/-- The transfer record of a DMA command, in memory. -/
def copying : Dev := xfer0.pokeVa 1 0x2000 xZero
def dCopy : List Byte := desc 2 0 [(24, 8, 0x2000)]

theorem wit_TransfersComplete : Obligations.TransfersComplete →
    (∃ t, exec (.dmaTransfer 0 0 []) (st (waitingX none)) = .next t) ∧
    (∃ t, exec (.dmaTransfer 0 10 []) (st lastPath) = .next t) ∧
    (∃ t, exec (.dmaTransferComplete 0 0) (st (waitingX (some 0))) = .next t) ∧
    (∃ t, exec (.dmaRetry 0 0 0x3000) (st (waitingX none)) = .next t) ∧
    (∃ t, exec (.remoteWriteArrive 63 1 ⟨0, 0, 0, 0⟩ 0x3000 (leBytes 64 9) []) (st (grp xfer0)) = .next t) ∧
    (∃ t, exec (.dmaCopy 0 0 [] 0 0) (st (taken dCopy copying)) = .next t) ∧
    ∃ t, exec (.dmaCopy 0 0 [] 4 0x3010) (st (taken dCopy copying)) = .next t := by
  intro ⟨h1, h2, h3, h4, h5⟩
  refine ⟨⟨_, h1 (st (waitingX none)) 0 0 _ [] (xf 0 0 none) _ ?_ ?_ ?_ ?_ ?_ ?_ ?_ (first3 ?_)⟩,
    ⟨_, h1 (st lastPath) 0 10 _ [] (xf 2 10 none) _ ?_ ?_ ?_ ?_ ?_ ?_ ?_ (first3 ?_)⟩,
    (h2 (st (waitingX (some 0))) 0 0 (xf 0 0 (some 0)) ?_ ?_ ?_ ?_).imp fun _ x => x.1,
    (h3 (st (waitingX none)) 0 0 0 0 0x3000 (xf 0 0 none) ?_ ?_ ?_ ?_ ?_ ?_ ?_).imp fun _ x => x.1,
    ⟨_, h4 (st (grp xfer0)) 63 1 0x3000 _ ⟨0, 0, 0, 0⟩ 0x3000 (leBytes 64 9) [] (1, 1) _ _ ?_ ?_ ?_ ?_ ?_ ?_ ?_ (both4 _)⟩,
    ⟨_, h5 (st (taken dCopy copying)) 0 0 1 0 _ 0 _ who dCopy [] _ _ _ (stands ?_) ?_ ?_ ?_ ?_ (both _) ?_ ?_ ?_ ?_ ?_ ?_ ?_ ?_ rfl (first3 ?_)⟩,
    ⟨_, h5 (st (taken dCopy copying)) 0 0 1 4 _ 0x3010 _ who dCopy [] _ _ _ (stands ?_) ?_ ?_ ?_ ?_ (both _) ?_ ?_ ?_ ?_ ?_ ?_ ?_ ?_ rfl (first3 ?_)⟩⟩
  all_goals decide +kernel

/-- Port 31 UP; and DOWN, enabled, named and powered. -/
def up : Dev := put [(F.fabPortStat_state, 31, portUp)] base
def cold : Dev := (put [(F.fabPortCfg_enable, 31, 1), (F.fabPortStat_level_set, 31, 1)] (base.setReg .pwrDomOn 0 (2 ^ 63) 4)).modPort 31
  fun x => { x with topoRank := 4095 }
def late (d : Dev) : Dev := { d with time := { d.time with now := 65536 * 10 ^ 9 } }
def retraining : Dev := late ((put [(F.fabPortStat_state, 31, portTrain)] base).modPort 31 fun x => { x with retrainAt := some 0 })
def wornPort (n : Nat) (r : Option Nat) : Dev := late (up.modPort 31 fun x => { x with keyCount := [(1, n)], rekeyAt := r, topoRank := 5 })
def recalled : Dev := put [(F.fabPortCfg_recal, 31, 1)] up
def recalling : Dev := recalled.modPort 31 fun x => { x with recal := true }

/-- A flit of class 0 with SEQ 0 and its CRC. -/
def flitBody : List Byte := bytes 252 [(0, 8, 77)]
def flit0 : Flit := ⟨flitBody ++ leBytes 4 (crc32c flitBody), true, [], .other⟩

theorem wit_PortEventsComplete : Obligations.PortEventsComplete →
    (∃ t, exec (.flitReceive 31 flit0 []) (st up) = .next t) ∧ (∃ t, exec (.replayRequest 31 (2 ^ 32 - 1)) (st up) = .next t) ∧
    (∃ t, exec (.portTraining 31 3 (.ok (cold.port 31).topoRank false)) (st cold) = .next t) ∧ (∃ t, exec (.laneFail 31) (st up) = .next t) ∧
    (∃ t, exec (.retrainTimeout 31) (st retraining) = .next t) ∧ (∃ t, exec (.portDown 31) (st up) = .next t) ∧
    (∃ t, exec (.rekey 31 1 (.ok ((wornPort rekeyAfter none).port 31).topoRank true)) (st (wornPort rekeyAfter none)) = .next t) ∧
    (∃ t, exec (.rekeyRetry 31 .failed) (st (wornPort rekeyAfter (some 0))) = .next t) ∧
    (∃ t, exec (.keyLimitReached 31) (st (wornPort keyLimit none)) = .next t) ∧ (∃ t, exec (.recal 0 31) (st base) = .next t) ∧
    (∃ t, exec (.recalStart 31) (st recalled) = .next t) ∧ ∃ t, exec (.recalComplete 31 3) (st recalling) = .next t := by
  intro ⟨h1, h2, h3, h4, h5, h6, h7, h8, h9, h10, h11, h12⟩
  refine ⟨⟨_, h1 (st up) 31 flit0 [] ?_ ?_ ?_ ?_ ?_ ?_ ?_ ?_ ?_⟩, (h2 (st up) 31 (2 ^ 32 - 1) ?_ ?_ ?_).imp fun _ x => x.1,
    (h3 (st cold) 31 1 3 false ?_ ?_ ?_ ?_ ?_ ?_ ?_ ?_ ?_).imp fun _ x => x.1, ⟨_, h4 (st up) 31 ?_ ?_⟩,
    ⟨_, h5 (st retraining) 31 0 ?_ ?_ ?_ ?_⟩, ⟨_, h6 (st up) 31 ?_ ?_⟩,
    (h7 (st (wornPort rekeyAfter none)) 31 1 true ?_ ?_ ?_ ?_ ?_).imp fun _ x => x.1,
    ⟨_, h8 (st (wornPort rekeyAfter (some 0))) 31 0 .failed ?_ ?_ ?_ ?_⟩, ⟨_, h9 (st (wornPort keyLimit none)) 31 ?_ ?_ ?_⟩,
    (h10 (st base) 31 ?_ ?_).imp fun _ x => x.1, (h11 (st recalled) 31 ?_ ?_ ?_ ?_ ?_).imp fun _ x => x.1,
    (h12 (st recalling) 31 1 3 ?_ ?_ ?_).imp fun _ x => x.1⟩
  all_goals decide +kernel

/-! ### Witnesses: collectives, checkpoints -/

/-- The table of group 63 in memory: this device and rank 1, each with context 1. -/
def peers : Dev := xfer0.pokeVa 1 0x2000 (leBytes 4 0x1000 ++ leBytes 4 0x1001)
def dGroup : List Byte := desc 3 0 [(18, 1, 63), (20, 4, 2), (24, 8, 0x2000)]
def dUngroup : List Byte := desc 3 1 [(18, 1, 63)]
def dOp (op : Nat) : List Byte := desc 3 op [(18, 1, 63), (20, 4, if op = 6 then 0 else 64), (24, 8, if op = 6 then 0 else 0x2000),
  (32, 8, if op = 6 then 0 else 0x3000), (52, 4, if op = 2 || op = 3 then 0x3F800000 else 0)]

theorem wit_CollectiveDescriptorsComplete : Obligations.CollectiveDescriptorsComplete →
    (∃ t, exec (.group 0 0) (st (taken dGroup peers)) = .next t) ∧
    (∃ t, exec (.collDestroy 0 0) (st (taken dUngroup (grp xfer0))) = .next t) ∧
    (∃ t, exec (.allReduce 0 0 []) (st (taken (dOp 2) (grp xfer0))) = .next t) ∧
    (∃ t, exec (.reduceScatter 0 0 []) (st (taken (dOp 3) (grp xfer0))) = .next t) ∧
    (∃ t, exec (.allGather 0 0 []) (st (taken (dOp 4) (grp xfer0))) = .next t) ∧
    (∃ t, exec (.broadcast 0 0 []) (st (taken (dOp 5) (grp xfer0))) = .next t) ∧
    ∃ t, exec (.barrier 0 0) (st (taken (dOp 6) (grp xfer0))) = .next t := by
  intro ⟨h1, h2, h3⟩
  refine ⟨(h1 (st (taken dGroup peers)) 0 0 1 who dGroup _ _ (stands ?_) ?_ (both _) ?_ ?_ ?_ ?_ ?_).elim
      fun _ x => x.elim fun _ y => ⟨_, y.2.2.2.2.2.2⟩,
    ⟨_, h2 (st (taken dUngroup (grp xfer0))) 0 0 1 who dUngroup (stands ?_) ?_ ?_⟩,
    ⟨_, (h3 (st (taken (dOp 2) (grp xfer0))) 0 0 2 1 who (dOp 2) [] (stands ?_) ?_ ?_).1 rfl⟩,
    ⟨_, (h3 (st (taken (dOp 3) (grp xfer0))) 0 0 3 1 who (dOp 3) [] (stands ?_) ?_ ?_).2.1 rfl⟩,
    ⟨_, (h3 (st (taken (dOp 4) (grp xfer0))) 0 0 4 1 who (dOp 4) [] (stands ?_) ?_ ?_).2.2.1 rfl⟩,
    ⟨_, (h3 (st (taken (dOp 5) (grp xfer0))) 0 0 5 1 who (dOp 5) [] (stands ?_) ?_ ?_).2.2.2.1 rfl⟩,
    ⟨_, (h3 (st (taken (dOp 6) (grp xfer0))) 0 0 6 1 who (dOp 6) [] (stands ?_) ?_ ?_).2.2.2.2 rfl⟩⟩
  all_goals decide +kernel

/-- A GROUP that has waited for a second; an ALL_GATHER of 64 bytes with both members' bytes here. -/
def forming0 : Forming := ⟨who, 1, [(0, 1), (1, 1)], 0, 2000, [], 0⟩
def formed : Dev := late (xfer0.modGroup 63 fun x => { x with forming := some forming0 })
def gather : CollOp := { CollOp.early 5 with
  sig := ⟨4, 0, 64, 0, 0⟩, src := 0x2000, dst := 0x3000, who := some who, issued := some 0, running := true, downs := [(0, 0, leBytes 64 1), (0, 1, leBytes 64 2)] }
def gathering : Dev := late ((grp xfer0).modGroup 63 fun x => { x with ops := [gather] })
/-- The device's own operations with what they wait for: a plan, the summaries, a vote. -/
def withOp (o : CollOp) (d : Dev) : Dev := late ((grp d).modGroup 63 fun x => { x with ops := [o] })
def planOp : CollOp := { CollOp.early 5 with sig := ⟨5, 0, 64, 0, 0⟩, use := .plan, issued := some 0, running := true, downs := [(0, 0, leBytes 64 1)] }
def sumOp : CollOp := { gather with who := none, use := .summary }
def voteOp : CollOp := { CollOp.early 5 with sig := ⟨2, 0, 64, 0, 0⟩, use := .vote, issued := some 0, running := true, downs := [(0, 0, leBytes 4 0)] }
/-- Down flits of the operation that have stood staged for port 31 at the cap of one buffer block, and bytes that are not yet written. -/
def edgeFull : Dev := put [(F.poolCfg_coll_cap, 1, 1)] ((withOp { gather with caps := [(some 31, 0)] } xfer0).modPort 31 fun x => { x with
  egress := [⟨2, 63, 5, 1, 0, 4096, 4096, .collDown 5 gather.sig 0 0 [], .coll 63, 1, 4096, none⟩] })
def pileOp : CollOp := { gather with caps := [(none, 0)], downs := [(0, 0, List.replicate 786432 0)] }
def pile : Dev := put [(F.poolCfg_coll_cap, 0, 1)] (withOp pileOp xfer0)
def collStored : Dev := (grp xfer0).lsWrite 0 128 (dOp 4)

theorem wit_CollectiveEventsComplete : Obligations.CollectiveEventsComplete →
    (∃ t, exec (.joinReceive 63 4095 (leBytes 32 1)) (st xfer0) = .next t) ∧ (∃ t, exec (.groupJoinTimeout 63) (st formed) = .next t) ∧
    (∃ t, exec (.coll 0 0 128 []) (st collStored) = .next t) ∧ (∃ t, exec (.collWait 0 0 63 0) (st xfer0) = .next t) ∧
    (∃ t, exec (.collStat 0 0 63) (st xfer0) = .next t) ∧ (∃ t, exec (.collOperationComplete 63 5 []) (st gathering) = .next t) ∧
    (∃ t, exec (.collOperationComplete 63 5 []) (st (withOp planOp xfer0)) = .next t) ∧
    (∃ t, exec (.collOperationComplete 63 5 []) (st (withOp sumOp xfer0)) = .next t) ∧
    (∃ t, exec (.collOperationComplete 63 5 []) (st (withOp voteOp xfer0)) = .next t) ∧
    (∃ t, exec (.collAbortTimeout 63 5) (st gathering) = .next t) ∧ (∃ t, exec (.abortReceive 63 5 4095 4) (st gathering) = .next t) ∧
    ∃ t, exec (.collShareDetach 63 5 (some 31)) (st edgeFull) = .next t := by
  intro ⟨h1, h2, h3, h4, h5, h6, h7, h8, h9⟩
  refine ⟨⟨_, h1 (st xfer0) 63 4095 (leBytes 32 1) ?_ ?_⟩, ⟨_, h2 (st formed) 63 forming0 ?_ ?_ ?_⟩,
    ⟨_, h3 (st collStored) 0 0 128 1 (clause 0 [0] true) [] (runs ?_) ?_ ?_⟩,
    ⟨_, h4 (st xfer0) 0 0 63 0 1 (clause 0 [0] true) (runs ?_) ?_ ?_⟩,
    (h5 (st xfer0) 0 0 63 1 (clause 0 [0] true) (runs ?_) ?_).imp fun _ x => x.1,
    ⟨_, (h6 (st gathering) 63 5 _ gather [] ?_ ?_ ?_ rfl ?_).1 _ _ _ ?_ ?_ (both4 _)⟩,
    ⟨_, (h6 (st (withOp planOp xfer0)) 63 5 _ planOp [] ?_ ?_ ?_ rfl ?_).2.1 ?_⟩,
    ⟨_, (h6 (st (withOp sumOp xfer0)) 63 5 _ sumOp [] ?_ ?_ ?_ rfl ?_).2.2.1 ?_⟩,
    ⟨_, (h6 (st (withOp voteOp xfer0)) 63 5 _ voteOp [] ?_ ?_ ?_ rfl ?_).2.2.2 ?_⟩,
    ⟨_, h7 (st gathering) 63 5 0 gather ?_ ?_ ?_ ?_ ?_ ?_⟩, ⟨_, h8 (st gathering) 63 5 4095 4 ?_ ?_⟩,
    ⟨_, (h9 (st edgeFull) 63 5 0 (some 31) { gather with caps := [(some 31, 0)] } ?_ ?_ ?_ ?_ ?_).2 31 _ rfl ?_ rfl⟩⟩
  all_goals decide +kernel

/-- The landing share of the operation of `pile` stands at its cap where the free value of what is not yet written (log entry 75) reaches
the cap; no state decides that value. -/
theorem wit_landingShare (h : 4096 ≤ Sys2Proof.Config.undelivered 63 5 0 pile.cycles) : Obligations.CollectiveEventsComplete →
    ∃ t, exec (.collShareDetach 63 5 none) (st pile) = .next t := by
  intro ⟨_, _, _, _, _, _, _, _, h9⟩
  have e : pile.get F.poolCfg_coll_cap 0 = 1 := by decide +kernel
  refine ⟨_, (h9 (st pile) 63 5 0 none pileOp (by decide) rfl (by decide +kernel) (by decide +kernel) ?_).1 rfl⟩
  show pile.collAtCap 63 pileOp none = true
  have m : pileOp.mine = true := by decide
  have l : pileOp.downs = [(0, 0, List.replicate 786432 0)] := rfl
  simp only [Dev.collAtCap, List.any_cons, Bool.and_eq_true, Bool.or_eq_true, decide_eq_true_eq]
  refine ⟨rfl, Or.inl ?_⟩
  rw [e]
  simp only [Dev.collShare, m, if_true, l, List.map_cons, List.map_nil, List.length_replicate]
  exact Nat.le_min.mpr ⟨by decide, h⟩

/-- A base pool of 1 GiB, an area of 4 MiB at 2^49 of it, and quotas. -/
def pooled : Dev := ((put [(F.hostBase_valid, 0, 1), (F.hostBase_len, 0, 512)] xfer0).setReg .tierQuota 1 (2 ^ 30) 0).setReg .tierQuota 1 (2 ^ 30) 2
def area0 : Area := ⟨2 ^ 49, 2 ^ 22, 2 ^ 22⟩
def mapd (d : Dev) : Dev := okDev (d.mapArea 1 (2 ^ 49) (2 ^ 22) (2 ^ 22))
/-- A LIST of one slice: one FP32 element at 0x3000. -/
def entry0 : List Byte := bytes 160 [(12, 4, 0x3F800000), (24, 1, 1), (32, 4, 1), (96, 4, 1), (128, 8, 0x3000)]
def saving : Dev := mapd (pooled.pokeVa 1 0x2000 entry0)
def dArea : List Byte := desc 8 0 [(24, 8, 2 ^ 49), (32, 8, 2 ^ 22), (40, 8, 2 ^ 22)]
def dUnarea : List Byte := desc 8 0 [(24, 8, 2 ^ 49)]
def dSave : List Byte := desc 8 1 [(20, 4, 1), (24, 8, 2 ^ 49), (32, 8, 0x2000), (40, 8, 9), (56, 4, 512)]
def dRestore : List Byte := desc 8 2 [(20, 4, 1), (24, 8, 2 ^ 49), (32, 8, 0x2000)]
def dQuery : List Byte := desc 8 3 [(24, 8, 2 ^ 49), (32, 8, 0x3000)]

theorem wit_CheckpointDescriptorsComplete : Obligations.CheckpointDescriptorsComplete →
    (∃ t, exec (.area 0 0) (st (taken dArea pooled)) = .next t) ∧ (∃ t, exec (.area 0 0) (st (taken dUnarea saving)) = .next t) ∧
    (∃ t, exec (.save 0 0) (st (taken dSave saving)) = .next t) ∧ (∃ t, exec (.restore 0 0 []) (st (taken dRestore saving)) = .next t) ∧
    ∃ t, exec (.query 0 0 []) (st (taken dQuery saving)) = .next t := by
  intro ⟨h1, h2, h3, h4, h5⟩
  refine ⟨⟨_, h1 (st (taken dArea pooled)) 0 0 1 who dArea _ (stands ?_) ?_ ?_ ?_ ?_ ?_ ?_ (oks ?_)⟩,
    ⟨_, h2 (st (taken dUnarea saving)) 0 0 1 who dUnarea area0 (stands ?_) ?_ ?_ ?_ ?_ ?_ ?_ ?_ ?_⟩,
    (h3 (st (taken dSave saving)) 0 0 1 who dSave area0 _ _ (stands ?_) ?_ ?_ ?_ ?_ ?_ ?_ (both _) ?_ ?_ ?_ ?_ ?_).imp fun _ x => x.1,
    ⟨_, h4 (st (taken dRestore saving)) 0 0 1 who dRestore area0 _ [] _ _ _ _ _ _ _ _ _ (stands ?_) ?_ ?_ ?_ ?_ ?_ ?_ ?_ (both _) ?_ ?_ ?_ ?_
      ?_ ?_ (both4 _) (both4 _) rfl rfl⟩,
    ⟨_, h5 (st (taken dQuery saving)) 0 0 1 _ who dQuery area0 [] _ _ _ _ _ (stands ?_) ?_ ?_ ?_ ?_ (mid3 ?_) (mid3 ?_) (first3 ?_)⟩⟩
  all_goals decide +kernel

/-- A SAVE of no shard in its writes, and waiting for the outcome: alone, and on a member that is rank 1 of its job group 63, where the outcome is here. -/
def dSaveNone : List Byte := desc 8 1 [(24, 8, 2 ^ 49), (32, 8, 0x2000), (40, 8, 9), (56, 4, 512)]
def ckpt0 : Ckpt := ⟨who, dSaveNone, 2 ^ 49, 2 ^ 22, 0, 0, 0, [], 9, [], 2⟩
def alone (n : Nat) : Dev := (put [(F.ckptStat_phase, 1, n), (F.ckptJob_grp, 1, 0xFF)] saving).modCtx 1 fun x => { x with ckpt := some ckpt0 }
def outOp : CollOp := { CollOp.early 4 with sig := ⟨5, 0, 64, 0, 0⟩, use := .outcome, issued := some 0, running := true, downs := [(0, 0, leBytes 64 0)] }
def member (n : Nat) : Dev := put [(F.ckptJob_grp, 1, 63), (F.fabGrpCfg_rank, 63, 1)] (withOp outOp (alone n))

theorem alone_writes : ((st (alone 3)).dev.writeMember 1 ckpt0 []).1.status ≠ Status.collAbort := by decide +kernel

theorem wit_LoneSaveWrites : Obligations.ContextRegistersTakeWrites → ∃ t, exec (.saveWritesDone 1 []) (st (alone 3)) = .next t := by
  intro h
  have e := both ((st (alone 3)).dev.writeMember 1 ckpt0 [])
  have g := h.1 (st (alone 3)) 1 [] ckpt0 _ _ _ (by decide) (by decide +kernel) (by decide +kernel) (by decide +kernel) e alone_writes rfl
  exact ⟨_, g.1 (by decide +kernel)⟩

theorem member_writes : ((st (member 3)).dev.writeMember 1 ckpt0 []).1.status ≠ Status.collAbort := by decide +kernel

/-- The member's device after its writes. -/
def memberWrote : Dev := (((((st (member 3)).dev.writeMember 1 ckpt0 []).2.modCtx 1 fun x =>
  { x with ckpt := some ((st (member 3)).dev.writeMember 1 ckpt0 []).1 }).releaseHold 1).put F.ckptStat_phase 1 4)
theorem memberWrote_group : memberWrote.jobGroup 1 = some 63 ∧ memberWrote.inGroup 1 63 = true := by decide +kernel

theorem wit_SavesWrite : Obligations.ContextRegistersTakeWrites → ∃ t, exec (.saveWritesDone 1 []) (st (member 3)) = .next t := by
  intro h
  have e := both ((st (member 3)).dev.writeMember 1 ckpt0 [])
  have g := h.1 (st (member 3)) 1 [] ckpt0 _ _ memberWrote (by decide) (by decide +kernel) (by decide +kernel) (by decide +kernel) e member_writes rfl
  exact ⟨_, g.2 63 memberWrote_group.1 memberWrote_group.2⟩

theorem wit_LoneSaveEnds : Obligations.ContextRegistersTakeWrites → ∃ t, exec (.saveOutcome 1 []) (st (alone 4)) = .next t := by
  intro h
  have g := (h.2.1 (st (alone 4)) 1 [] ckpt0 (by decide) (by decide +kernel) (by decide +kernel) (by decide +kernel)).1
  have j : (st (alone 4)).dev.jobGroup 1 = none := by decide +kernel
  have e := both ((st (alone 4)).dev.judge 1 ckpt0 [ckpt0.summary] [])
  have g := g _ _ j e
  exact ⟨_, g⟩

theorem wit_SavesEnd : Obligations.ContextRegistersTakeWrites → ∃ t, exec (.saveOutcome 1 []) (st (member 4)) = .next t := by
  intro h
  have g := (h.2.1 (st (member 4)) 1 [] ckpt0 (by decide) (by decide +kernel) (by decide +kernel) (by decide +kernel)).2 63 outOp
  exact ⟨_, g (by decide +kernel) (by decide +kernel) (by decide +kernel)⟩

theorem wit_ContextRegistersTakeWrites : Obligations.ContextRegistersTakeWrites →
    (∃ t, exec (.ckptJobWrite 0 1 0 5) (st base) = .next t) ∧ (∃ t, exec (.ckptJobWrite 0 1 1 0xFF) (st base) = .next t) ∧
    (∃ t, exec (.lrnStepWrite 0 1 5) (st base) = .next t) ∧
    (∃ t, exec (.kvBaseWrite 0 1 0 5) (st base) = .next t) ∧ (∃ t, exec (.kvBaseWrite 0 1 1 5) (st base) = .next t) ∧
    (∃ t, exec (.kvBaseWrite 0 1 2 5) (st base) = .next t) ∧
    (∃ t, exec (.kvPoolWrite 0 1 0) (st base) = .next t) ∧ ∃ t, exec (.kvPoolWrite 0 1 100) (st sil) = .next t := by
  intro ⟨_, _, h3, h4, h5, h6⟩
  refine ⟨⟨_, (h3 (st base) 0 1 5 ?_ ?_ ?_).1⟩, ⟨_, (h3 (st base) 0 1 0xFF ?_ ?_ ?_).2⟩,
    ⟨_, h4 (st base) 0 1 5 ?_ ?_ ?_ ?_⟩, ⟨_, (h5 (st base) 0 1 5 ?_ ?_ ?_).1⟩, ⟨_, (h5 (st base) 0 1 5 ?_ ?_ ?_).2.1⟩,
    ⟨_, (h5 (st base) 0 1 5 ?_ ?_ ?_).2.2⟩, (h6 (st base) 0 1 0 ?_ ?_ ?_).imp fun _ x => x.1, (h6 (st sil) 0 1 100 ?_ ?_ ?_).imp fun _ x => x.1⟩
  all_goals decide +kernel

/-! ### Witnesses: tenants, queues, the host port -/

/-- Tenant 63, which may have anything, beside the device of `base`; and a context of it, TEARING. -/
def tenants : Dev := put [(F.tenCfg_enable, 63, 1), (F.tenCfg_max_ctx, 63, 256), (F.tenCfg_max_cores, 63, 256),
  (F.tenCfg_max_queues, 63, 16384), (F.tenSecStat_mode, 63, 1)] base
def tearing0 : Dev := put [(F.ctxState_state, 1, 2)] base
/-- A creation of a mixed context with one core for each role and 4,096 queues. -/
def vCreate : Word := BitVec.ofNat 64 (2 + 2 ^ 8 + 2 ^ 24 + 4096 * 2 ^ 40)
def dCores : List Byte := desc 10 0x20 [(18, 2, 1), (20, 2, 1)]
def coring : Dev := (put [(F.ctxState_gen_tgt, 1, 1), (F.ctxState_lrn_tgt, 1, 1)] base).modCtx 1 fun x => { x with coresReq := some ⟨who, none⟩ }

theorem wit_TenantCommandsComplete : Obligations.TenantCommandsComplete →
    (∃ t, exec (.tenCreate 63 63 vCreate) (st tenants) = .next t) ∧ (∃ t, exec (.ctxReset 0 1) (st base) = .next t) ∧
    (∃ t, exec (.ctxDestroy 0 1) (st base) = .next t) ∧ (∃ t, exec (.ctxTeardown 1) (st tearing0) = .next t) ∧
    (∃ t, exec (.tenantReset 0 63) (st tenants) = .next t) ∧ (∃ t, exec (.tenCfgWrite 0 63 1) (st tenants) = .next t) ∧
    (∃ t, exec (.cores 0 0) (st (taken dCores base)) = .next t) ∧ ∃ t, exec (.coresApply 1) (st coring) = .next t := by
  intro ⟨h1, h2, h3, h4, h5, h6, h7⟩
  refine ⟨(h1 (st tenants) 63 2 1 1 4096 0 4 vCreate ?_ ?_ ?_ ?_ ?_ ?_ ?_ ?_ ?_ ?_).imp fun _ x => x.1,
    ⟨_, (h2 (st base) 0 1 ?_ ?_ ?_).1⟩, ⟨_, (h2 (st base) 0 1 ?_ ?_ ?_).2⟩,
    (h3 (st tearing0) 1 ?_ ?_).elim fun _ x => x.elim fun _ y => ⟨_, y.2.2⟩, ⟨_, h4 (st tenants) 0 63 ?_ ?_ ?_⟩,
    (h5 (st tenants) 63 1 ?_ ?_ ?_ ?_).imp fun _ x => x.1,
    (h6 (st (taken dCores base)) 0 0 1 who dCores (stands ?_) ?_ ?_ ?_ ?_ ?_ ?_ ?_ ?_ ?_).imp fun _ x => x.1,
    (h7 (st coring) 1 _ _ ⟨who, none⟩ _ _ _ ?_ ?_ ?_ rfl ?_ rfl rfl rfl rfl ?_ ?_).imp fun _ x => x.1⟩
  all_goals decide +kernel

/-- A descriptor stands in the submission ring of queue 0, at host address 0x10000, and the tail is past it. -/
def submitted : Dev := (put [(F.queSqBase_base, 0, 16)] base).modQueue 0 fun x => { x with sqTail := 1 }
def finished (irq : Nat) : Dev := (put [(F.queCqBase_base, 0, 32), (F.queCfg_irq, 0, irq), (F.queStat_inflight, 0, 1)] base).modQueue 0 fun x =>
  { x with due := [⟨0, 0, 3, 7⟩], cqTail := 15, cqHead := 15 }
def stoppedQueue : Dev := put [(F.queCfg_enable, 0, 0), (F.queStat_state, 0, 0)] base

theorem wit_QueueCommandsComplete : Obligations.QueueCommandsComplete →
    (∃ t, exec (.queDb 0 0 15) (st base) = .next t) ∧ (∃ t, exec (.queCqDb 0 0 0) (st base) = .next t) ∧
    (∃ t, exec (.queEnable 0 0 1) (st stoppedQueue) = .next t) ∧ (∃ t, exec (.queDisable 0 0 0) (st base) = .next t) ∧
    (∃ t, exec (.descriptorTake 1 false) (st submitted) = .next t) ∧ ∃ t, exec (.descriptorTake 1 true) (st submitted) = .next t := by
  intro ⟨h1, h2, h3, h4, h5, h6⟩
  refine ⟨⟨_, h1 (st base) 0 0 15 ?_ ?_ ?_ ?_⟩, ⟨_, h2 (st base) 0 0 0 ?_ ?_ ?_ ?_ ?_⟩, ⟨_, h3 (st stoppedQueue) 0 0 1 ?_ ?_ ?_ ?_⟩,
    ⟨_, h4 (st base) 0 0 0 ?_ ?_ ?_⟩, ⟨_, h5 (st submitted) 1 0 ?_ ?_ ?_ ?_ ?_ ?_⟩,
    ⟨_, h6 (st submitted) 1 0 ?_ ?_ ?_ ?_ ?_ ?_⟩⟩
  all_goals decide +kernel

theorem wit_CompletionWriteStoresItsEntry : Obligations.CompletionWriteStoresItsEntry →
    (∃ t, exec (.completionWrite 0) (st (finished 0)) = .next t) ∧ ∃ t, exec (.completionWrite 0) (st (finished 1)) = .next t := by
  intro h
  refine ⟨(h (st (finished 0)) 0 1 ⟨0, 0, 3, 7⟩ [] ?_ ?_ ?_ ?_ ?_ ?_ ?_).imp fun _ x => x.1,
    (h (st (finished 1)) 0 1 ⟨0, 0, 3, 7⟩ [] ?_ ?_ ?_ ?_ ?_ ?_ ?_).imp fun _ x => x.1⟩ <;> decide +kernel

def dTopo : List Byte := desc 10 1 [(24, 8, 0x2000)]
def dBase : List Byte := desc 10 2 [(18, 2, 4095), (24, 8, 2 ^ 21), (32, 8, 2 ^ 30)]
def dWin : List Byte := desc 10 3 [(17, 1, 1), (18, 1, 63), (20, 4, 64), (32, 8, 2 ^ 50 - 2 ^ 30)]
def dPower : List Byte := desc 10 0x10 [(20, 2, 65535)]
def dThermal : List Byte := desc 10 0x11 [(20, 2, 0x8000), (22, 2, 1600)]
def dDetach : List Byte := desc 10 0x12 [(17, 1, 1)]

theorem wit_EnvDescriptorsComplete : Obligations.EnvDescriptorsComplete →
    (∃ t, exec (.topo 0 0 []) (st (taken dTopo mapped)) = .next t) ∧ (∃ t, exec (.base 0 0) (st (taken dBase base)) = .next t) ∧
    (∃ t, exec (.win 0 0) (st (taken dWin base)) = .next t) ∧ (∃ t, exec (.power 0 0) (st (taken dPower base)) = .next t) ∧
    (∃ t, exec (.thermal 0 0) (st (taken dThermal base)) = .next t) ∧ ∃ t, exec (.detach 0 0) (st (taken dDetach base)) = .next t := by
  intro ⟨h1, h2, h3, h4, h5, h6⟩
  refine ⟨⟨_, h1 (st (taken dTopo mapped)) 0 0 1 _ who dTopo [] _ _ (stands ?_) ?_ ?_ ?_ ?_ (both _) ?_ ?_ rfl ?_⟩,
    (h2 (st (taken dBase base)) 0 0 1 who dBase (stands ?_) ?_ ?_ ?_ ?_ ?_ ?_ ?_ ?_ ?_ ?_ ?_ ?_).imp fun _ x => x.1,
    ⟨_, h3 (st (taken dWin base)) 0 0 1 63 who dWin (stands ?_) ?_ ?_ ?_ ?_ ?_ ?_ ?_ ?_ ?_ ?_ ?_ ?_⟩,
    ⟨_, h4 (st (taken dPower base)) 0 0 1 who dPower (stands ?_) ?_ ?_ ?_⟩,
    (h5 (st (taken dThermal base)) 0 0 1 who dThermal (stands ?_) ?_ ?_ ?_ ?_ ?_).imp fun _ x => x.1,
    ⟨_, h6 (st (taken dDetach base)) 0 0 1 who dDetach (stands ?_) ?_ ?_⟩⟩
  all_goals decide +kernel

/-- A writable window of 1 GiB over the start of context 1; the port trained; nothing started; boot not complete. -/
def windowed : Dev := put [(F.hostWinCfg_valid, 0, 1), (F.hostWinCfg_w, 0, 1), (F.hostWinCfg_ctx, 0, 1), (F.hostWinCfg_len, 0, 1)] mapped
def trained : Dev := put [(F.hostStat_state, 0, 1)] base
def linking : Dev := put [(F.hostStat_state, 0, 0)] { base with linkStarted := true }

theorem wit_HostEventsComplete : Obligations.HostEventsComplete →
    (∃ t, exec (.hostWindowRead 0 0x3FFF 1 false []) (st windowed) = .next t) ∧
    (∃ t, exec (.hostWindowWrite 0 0x3FFF false [7] []) (st windowed) = .next t) ∧
    (∃ t, exec .linkL0Timeout (st base) = .next t) ∧ (∃ t, exec .viral (st base) = .next t) ∧ (∃ t, exec .ideFailure (st base) = .next t) ∧
    (∃ t, exec (.reattach 0) (st trained) = .next t) ∧ (∃ t, exec .hostAttach (st trained) = .next t) ∧
    (∃ t, exec .hostLinkTrainingStart (st { base with sec := { base.sec with stuck := false } }) = .next t) ∧
    (∃ t, exec (.hostLinkTrained 16 2) (st linking) = .next t) ∧
    (∃ t, exec (.configRequest 63) (st trained) = .next t) ∧ ∃ t, exec (.flr (.function 63)) (st tenants) = .next t := by
  intro ⟨h1, h2, h3, h4, h5, h6, h7, h8⟩
  refine ⟨⟨_, h1 (st windowed) 0 0x3FFF 1 0 [] _ _ ?_ ?_ ?_ ?_ ?_ (both _) ?_⟩, ⟨_, h2 (st windowed) 0 0x3FFF 0 [7] [] _ ?_ ?_ ?_ ?_ ?_ ?_ (first ?_)⟩,
    ⟨_, (h3 (st base) ?_).1⟩, ⟨_, (h3 (st base) ?_).2.1⟩, ⟨_, (h3 (st base) ?_).2.2 ?_⟩, ⟨_, (h4 (st trained) ?_ ?_).1⟩,
    ⟨_, (h4 (st trained) ?_ ?_).2 ?_ ?_⟩, (h5 (st { base with sec := { base.sec with stuck := false } }) ?_ ?_ ?_).imp fun _ x => x.1,
    (h6 (st linking) 16 2 ?_ ?_ ?_ ?_).imp fun _ x => x.1, ⟨_, h7 (st trained) 63 ?_ ?_ ?_ ?_⟩, ⟨_, h8 (st tenants) 63 ?_ ?_ ?_ ?_⟩⟩
  all_goals decide +kernel

/-! ### Witnesses: trust, SPDM, boot and firmware -/

/-- The commitment of a counter: RUN stands above it, and the flash holds the counter key. -/
def committing : State := ⟨[], ⟨[], some [], 3⟩, put [(F.secSvn_run, 0, 2 ^ 32 - 1)] base⟩

theorem wit_TrustCommandsComplete : Obligations.TrustCommandsComplete →
    (∃ t, exec (.tenKeyLoad 63 63 0x1000) (st tenants) = .next t) ∧ (∃ t, exec (.tenRpt 63 63 0x1000) (st tenants) = .next t) ∧
    (∃ t, exec (.erase 0 63) (st tenants) = .next t) ∧ (∃ t, exec (.commitSvn 0 true) committing = .next t) ∧
    ∃ t, exec .noiseHealthFailure (st base) = .next t := by
  intro ⟨h1, h2, h3, h4, h5⟩
  refine ⟨(h1 (st tenants) 63 0x1000 ?_ ?_ ?_ ?_ ?_).imp fun _ x => x.1,
    (h2 (st tenants) 63 0x1000 ?_ ?_ ?_ ?_ ?_).imp fun _ x => x.elim fun _ y => y.elim fun _ z => z.elim fun _ u => u.1,
    (h3 (st tenants) 63 ?_ ?_ ?_).imp fun _ x => x.1, (h4 committing ?_ ?_ ?_).imp fun _ x => x.1, (h5 (st base)).imp fun _ x => x.1⟩
  all_goals decide +kernel

/-- A responder that has gone through the algorithms, with session 1 in its handshake and session 2 established. -/
def responder : Dev := { base with spdm := ⟨true, true, true, [(1, (false, 0)), (2, (true, 3))], 3, [], 0, false, false⟩ }

theorem wit_SpdmRequestsComplete : Obligations.SpdmRequestsComplete →
    (∃ t, exec (.getVersion []) (st responder) = .next t) ∧ (∃ t, exec (.getCapabilities []) (st responder) = .next t) ∧
    (∃ t, exec (.negotiateAlgorithms [] true true true) (st responder) = .next t) ∧ (∃ t, exec (.getDigests []) (st responder) = .next t) ∧
    (∃ t, exec (.getCertificate [] 0 0 65535) (st responder) = .next t) ∧ (∃ t, exec (.challenge [] 0) (st responder) = .next t) ∧
    (∃ t, exec (.getMeasurements [] 1) (st responder) = .next t) ∧ (∃ t, exec (.keyExchange [] true) (st responder) = .next t) ∧
    (∃ t, exec (.finish [] 1 true) (st responder) = .next t) ∧ (∃ t, exec (.endSession [] 2) (st responder) = .next t) ∧
    (∃ t, exec (.heartbeat [] 2) (st responder) = .next t) ∧ (∃ t, exec (.keyUpdate [] 2) (st responder) = .next t) ∧
    (∃ t, exec (.ideKm [] 2 true) (st responder) = .next t) ∧ (∃ t, exec (.chunkSend [] 9 0 false) (st responder) = .next t) ∧
    ∃ t, exec (.chunkGet [] 9 0) (st responder) = .next t := by
  intro h
  obtain ⟨h1, h2, h3, h4, h5, h6, h7, h8, h9, h10⟩ := h (st responder) [] (by decide +kernel) (by decide +kernel)
  refine ⟨h1.imp fun _ x => x.1, (h2 ?_).imp fun _ x => x.1, (h3 ?_).imp fun _ x => x.1, (h4 ?_).imp fun _ x => x.elim fun _ y => y.1,
    ((h5 ?_ ?_).1 0 65535).imp fun _ x => x.elim fun _ y => y.1, (h5 ?_ ?_).2.imp fun _ x => x.elim fun _ y => y.1,
    (h6 1 (responder.measurement 1).get! ?_ ?_ ?_).imp fun _ x => x.elim fun _ y => y.1, (h7 ?_ ?_ ?_).imp fun _ x => x.1,
    (h8 1 ?_).imp fun _ x => x.1, (h9 2 3 ?_).1.imp fun _ x => x.1, (h9 2 3 ?_).2.1.imp fun _ x => x.elim fun _ y => y.1,
    (h9 2 3 ?_).2.2.1.imp fun _ x => x.1, ((h9 2 3 ?_).2.2.2 ?_).imp fun _ x => x.1, ((h10 ?_).1 9 ?_).imp fun _ x => x.1,
    ((h10 ?_).2 9).imp fun _ x => x.elim fun _ y => y.1⟩
  all_goals decide +kernel

theorem crcBits_lt (k v : Nat) (h : v < 2 ^ 32) : crcBits k v < 2 ^ 32 := by
  induction k generalizing v with
  | zero => exact h
  | succ k ih =>
    refine ih _ ?_
    split
    · exact Nat.xor_lt_two_pow (by omega) (by decide)
    · omega

theorem crc32c_lt (bs : List Byte) : crc32c bs < 2 ^ 32 := by
  have go (c : Nat) (h : c < 2 ^ 32) : bs.foldl (fun c b => crcBits 8 (Nat.xor c b.toNat)) c < 2 ^ 32 := by
    induction bs generalizing c with
    | nil => exact h
    | cons b bs ih => exact ih _ (crcBits_lt 8 _ (Nat.xor_lt_two_pow h (Nat.lt_trans b.isLt (by decide))))
  exact Nat.xor_lt_two_pow (go _ (by decide)) (by decide)

/-- A flash with a valid header slot, and a device that waits in boot for stages 1 and 2. -/
def slotBody : List Byte := leBytes 4 0x4D4C4E46 ++ List.replicate 4088 0
def slotCrc : List Byte := leBytes 4 (crc32c slotBody)
def flash0 : Flash := ⟨Memory.writeN [] 0 (slotBody ++ slotCrc), none, 0⟩

theorem slot_of_bytes (bs : List Byte) (h : bs.length = 4096) : (Flash.mk (Memory.writeN [] 0 bs) none 0).slot 0 = bs := by
  have r := Memory.readN_writeN [] 0 bs rfl
  rw [h] at r
  simpa [Flash.slot] using r

theorem slot0 : flash0.slot 0 = slotBody ++ slotCrc := slot_of_bytes _ (by
  rw [slotBody, slotCrc, List.length_append, List.length_append, leBytes_length, leBytes_length, List.length_replicate])

theorem slot0_valid : slotValid (flash0.slot 0) = true := by
  have len : slotBody.length = 4092 := by rw [slotBody, List.length_append, leBytes_length, List.length_replicate]
  have magic : fieldAt (slotBody ++ slotCrc) 0 4 = 0x4D4C4E46 := by decide +kernel
  have crc : fieldAt (slotBody ++ slotCrc) 4092 4 = crc32c slotBody := by
    have four : slotCrc.length = 4 := leBytes_length ..
    rw [fieldAt, slice, List.drop_left' len, List.take_of_length_le (by omega), four]
    exact (congrArg leNat (List.append_nil _)).trans ((leNat_leBytes ..).trans (Nat.mod_eq_of_lt (crc32c_lt _)))
  rw [slot0, slotValid, magic, crc, List.take_left' len]
  simp

/-- The slot that the ROM uses of that flash. -/
theorem usedSlot0 : ∃ i, flash0.usedSlot = some i := by
  unfold Flash.usedSlot
  simp only [slot0_valid]
  split
  · exact ⟨_, rfl⟩
  · exact ⟨_, rfl⟩

def lost : Dev := { base with sec := { base.sec with stuck := true, missing := [1, 2] } }
def image1 : List Byte := bytes 64 [(4, 1, 1)]

/-- A mailbox command under way, with its arguments. -/
def mbx (cmd a0 a1 a2 : Nat) : Dev :=
  { (((put [(F.mbxStat_busy, 0, 1)] base).setReg .mbxArg 0 a0 0).setReg .mbxArg 0 a1 1).setReg .mbxArg 0 a2 2 with mailboxCmd := cmd }

theorem wit_FirmwareCommandsComplete : Obligations.FirmwareCommandsComplete →
    (∃ t, exec (.coldReset []) (st base) = .next t) ∧ (∃ t, exec (.recover image1) ⟨[], flash0, lost⟩ = .next t) ∧
    (∃ t, exec .warmReset (st base) = .next t) ∧ (∃ t, exec .version (st (mbx 1 0 0 0)) = .next t) ∧
    (∃ t, exec .flashWrite (st (mbx 2 1 0 524288)) = .next t) ∧ (∃ t, exec .flashWrite (st (mbx 2 4 0 1)) = .next t) ∧
    (∃ t, exec .removeCore (st (mbx 3 255 0 0)) = .next t) ∧ (∃ t, exec .timeRole (st (mbx 4 1 0 0)) = .next t) ∧
    (∃ t, exec .logRead (st (mbx 5 0 (2 ^ 64 - 2) 0)) = .next t) ∧ ∃ t, exec .mbxWarmReset (st (mbx 6 0 0 0)) = .next t := by
  intro ⟨h1, h2, h3, h4⟩
  refine ⟨(h1 (st base) []).imp fun _ x => x.1, (h2 ⟨[], flash0, lost⟩ image1 1 usedSlot0.choose ?_ ?_ usedSlot0.choose_spec ?_ ?_ ?_ ?_ ?_ ?_).imp fun _ x => x.1,
    ⟨_, h3 (st base) ?_⟩, ⟨_, (h4 (st (mbx 1 0 0 0)) ?_ ?_).1 ?_⟩,
    ((h4 (st (mbx 2 1 0 524288)) ?_ ?_).2.1 1 524288 ((mbx 2 1 0 524288).hostRead 0 0 524288) 1 ?_ ?_ ?_ ?_ ?_ ?_ ?_ ?_ rfl ?_ ?_).imp fun _ x => x.1,
    ((h4 (st (mbx 2 4 0 1)) ?_ ?_).2.1 4 1 ((mbx 2 4 0 1).hostRead 0 0 1) 1 ?_ ?_ ?_ ?_ ?_ ?_ ?_ ?_ rfl ?_ ?_).imp fun _ x => x.1,
    ⟨_, (h4 (st (mbx 3 255 0 0)) ?_ ?_).2.2.1 255 ?_ ?_ ?_ ?_ ?_⟩, ((h4 (st (mbx 4 1 0 0)) ?_ ?_).2.2.2.1 ?_ ?_ ?_).imp fun _ x => x.1,
    ((h4 (st (mbx 5 0 (2 ^ 64 - 2) 0)) ?_ ?_).2.2.2.2.1 ?_ ?_).imp fun _ x => x.elim fun _ y => y.1, ⟨_, (h4 (st (mbx 6 0 0 0)) ?_ ?_).2.2.2.2.2 ?_⟩⟩
  all_goals decide +kernel

/-! ### Witnesses: power, time, self-tests, registers -/

/-- Domain 331 on; tokens; a wake that waits; a master; a follower; the pins enabled. -/
def lit (n : Nat) : Dev := base.setReg .pwrDomOn 0 (2 ^ (n % 64)) (n / 64)
def tokens : Dev := put [(F.pwrWakeStat_tokens, 0, 1)] base
def queued : Dev := { tokens with power := { tokens.power with wakeQ := [(331, 0)] } }
def timed (n : Nat) : Dev := put [(F.timeStat_state, 0, n), (F.timeCfg_pps_en, 0, 1), (F.timeCfg_tsync_en, 0, 0), (F.timeCfg_tsync_src, 0, 1)] up

theorem wit_PowerEventsComplete : Obligations.PowerEventsComplete →
    (∃ t, exec (.wakeRequest 331) (st tokens) = .next t) ∧ (∃ t, exec .wakeGrant (st queued) = .next t) ∧
    (∃ t, exec .tokenRefill (st base) = .next t) ∧ (∃ t, exec (.domainIdleOff 331) (st (lit 331)) = .next t) ∧
    (∃ t, exec (.selfThrottleSample 287 841) (st (lit 287)) = .next t) ∧ (∃ t, exec (.junctionClampStep 287 840) (st (lit 287)) = .next t) ∧
    (∃ t, exec (.packageFloorSample 1) (st base) = .next t) ∧ (∃ t, exec (.currentClamp 7 70001) (st base) = .next t) ∧
    (∃ t, exec (.currentClampRelease 15) (st base) = .next t) ∧ (∃ t, exec (.thermalShutdown 11) (st base) = .next t) ∧
    (∃ t, exec (.railMonitorTrip 15) (st base) = .next t) ∧ (∃ t, exec .resetPinAssert (st base) = .next t) ∧
    ∃ t, exec .powerLoss (st base) = .next t := by
  intro ⟨h1, h2, h3, h4, h5, h6, h7, h8, h9, h10, h11⟩
  refine ⟨⟨_, h1 (st tokens) 331 ?_ ?_ ?_ ?_ ?_ ?_⟩, (h2 (st queued) 331 0 [] ?_ ?_ ?_).imp fun _ x => x.1,
    (h3 (st base)).imp fun _ x => x.1, (h4 (st (lit 331)) 331 ?_ ?_ ?_ ?_).imp fun _ x => x.1,
    (h5 (st (lit 287)) 287 841 ?_ ?_ ?_).imp fun _ x => x.1, (h6 (st (lit 287)) 287 840 ?_ ?_).imp fun _ x => x.1,
    (h7 (st base) 1 ?_ ?_).imp fun _ x => x.1, (h8 (st base) 7 70001 ?_ ?_ ?_ ?_).imp fun _ x => x.1,
    (h9 (st base) 15 ?_).imp fun _ x => x.1, (h10 (st base) 11 ?_ ?_).imp fun _ x => x.1, ⟨_, (h11 (st base) 15 ?_ ?_).1⟩,
    ⟨_, (h11 (st base) 15 ?_ ?_).2.1⟩, ⟨_, (h11 (st base) 15 ?_ ?_).2.2⟩⟩
  all_goals decide +kernel

theorem wit_TimeEventsComplete : Obligations.TimeEventsComplete →
    (∃ t, exec .beaconSend (st (timed 4)) = .next t) ∧ (∃ t, exec (.beaconReceive 31 4095 7 5) (st (timed 0)) = .next t) ∧
    (∃ t, exec (.linkDelayMeasure 31 7) (st up) = .next t) ∧ (∃ t, exec .holdover (st (timed 2)) = .next t) ∧
    (∃ t, exec (.timeAdj 0 0) (st (timed 4)) = .next t) ∧ (∃ t, exec (.timeAdj 0 (-1)) (st (timed 4)) = .next t) ∧
    (∃ t, exec (.tsyncInEdge 1001) (st (timed 4)) = .next t) ∧ (∃ t, exec .wholeSecond (st (timed 4)) = .next t) ∧
    (∃ t, exec (.timeNowRead 63 none) (st base) = .next t) ∧ ∃ t, exec (.timeHostInRead 63 true 5) (st base) = .next t := by
  intro ⟨h1, h2, h3, h4, h5, h6, h7, h8⟩
  refine ⟨⟨_, h1 (st (timed 4)) ?_⟩, (h2 (st (timed 0)) 31 4095 7 5 ?_ ?_ ?_ ?_ ?_).elim fun _ x => ⟨_, x.2.2⟩,
    (h3 (st up) 31 7 ?_ ?_).imp fun _ x => x.1, (h4 (st (timed 2)) ?_ ?_).imp fun _ x => x.1,
    ((h5 (st (timed 4)) 0 ?_ ?_).1 ?_).imp fun _ x => x.1, ((h5 (st (timed 4)) (-1) ?_ ?_).2 ?_).imp fun _ x => x.1,
    (h6 (st (timed 4)) 1001 ?_ ?_ ?_ ?_).imp fun _ x => x.1, ⟨_, h7 (st (timed 4)) ?_ ?_ ?_⟩,
    (h8 (st base) 63 ?_ ?_).1.imp fun _ x => x.1, ((h8 (st base) 63 ?_ ?_).2.2 5).imp fun _ x => x.1⟩
  all_goals decide +kernel

def dTest : List Byte := desc 11 0 [(17, 1, 4), (18, 2, 3), (20, 1, 1)]
def testing (block index ms : Nat) (going : Bool) : Dev := { late (lit 331) with tests := [⟨block, index, 1, some who, 0, ms, going⟩] }

theorem wit_SelftestsComplete : Obligations.SelftestsComplete →
    (∃ t, exec (.selftest 0 0) (st (taken dTest base)) = .next t) ∧ (∃ t, exec (.firmwareSelftest 4 3 1) (st base) = .next t) ∧
    (∃ t, exec (.selftestStart 4 3) (st (testing 4 3 0 false)) = .next t) ∧
    (∃ t, exec (.selftestDone 4 3 9 100) (st (testing 4 3 0 true)) = .next t) ∧
    ∃ t, exec (.selftestWaitExpiry 0 0) (st (testing 0 0 1 false)) = .next t := by
  intro ⟨h1, h2, h3, h4, h5⟩
  refine ⟨(h1 (st (taken dTest base)) 0 0 1 who dTest (stands ?_) ?_ ?_ ?_ ?_ ?_ ?_).imp fun _ x => x.1,
    (h2 (st base) 4 3 1 ?_ ?_ ?_ ?_).imp fun _ x => x.1,
    (h3 (st (testing 4 3 0 false)) 4 3 ⟨4, 3, 1, some who, 0, 0, false⟩ ?_ ?_ ?_ ?_ ?_ ?_).imp fun _ x => x.1,
    ⟨_, h4 (st (testing 4 3 0 true)) 4 3 9 100 ⟨4, 3, 1, some who, 0, 0, true⟩ who ?_ ?_ ?_ ?_⟩,
    (h5 (st (testing 0 0 1 false)) 0 0 ⟨0, 0, 1, some who, 0, 1, false⟩ who ?_ ?_ ?_ ?_ (awaited ?_)).imp fun _ x => x.1⟩
  all_goals decide +kernel

/-- PWR_CFG, and QUE_SQ_BASE of queue 3, which is not enabled. -/
def atCfg : RegAt := ⟨.pwrCfg, 0, 0⟩
def atSq : RegAt := ⟨.queSqBase, 3, 0⟩

theorem wit_RegisterWritesComplete : Obligations.RegisterWritesComplete →
    (∃ t, exec (.regWrite 0 0 0x20024 false 5) (st base) = .next t) ∧ ∃ t, exec (.regWrite 0 2 0x3018 true 5) (st base) = .next t := by
  intro h
  refine ⟨⟨_, h (st base) 0 0 0x20024 false 5 atCfg ?_ ?_ ?_ ?_ ?_⟩, ⟨_, h (st base) 0 2 0x3018 true 5 atSq ?_ ?_ ?_ ?_ ?_⟩⟩ <;>
    decide +kernel

theorem wit_RegisterFieldsActByTheirType : Obligations.RegisterFieldsActByTheirType →
    (∃ t, exec (.regWrite 0 0 0x20024 false 5) (st base) = .next t) ∧ ∃ t, exec (.regWrite 0 2 0x3018 true 5) (st base) = .next t := by
  intro h
  refine ⟨(h (st base) 0 0 0x20024 _ false 5 atCfg ?_ ?_ ?_ ?_ ?_ ?_ ?_ rfl).imp fun _ x => x.1,
    (h (st base) 0 2 0x3018 _ true 5 atSq ?_ ?_ ?_ ?_ ?_ ?_ ?_ rfl).imp fun _ x => x.1⟩ <;> decide +kernel

/-! ### Witnesses: rules over the whole device -/

theorem wit_WellFormedRunsNeverStop : Obligations.WellFormedRunsNeverStop →
    ∃ t, steps 3 ⟨[.holdover, .coreReset 255], Flash.blank, base⟩ = .next t := by
  intro h
  refine (h ⟨[.holdover, .coreReset 255], Flash.blank, base⟩ 3 ?_).imp fun _ x => x.1
  exact fun i hi => by
    simp at hi
    rcases hi with rfl | rfl <;> decide

theorem wit_FlashOnlyAdvances : Obligations.FlashOnlyAdvances →
    (step ⟨[.holdover], Flash.blank, base⟩ = .next ⟨[], Flash.blank, base.holdover⟩) ∧ (3 : Nat) ≤ 3 :=
  fun h => ⟨rfl, (h ⟨[.holdover], ⟨[], some [], 3⟩, base⟩ ⟨[], ⟨[], some [], 3⟩, base.holdover⟩ rfl).2.1⟩

theorem wit_CounterFollowsCommitsAlone : Obligations.CounterFollowsCommitsAlone →
    (∃ t, exec (.commitSvn 0 true) committing = .next t) ∧ exec (.commitSvn 63 true) (st base) = .next (st base) ∧
    committing.flash.counter ≤ committing.flash.counter := by
  intro ⟨h1, h2, h3, h4, h5⟩
  refine ⟨(h2 committing ?_ ?_ ?_ ?_).imp fun _ x => x.1, h3 (st base) 63 true ?_ ?_, (h1 .holdover committing _ rfl).1⟩ <;> decide +kernel

/-- A sequence as R219 and R220 make it from a word. -/
def lag (w : Word) (n : Nat) : Word :=
  if n < 607 then
    if n = 0 then mix64 (w + 0x9E3779B97F4A7C15#64) ||| 1#64 else mix64 (w + BitVec.ofNat 64 (n + 1) * 0x9E3779B97F4A7C15#64)
  else lag w (n - 607) + lag w (n - 273)
termination_by n

/-- The word of tensor 2^40 and coordinates (2^32 − 1, 63) under seed 0. -/
def tileWord : Word := mix64 (0 ^^^ mix64 (BitVec.ofNat 64 (2 ^ 40) ^^^ mix64 (BitVec.ofNat 64 ((2 ^ 32 - 1) / 64 * 2 ^ 32 + 63 / 64))))

theorem wit_Draw32IsTheUpperHalfOfItsWord : Obligations.Draw32IsTheUpperHalfOfItsWord →
    draw32 0 (BitVec.ofNat 64 (2 ^ 40)) (2 ^ 32 - 1) 63 = (lag tileWord (607 + (64 * ((2 ^ 32 - 1) % 64) + 63 % 64))).extractLsb' 32 32 ∧
    64 * (63 % 64) + 63 % 64 < 4096 := by
  intro h
  refine ⟨h.1 0 (BitVec.ofNat 64 (2 ^ 40)) tileWord (2 ^ 32 - 1) 63 (lag tileWord) (by decide) (by decide) rfl ?_ ?_ ?_, (h.2 63 63 63 63 rfl rfl).1⟩
  · rw [lag]
    simp
  · intro j h0 h1
    rw [lag, if_pos h1, if_neg (by omega)]
  · intro n hn
    rw [lag, if_neg (by omega)]

theorem noPorts : (running.core 0).ports = [] := by decide +kernel

theorem wit_VectorDrawWritesTheDrawsOfItsCoordinates : Obligations.VectorDrawWritesTheDrawsOfItsCoordinates →
    ∃ t, exec (.vectorDraw 0 0 opDraw) (st running) = .next t := by
  intro h
  refine (h (st running) 0 0 1 0 64 (clause 0 [0] true) opDraw _ rdyV (by decide) (by decide +kernel) (fun p g e => ?_) ?_ ?_ ?_ ?_ rfl).imp fun _ x => x.1
  · rw [show (st running).dev.core 0 = running.core 0 from rfl, noPorts] at e
    cases e
  all_goals decide +kernel

/-- The context's only step with the flag, with its window about to end, and with ENABLE 0. -/
def overflowed : Dev := stopped.modCore 1 fun x => { x with ovf := true }
def windowEnd : Dev := put [(F.ctxLsCfg_window, 1, 3), (F.ctxLsStat_clean, 1, 2)] stopped
def fixedScale : Dev := put [(F.ctxLsCfg_enable, 1, 0)] stopped
/-- A context in the barrier of a group that is gone. -/
def orphaned : Dev := put [(F.ckptJob_grp, 1, 0)] (stopped.modCtx 1 fun x => { x with inBarrier := true })

theorem wit_FullStopDecidesTheStep : Obligations.FullStopDecidesTheStep →
    (∃ t, exec (.learningFullStop 1 []) (st stopped) = .next t) ∧ (∃ t, exec (.learningFullStop 1 []) (st overflowed) = .next t) ∧
    (∃ t, exec (.learningFullStop 1 []) (st windowEnd) = .next t) ∧ (∃ t, exec (.learningFullStop 1 []) (st fixedScale) = .next t) ∧
    ∃ t, exec (.barrierAbort 1) (st orphaned) = .next t := by
  intro ⟨h1, h2⟩
  refine ⟨(h1 (st stopped) 1 _ _ _ _ _ _ _ [] ?_ ?_ ?_ ?_ ?_ rfl rfl (both _) rfl ?_ ?_ rfl rfl).imp fun _ x => x.1,
    (h1 (st overflowed) 1 _ _ _ _ _ _ _ [] ?_ ?_ ?_ ?_ ?_ rfl rfl (both _) rfl ?_ ?_ rfl rfl).imp fun _ x => x.1,
    (h1 (st windowEnd) 1 _ _ _ _ _ _ _ [] ?_ ?_ ?_ ?_ ?_ rfl rfl (both _) rfl ?_ ?_ rfl rfl).imp fun _ x => x.1,
    (h1 (st fixedScale) 1 _ _ _ _ _ _ _ [] ?_ ?_ ?_ ?_ ?_ rfl rfl (both _) rfl ?_ ?_ rfl rfl).imp fun _ x => x.1,
    (h2 (st orphaned) 1 0 ?_ ?_ ?_ ?_ ?_).imp fun _ x => x.1⟩
  all_goals decide +kernel

theorem wit_FaultsTearTheirContextDownAlone : Obligations.FaultsTearTheirContextDownAlone →
    (∃ t, exec (.dma 0 0 7 63 false) (st running) = .next t) ∧
    (tearing0.faultCtx 1 7 0 0 0).get F.ctxFault_later 1 = satAdd F.ctxFault_later.w (tearing0.get F.ctxFault_later 1) 1 := by
  intro ⟨h1, h2⟩
  refine ⟨(h1 (st running) 0 0 7 63 1 false (clause 0 [0] true) (runs ?_) ?_ ?_ ?_ ?_ ?_ ?_).imp fun _ x => x.1, (h2 tearing0 1 7 0 0 0 ?_ ?_).1⟩ <;>
    decide +kernel

/-- The context of `base` belongs to tenant 5. -/
def foreign : Dev := put [(F.ctxCfg_tenant, 1, 5)] base

theorem wit_QueuePagesBelongToTheirTenant : Obligations.QueuePagesBelongToTheirTenant →
    (foreign.regView 5 ⟨.queStat, 3, 0⟩ = foreign.reg .queStat 3 0) ∧ (foreign.regView 0 ⟨.queStat, 3, 0⟩ = foreign.reg .queStat 3 0) ∧
    (foreign.regView 63 ⟨.queStat, 3, 0⟩ = 0) ∧ (∃ t, exec (.queDb 5 0 15) (st foreign) = .next t) ∧
    (∃ t, exec (.queCqDb 5 0 0) (st foreign) = .next t) ∧ (∃ t, exec (.regWrite 5 2 0x3018 true 5) (st foreign) = .next t) ∧
    (∃ t, exec (.queEnable 5 3 1) (st foreign) = .next t) ∧ (∃ t, exec (.queDisable 5 0 0) (st foreign) = .next t) ∧
    exec (.queDb 0 0 65535) (st foreign) = .next (st foreign) ∧ exec (.queEnable 63 3 1) (st foreign) = .next (st foreign) ∧
    exec (.regWrite 0 2 0x3018 true 5) (st foreign) = .next (st foreign) := by
  intro h
  refine ⟨(h (st foreign) 5 3 1 ?_ ?_ ?_ ?_).1 ?_ .queStat 0 ?_ ?_ ?_, (h (st foreign) 0 3 1 ?_ ?_ ?_ ?_).1 ?_ .queStat 0 ?_ ?_ ?_,
    (h (st foreign) 63 3 1 ?_ ?_ ?_ ?_).2.1 ?_ ?_ .queStat 0 ?_,
    ((h (st foreign) 5 0 1 ?_ ?_ ?_ ?_).2.2.1 ?_).1 15 ?_ ?_ ?_ |>.imp fun _ x => x.1,
    ((h (st foreign) 5 0 1 ?_ ?_ ?_ ?_).2.2.1 ?_).2.1 0 ?_ ?_ ?_ ?_ |>.imp fun _ x => x.1,
    ((h (st foreign) 5 3 1 ?_ ?_ ?_ ?_).2.2.1 ?_).2.2.1 .queSqBase 5 ?_ ?_ |>.imp fun _ x => x.1,
    ((h (st foreign) 5 3 1 ?_ ?_ ?_ ?_).2.2.1 ?_).2.2.2.1 1 ?_ ?_ |>.imp fun _ x => x.1,
    ((h (st foreign) 5 0 1 ?_ ?_ ?_ ?_).2.2.1 ?_).2.2.2.2 0 ?_ |>.imp fun _ x => x.1,
    (((h (st foreign) 0 0 1 ?_ ?_ ?_ ?_).2.2.2 ?_).1 65535 ?_).1, (((h (st foreign) 63 3 1 ?_ ?_ ?_ ?_).2.2.2 ?_).2.1 1).1,
    ((h (st foreign) 0 3 1 ?_ ?_ ?_ ?_).2.2.2 ?_).2.2 0x3018 true 5 atSq ?_ ?_ ?_ ?_⟩
  all_goals decide +kernel

theorem wit_ForeignAccessesDoNothing : Obligations.ForeignAccessesDoNothing →
    exec (.ctxReset 63 1) (st base) = .next (st base) ∧ exec (.ctxReset 63 255) (st base) = .next (st base) ∧
    exec (.kvPoolWrite 63 1 (2 ^ 32 - 1)) (st base) = .next (st base) ∧ exec (.tierQuotaWrite 63 1 2 0) (st base) = .next (st base) ∧
    exec (.erase 63 63) (st base) = .next (st base) ∧ exec (.tenantReset 63 5) (st base) = .next (st base) ∧
    exec (.cntClrStall 63 0) (st base) = .next (st base) ∧ exec (.cntClrLag 0 0) (st foreign) = .next (st foreign) ∧
    exec (.cntClrWcet 63 255) (st base) = .next (st base) ∧ base.regView 63 ⟨.coreState, 0, 0⟩ = 0 ∧
    exec (.recal 63 31) (st base) = .next (st base) := by
  intro ⟨h1, h2, h3, h4⟩
  refine ⟨(h1 (st base) 63 1 0 ?_ ?_ ?_ ?_).1, (h1 (st base) 63 255 0 ?_ ?_ ?_ ?_).1,
    ((h1 (st base) 63 1 0 ?_ ?_ ?_ ?_).2.2.2.2.2.1 (2 ^ 32 - 1) ?_).1, ((h1 (st base) 63 1 0 ?_ ?_ ?_ ?_).2.2.2.2.2.1 0 ?_).2 2 ?_,
    (h2 (st base) 63 63 0 ?_ ?_ ?_).2.1, ((h2 (st base) 63 5 0 ?_ ?_ ?_).2.2 ?_).2.1, (h3 (st base) 63 0 ?_ ?_ ?_).1,
    (h3 (st foreign) 0 0 ?_ ?_ ?_).2.1, (h3 (st base) 63 255 ?_ ?_ ?_).2.2.1,
    (h3 (st base) 63 0 ?_ ?_ ?_).2.2.2 ?_ ?_ .coreState 0 ?_, (h4 (st base) 63 0 ?_ ?_).2.2.1 31 ?_⟩
  all_goals decide +kernel

/-- A START in the ring of a learning context. -/
def refusedStart : Dev := (put [(F.ctxCfg_kind, 1, 1)] submitted).hostWrite 0 0x10000 (desc 4 0 [])

theorem wit_HeaderCheckRefusals : Obligations.HeaderCheckRefusals →
    (∃ t, exec (.descriptorTake 1 false) (st submitted) = .next t) ∧ ∃ t, exec (.descriptorTake 1 false) (st refusedStart) = .next t := by
  intro h
  refine ⟨((h (st submitted) 1 0 _ _ ?_ ?_ ?_ ?_ ?_ ?_ rfl rfl).1 ?_).imp fun _ x => x.1,
    ((h (st refusedStart) 1 0 _ _ ?_ ?_ ?_ ?_ ?_ ?_ rfl rfl).2 ?_ ?_ ?_ ?_ ?_).imp fun _ x => x.1⟩
  all_goals decide +kernel

theorem wit_SecurityEventsFillTheirRing : Obligations.SecurityEventsFillTheirRing →
    ∃ d : Dev, d.get F.secEvtHead_total 0 = 65 := by
  intro ⟨h, _⟩
  exact ⟨_, (h base _ (List.replicate 65 (0x12, 255)) (by decide) (by decide +kernel) rfl).1.trans (by decide +kernel)⟩

/-- The device of `base` is quiet. -/
theorem base_quiet : base.waiting = [] ∧ (∀ e ∈ base.sets, e.2.held = []) ∧ base.shares = [] ∧ (∀ e ∈ base.groups, e.2.ops = []) ∧
    (∀ x ∈ base.sends, x.rest = []) ∧ ∀ die < 2, base.get F.poolStat_free die = sharedBuffers := by decide +kernel

theorem portsOf (d : Dev) (x : TimeBase) (n : Nat) (b : List (Nat × Nat)) : ({ d with time := x, cycles := n, banks := b } : Dev).ports = d.ports := rfl

theorem wit_IdleStepsCountTime : Obligations.IdleStepsCountTime →
    ∃ t, steps 4 (st base) = .next t ∧ t.dev.ports = (st base).dev.ports := by
  intro h
  obtain ⟨t, e, _⟩ := h.1 (st base) 4 _ rfl (by decide +kernel) rfl
  obtain ⟨q1, q2, q3, q4, q5, q6⟩ := base_quiet
  have f := h.2 (st base) t 4 rfl q1 q2 q3 q4 q5 q6 e
  exact ⟨t, e, (congrArg Dev.ports f).trans (portsOf (st base).dev _ _ _)⟩

theorem wit_HostWindowWritesStoreTheirBytes : Obligations.HostWindowWritesStoreTheirBytes →
    ∃ t, exec (.hostWindowWrite 0 0x3FFF false [7] []) (st windowed) = .next t := by
  intro h
  refine (h (st windowed) 0 0x3FFF 0 _ _ 0 (leaf 9) [7] ?_ ?_ ?_ ?_ ?_ ?_ rfl rfl ?_ ?_ ?_ ?_ ?_ ?_ ?_ ?_ ?_ ?_ ?_).imp
    fun _ x => x.elim fun _ y => y.elim fun _ z => z.2.1
  all_goals decide +kernel

theorem wit_TimeAndPowerFrames : Obligations.TimeAndPowerFrames →
    (st base.holdover).flash = (st base).flash ∧ (st (timed 4).beaconSend).flash = (st (timed 4)).flash ∧
    (st tokens.wakeGrant).flash = (st tokens).flash :=
  fun ⟨h1, h2, h3⟩ => ⟨(h1 (st base) (st base.holdover) .holdover rfl ⟨0, 0, 0, 0, 0, none, false, 0, .inr (.inl rfl)⟩).1,
    (h2 (st (timed 4)) (st (timed 4).beaconSend) .beaconSend rfl ⟨0, 0, 0, 0, .inl rfl⟩).1,
    (h3 (st tokens) (st tokens.wakeGrant) .wakeGrant rfl ⟨0, 0, 0, 0, .inr (.inl rfl)⟩).1⟩

theorem wit_QueueAndSpdmFrames : Obligations.QueueAndSpdmFrames →
    (∃ t, exec (.queDb 0 0 5) (st base) = .next t ∧ t.flash = Flash.blank) ∧
    (∃ t, exec (.completionWrite 0) (st (finished 1)) = .next t ∧ t.flash = Flash.blank) ∧
    ∃ t, exec (.getVersion []) (st responder) = .next t ∧ t.flash = Flash.blank :=
  fun ⟨h1, h2, h3⟩ => ⟨⟨_, rfl, (h1 (st base) _ (.queDb 0 0 5) 0 rfl ⟨0, 5, 0, .inl rfl⟩).1⟩, ⟨_, rfl, (h2 (st (finished 1)) _ 0 rfl).1⟩,
    ⟨_, rfl, (h3 (st responder) _ (.getVersion []) rfl ⟨[], 0, 0, 0, false, false, false, .inl rfl⟩).1⟩⟩

theorem wit_NumberInstructionFrames : Obligations.NumberInstructionFrames →
    (st (running.matrixInstruction 0 0 opMat [])).flash = (st running).flash ∧
    (st (running.vectorDraw 0 0 opDraw)).flash = (st running).flash := by
  intro h
  exact ⟨(h (st running) (st (running.matrixInstruction 0 0 opMat [])) (.matrixInstruction 0 0 opMat []) 0 0 0 128 4
      (.inl ⟨opMat, [], rfl, by decide +kernel, by decide⟩) rfl).1,
    (h (st running) (st (running.vectorDraw 0 0 opDraw)) (.vectorDraw 0 0 opDraw) 0 0 0 64 4
      (.inr ⟨opDraw, rfl, by decide +kernel, by decide⟩) rfl).1⟩

/-! ### Ill-formed commands: for each check of `Instr.wf`, a command that fails this check alone -/

def illFormed0 : List Instr := [
  .launch 16384 0, .launch 0 65536, .clausePlace (.desc 16384 0), .clausePlace (.desc 0 65536), .clausePlace (.step 256 0 0),
  .clausePlace (.step 0 16 0), .clauseComplete 256 0 [], .handlePush 256 0 0 0, .handlePush 0 3 0 0, .handlePush 0 0 1024 0,
  .handlePop 256 0 0, .handlePop 0 3 0, .handlePop 0 0 1024, .learningFullStop 256 [], .barrierMet 256 [], .barrierAbort 256,
  .generationFullStop 256, .coreReset 256, .coreRemove 256, .cntClrStall 64 0, .cntClrStall 0 256, .cntClrLag 64 0, .cntClrLag 0 256,
  .cntClrWcet 64 0, .cntClrWcet 0 256, .matrixInstruction 256 0 opMat [], .matrixInstruction 0 3 opMat [],
  .engineOutputWrite 256 0 opConv [], .engineOutputWrite 0 3 opConv [], .engineOutputWrite 0 0 { opConv with row0 := 2 ^ 32 } [],
  .engineOutputWrite 0 0 { opConv with col0 := 2 ^ 32 } [], .conversionInstruction 256 0 opConv [], .conversionInstruction 0 3 opConv [],
  .conversionInstruction 0 0 { opConv with row0 := 2 ^ 32 } [], .conversionInstruction 0 0 { opConv with col0 := 2 ^ 32 } [],
  .scaleFormingInstruction 256 0 opScale [], .scaleFormingInstruction 0 3 opScale [], .attentionInstruction 256 0 opAttn [],
  .attentionInstruction 0 3 opAttn [], .attentionInstruction 0 0 { opAttn with row0 := 2 ^ 32 + 1 } [],
  .attentionInstruction 0 0 { opAttn with col0 := 2 ^ 32 + 1 } [], .attentionBackward 256 0 opAttnBw [],
  .attentionBackward 0 3 opAttnBw [], .activationInstruction 256 0 (opAct .relu) [], .activationInstruction 0 3 (opAct .relu) [],
  .activationBackward 256 0 (opActBw .relu) [], .activationBackward 0 3 (opActBw .relu) []]

theorem test_wf_refuses_0 : illFormed0.all (fun i => !i.wf) = true := by decide +kernel

def illFormed1 : List Instr := [
  .dropoutInstruction 256 0 opDrop [], .dropoutInstruction 0 3 opDrop [], .dropoutInstruction 0 0 { opDrop with row0 := 2 ^ 32 } [],
  .dropoutInstruction 0 0 { opDrop with col0 := 2 ^ 32 } [], .normBackward 256 0 (opNorm .whole) [],
  .normBackward 0 3 (opNorm .whole) [], .vocabHeadInstruction 256 0 opVocab [], .vocabHeadInstruction 0 3 opVocab [],
  .vocabHeadBackward 256 0 opVocabBw [], .vocabHeadBackward 0 3 opVocabBw [], .vectorDraw 256 0 opDraw, .vectorDraw 0 3 opDraw,
  .vectorDraw 0 0 { opDraw with row0 := 2 ^ 32 }, .vectorDraw 0 0 { opDraw with col0 := 2 ^ 32 }, .kvAppendWrite 256 0 opAppend [],
  .kvAppendWrite 0 3 opAppend [], .start 16384 0, .start 0 65536, .cancel 16384 0, .cancel 0 65536, .pause 16384 0, .pause 0 65536,
  .resume 16384 0, .resume 0 65536, .pool 16384 0, .pool 0 65536, .mask 16384 0, .mask 0 65536, .prefillStep 256 0 0,
  .prefillStep 0 (2 ^ 24) 0, .decodeStep 256 0 0 [], .decodeStep 0 16 0 [], .stepBoundary 256 0, .stepBoundary 0 (2 ^ 24),
  .promptShipped 256 0, .promptShipped 0 (2 ^ 24), .remotePrefillRefused 256 0, .remotePrefillRefused 0 (2 ^ 24), .pauseMoveDone 256 0,
  .pauseMoveDone 0 (2 ^ 24), .resumeMoveDone 256 0, .resumeMoveDone 0 (2 ^ 24), .ttlExpire 256 0, .ttlExpire 0 (2 ^ 24), .evict 16384 0,
  .evict 0 65536]

theorem test_wf_refuses_1 : illFormed1.all (fun i => !i.wf) = true := by decide +kernel

def illFormed2 : List Instr := [
  .kvBaseWrite 64 0 0 0, .kvBaseWrite 0 256 0 0, .kvBaseWrite 0 0 3 0, .kvPoolWrite 64 0 0, .kvPoolWrite 0 256 0,
  .kvPoolWrite 0 0 (2 ^ 32), .silCreate 16384 0, .silCreate 0 65536, .silDestroy 16384 0, .silDestroy 0 65536, .silAppend 16384 0 [],
  .silAppend 0 65536 [], .silDraw 16384 0 [], .silDraw 0 65536 [], .recordCommit 1024 [], .lrnStepWrite 64 0 0, .lrnStepWrite 0 256 0,
  .upd 256 0 0 [], .upd 0 3 0 [], .apply 256 0 [], .watch 256 0, .unwatch 256 0, .reduce 256 0, .updChunk 256 0 0 [],
  .updChunk 0 0 32 [], .factPassB 256 0, .updComplete 256 0, .wsCreate 16384 0 [], .wsCreate 0 65536 [], .send 16384 0 [],
  .send 0 65536 [], .sendComplete 16384 0, .sendComplete 0 65536, .wsDestroy 16384 0, .wsDestroy 0 65536, .await 16384 0, .await 0 65536,
  .accordFlitArrive 32 detach, .bankRelease 256, .shareDetach 64 0 0 none, .shareDetach 0 65536 0 none, .shareDetach 0 0 4294967296 none,
  .shareDetach 0 0 0 (some 32), .asmTmo 256, .map 16384 0, .map 0 65536, .unmap 16384 0, .unmap 0 65536]

theorem test_wf_refuses_2 : illFormed2.all (fun i => !i.wf) = true := by decide +kernel

def illFormed3 : List Instr := [
  .move 16384 0, .move 0 65536, .hint 16384 0, .hint 0 65536, .moveGranule 256 0 [], .tierRequestComplete (.channel 256 0) 0 false,
  .tierRequestComplete (.channel 0 8) 0 false, .tierRequestComplete (.particle 256 0) 0 false,
  .tierRequestComplete (.particle 0 3) 0 false, .tierRequestComplete (.move 256 0) 0 false,
  .tierRequestComplete (.dmaCopy 16384 0) 0 false, .tierRequestComplete (.dmaCopy 0 65536) 0 false,
  .tierRequestComplete (.operand 256 0) 0 false, .tierRequestComplete (.operand 0 3) 0 false,
  .tierRequestComplete (.store 256 0) 0 false, .tierRequestComplete (.store 0 3) 0 false, .tierTimeoutExpiry (.channel 256 0) 0,
  .patrolScrub 3 0 0 false false, .tierQuotaWrite 64 0 0 0, .tierQuotaWrite 0 256 0 0, .tierQuotaWrite 0 0 3 0,
  .tierQuotaWrite 0 0 0 (2 ^ 32), .tierProbe 64 0 0, .tierProbe 0 256 0, .tierProbe 0 0 (2 ^ 50), .dma 256 0 0 0 false,
  .dma 0 3 0 0 false, .dma 0 0 8 0 false, .dmaWait 256 0 0 0, .dmaWait 0 3 0 0, .dmaWait 0 0 8 0, .dmaStat 256 0 0, .dmaStat 0 3 0,
  .dmaStat 0 0 8, .dmaClr 256 0 0, .dmaClr 0 3 0, .dmaClr 0 0 8, .ptWait 256 0 0, .ptWait 0 3 0, .ptStat 256 0, .ptStat 0 3,
  .ptClr 256 0, .ptClr 0 3, .dmaTransfer 256 0 [], .dmaTransfer 0 11 [], .dmaTransferComplete 256 0, .dmaTransferComplete 0 11]

theorem test_wf_refuses_3 : illFormed3.all (fun i => !i.wf) = true := by decide +kernel

def illFormed4 : List Instr := [
  .dmaRetry 256 0 0, .dmaRetry 0 11 0, .remoteWriteArrive 64 0 ⟨0, 0, 0, 0⟩ 0 [] [], .remoteWriteArrive 0 4096 ⟨0, 0, 0, 0⟩ 0 [] [],
  .dmaCopy 16384 0 [] 0 0, .dmaCopy 0 65536 [] 0 0, .flitReceive 32 flit0 [], .replayRequest 32 0, .replayRequest 0 (2 ^ 32),
  .portTraining 32 0 .failed, .laneFail 32, .retrainTimeout 32, .portDown 32, .rekey 32 0 .failed, .rekey 0 2 .failed,
  .rekeyRetry 32 .failed, .keyLimitReached 32, .group 16384 0, .group 0 65536, .joinReceive 64 0 [], .joinReceive 0 4096 [],
  .groupJoinTimeout 64, .collDestroy 16384 0, .collDestroy 0 65536, .allReduce 16384 0 [], .allReduce 0 65536 [],
  .reduceScatter 16384 0 [], .reduceScatter 0 65536 [], .allGather 16384 0 [], .allGather 0 65536 [], .broadcast 16384 0 [],
  .broadcast 0 65536 [], .barrier 16384 0, .barrier 0 65536, .coll 256 0 0 [], .coll 0 3 0 [], .collWait 256 0 0 0, .collWait 0 3 0 0,
  .collWait 0 0 64 0, .collStat 256 0 0, .collStat 0 3 0, .collStat 0 0 64, .collOperationComplete 64 0 [], .collAbortTimeout 64 0,
  .abortReceive 64 0 0 0, .abortReceive 0 0 4096 0, .abortReceive 0 0 0 5]

theorem test_wf_refuses_4 : illFormed4.all (fun i => !i.wf) = true := by decide +kernel

def illFormed5 : List Instr := [
  .collShareDetach 64 0 none, .collShareDetach 0 0 (some 32), .recal 64 0, .recal 0 32, .recalStart 32, .recalComplete 32 0,
  .area 16384 0, .area 0 65536, .save 16384 0, .save 0 65536, .saveWritesDone 256 [], .saveOutcome 256 [], .restore 16384 0 [],
  .restore 0 65536 [], .query 16384 0 [], .query 0 65536 [], .ckptJobWrite 64 0 0 0, .ckptJobWrite 0 256 0 0, .ckptJobWrite 0 0 2 0,
  .tenCreate 64 0 0, .tenCreate 0 64 0, .ctxReset 64 0, .ctxReset 0 256, .ctxDestroy 64 0, .ctxDestroy 0 256, .ctxTeardown 256,
  .tenantReset 64 0, .tenantReset 0 64, .tenCfgWrite 64 0 0, .tenCfgWrite 0 64 0, .cores 16384 0, .cores 0 65536, .coresApply 256,
  .queDb 64 0 0, .queDb 0 16384 0, .queDb 0 0 65536, .queCqDb 64 0 0, .queCqDb 0 16384 0, .queCqDb 0 0 65536, .queEnable 64 0 0,
  .queEnable 0 16384 0, .queDisable 64 0 0, .queDisable 0 16384 0, .descriptorTake 256 false, .completionWrite 16384, .topo 16384 0 [],
  .topo 0 65536 []]

theorem test_wf_refuses_5 : illFormed5.all (fun i => !i.wf) = true := by decide +kernel

def illFormed6 : List Instr := [
  .base 16384 0, .base 0 65536, .win 16384 0, .win 0 65536, .power 16384 0, .power 0 65536, .thermal 16384 0, .thermal 0 65536,
  .detach 16384 0, .detach 0 65536, .hostWindowRead 64 0 0 false [], .hostWindowRead 0 (2 ^ 41) 0 false [],
  .hostWindowWrite 64 0 false [] [], .hostWindowWrite 0 (2 ^ 41) false [] [], .reattach 64, .flr (.function 64), .flr (.vfDisable 64),
  .tenKeyLoad 64 0 0, .tenKeyLoad 0 64 0, .tenRpt 64 0 0, .tenRpt 0 64 0, .erase 64 0, .erase 0 64, .commitSvn 64 false,
  .wakeRequest 333, .domainIdleOff 333, .selfThrottleSample 333 0, .junctionClampStep 333 0, .currentClamp 16 0, .thermalShutdown 12,
  .railMonitorTrip 16, .beaconReceive 32 0 0 0, .beaconReceive 0 4096 0 0, .beaconReceive 0 0 256 0, .beaconReceive 0 0 0 (2 ^ 80),
  .linkDelayMeasure 32 0, .timeAdj 64 0, .tsyncInEdge (2 ^ 64), .timeNowRead 64 none, .timeHostInRead 64 false 0, .selftest 16384 0,
  .selftest 0 65536, .selftestStart 0 256, .selftestStart 1 32, .selftestStart 2 32, .selftestStart 3 8, .selftestStart 4 4,
  .selftestStart 5 0]

theorem test_wf_refuses_6 : illFormed6.all (fun i => !i.wf) = true := by decide +kernel

def illFormed7 : List Instr := [
  .selftestDone 5 0 0 0, .selftestDone 0 0 10 0, .selftestWaitExpiry 5 0, .regWrite 64 0 0 false 0, .regWrite 0 1 0 false 0,
  .regWrite 0 0 (2 ^ 27) false 0, .regWrite 0 0 2 false 0, .regWrite 0 0 4 true 0, .hostLinkTrained 2 0, .hostLinkTrained 1 3,
  .configRequest 64, .currentClampRelease 16, .firmwareSelftest 5 0 0, .firmwareSelftest 0 0 2]

theorem test_wf_refuses_7 : illFormed7.all (fun i => !i.wf) = true := by decide +kernel

/-! ### What the manual works out -/

/-- Where the manual's four example registers stand (chapter 21). -/
theorem test_register_addresses : regAt 0 0x00300010 = some ⟨.accSetStat, 0, 0⟩ ∧ regAt 0 0x03900140 = some ⟨.coreStallCtr, 200, 8⟩ ∧
    regAt 0 0x01010820 = some ⟨.genDlStat, 1, 0⟩ ∧ regAt 2 0x003E8008 = some ⟨.queCqDb, 1000, 0⟩ := by decide +kernel

/-- Mallow's layout of KV pages (Table 5.2). -/
def mallow : KvLayout := ⟨0, 0xD, 1, 40, 32, 16, 340, 0, true⟩

/-- Stripe, group and granules of Mallow's layout (Table 5.2). -/
theorem test_kv_sizes : mallow.rowb = 128 ∧ mallow.scb = 8 ∧ mallow.stripe = 4352 ∧ mallow.groupBytes = 5570560 ∧ mallow.pages = 340 := by
  decide +kernel

/-- Position 1,000 of layer 17, head 5 (chapter 5). -/
theorem test_kv_rows : mallow.rowAt 17 5 1000 false false = 345374720 + 2390272 ∧ mallow.rowAt 17 5 1000 false true = 345374720 + 2391360 ∧
    mallow.rowAt 17 5 1000 true false = 345374720 + 2392448 ∧ mallow.rowAt 17 5 1000 true true = 345374720 + 2393536 := by decide +kernel

/-- 2.3 becomes 3 in FP4 for a draw of 45,876 and 2 for the draw below (chapter 3). -/
theorem test_stochastic_rounding : (convert 7 false (.stochastic 45876) (f32 0x40133333)).bits = 5 ∧
    (convert 7 false (.stochastic 45875) (f32 0x40133333)).bits = 4 := by decide +kernel

/-- The tensor scale of a tensor whose largest magnitude is 1,000 in FB8: 1,000 over 200,704 (chapter 3). -/
def ts1000 : W32 := fdiv 0x447A0000 (toF32 (.ofNat 200704))

/-- Scales and elements of the FB8 block with the largest magnitude 3.0: 1.375, then 448 and -104 (chapter 3). -/
theorem test_fb8_block : tensorScale 0xD (f32 0x447A0000) = ts1000 ∧ fbScale 0xD ts1000 (f32 0x40400000) = 0x3B ∧
    (convRow 0xD false ts1000 none [(f32 0x40400000, .nearest), (f32 0xBF333333, .nearest)]).elems = [0x7E, 0xED] := by decide +kernel

/-- An element of an MX operand, by the code of its element and its scale byte. -/
def mxElt (fmt scale code : Nat) : Elt := ⟨decodeElem fmt code, scaleVal fmt scale⟩
def mxRec (fmt : Nat) : TRec := ⟨fmt, 0, false, false, 1, one32, 0, 0⟩
def zeros (fmt scale : Nat) : List Elt := List.replicate 28 (mxElt fmt scale 0)

/-- The MX group of Table 3.7: 222.5 times 2^-2. -/
theorem test_mx_group : (dotAcc (mxRec 9) (mxRec 0xB) 32 ([0x3C, 0xC0, 0x28, 0x7E].map (mxElt 9 0x7A) ++ zeros 9 0x7A)
    ([6, 5, 15, 1].map (mxElt 0xB 0x82) ++ zeros 0xB 0x82)).1 = 0x425E8000 := by decide +kernel

/-- Tokens 0, 2 and 3 allowed, temperature 0.5, two kept, draws 0.2 and 0.97: token 2, at 1.0 less lse (chapter 4). -/
theorem test_token_choice : (chooseToken 4 0x3F000000 2 0 (some (4, [0x0D#8])) [0x40000000, 0x3F800000, 0x3F000000, 0xBF800000]
    fun t => if t = 0 then 858993459 else 4166118276).map (fun x => (x.1, (x.2.toNat + 2 ^ 12) / 2 ^ 13)) = some (2, (0xC0431C43 + 2 ^ 12) / 2 ^ 13) := by
  decide +kernel

/-- Element (1,000, 3,000) lies in tile (15, 46), at index 2,616 (chapter 10). -/
theorem test_draw_coordinates : tileOf 1000 3000 = (15, 46) ∧ indexOf 1000 3000 = 2616 := by decide

/-- Core 1 skips 43 rows of a tile before its first draw (chapter 10). -/
theorem test_draw_skip : indexOf 683 0 = 43 * 64 := by decide

/-- A layer shard takes 42,838 data flits, an embedding shard 87,382 (chapter 9). -/
theorem test_shard_flits : ceilDiv 8224768 192 = 42838 ∧ ceilDiv 16777216 192 = 87382 ∧ (shardFlits 0 0 1 0 0 (leBytes 400 0)).length = 4 := by
  decide +kernel

/-- The first update of one element under ADAM (chapter 8): B1 0.9, B2 0.95, EPS 10^-8, LR 10^-4, WD 0.1. -/
def adamDesc : UDesc := { UDesc.of (leBytes 256 0) with b1 := 0x3F666666, b2 := 0x3F733333, eps := 0x322BCC77, lr := 0x38D1B717, wd := 0x3DCCCCCD }
def adamWeight : W32 :=
  let g := fmul 0x45000000 0x37800000
  stepWeight adamDesc 0x3F000000 (direction adamDesc (adamMoment adamDesc 0 g) (adamSquare adamDesc 0 g) (biasCorr adamDesc.b1 1) (biasCorr adamDesc.b2 1))

/-- The weight 0.49990 in BF16 is 0.5, and in E4M3 under TSCALE 2^-8 it is 128. -/
theorem test_adam_copies : (convRow 1 false one32 none [(f32 adamWeight, .nearest)]).elems = [0x3F00] ∧
    (convRow 3 false 0x3B800000 none [(f32 adamWeight, .nearest)]).elems = [0x70] ∧ Ext.lt (f32 0x3EFFF195) (f32 adamWeight) = true ∧
    Ext.lt (f32 adamWeight) (f32 0x3EFFF2E5) = true := by decide +kernel

/-- A step with the flag takes LS_EXP from 16 to 15; the 2,000th clean step takes it back (chapter 3). -/
def lsBase : Dev := Dev.init SignedCfg.least
theorem test_loss_scale_down : (lsBase.lossScale 1 true).get F.ctxLsStat_ls_exp 1 = 15 := by decide +kernel
theorem test_loss_scale_up : ((put [(F.ctxLsStat_ls_exp, 1, 15), (F.ctxLsStat_clean, 1, 1999)] lsBase).lossScale 1 false).get F.ctxLsStat_ls_exp 1 = 16 ∧
    ((put [(F.ctxLsStat_ls_exp, 1, 15), (F.ctxLsStat_clean, 1, 1998)] lsBase).lossScale 1 false).get F.ctxLsStat_ls_exp 1 = 15 := by decide +kernel

/-- SHAKE256 of nothing and CRC-32C of the digits 1 to 9, as their standards publish them. -/
theorem test_shake256 : leNat (shake256 [] 32).reverse = 0x46b9dd2b0ba88d13233b3feb743eeb243fcd52ea62b81b82b50c27646ed5762f := by decide +kernel
theorem test_crc32c : crc32c (ascii "123456789") = 0xE3069283 := by decide +kernel

/-- An EVICT of 1,000 pages takes three groups of 340 (chapter 5). -/
theorem test_evict_takes_three_groups : (takePages 1000 ([(0x120, 3), (0x120, 17), (0x200, 40), (0x300, 5)].map
    fun x => (x.1, x.2, List.range 340))).map (·.2.1) = [3, 17, 40] := by decide +kernel

/-- A lagging weight set of a context of tenant 1: functions 0 and 1 read its status, function 2 reads 0 (chapter 21). -/
def lagging : Dev := put [(F.ctxCfg_tenant, 1, 1), (F.accSetCfg_valid, 0, 1), (F.accSetCfg_ctx, 0, 1), (F.accSetStat_lagging, 0, 1)] base
theorem test_lagging_set_reads : (lagging.regView 1 ⟨.accSetStat, 0, 0⟩, lagging.regView 0 ⟨.accSetStat, 0, 0⟩, lagging.regView 2 ⟨.accSetStat, 0, 0⟩) =
    (4, 4, 0) := by decide +kernel

/-- A command's step leaves the commands behind it in the queue. -/
theorem test_step_takes_the_front : (match step ⟨[.warmReset, .coreReset 3], Flash.blank, base⟩ with
    | .next t => decide (t.pending = [.coreReset 3]) | _ => false) = true := by decide +kernel

/-- An ill-formed command faults by name: a device has no core 256. -/
theorem test_no_such_core : (match exec (.coreReset 256) (st base) with
    | .fault .noSuchInstance => true | _ => false) = true := by decide +kernel

end Sys2Proof.Tests
end

section
/-! SUPPORT. More laws of the register file and of the shared operations. -/

namespace Sys2Proof.Machine

/-! ### Commands -/

/-- A command whose check passes leaves what its meaning makes of the device, and everything else as it was. -/
theorem run_withDev {ok : Bool} {f : Dev → Dev} {s : State} {d : Dev} (h : ok = true) (e : f s.dev = d) :
    run ok f s = .next (s.withDev d) := e ▸ run_ok f s h

/-! ### Fields and other registers -/

/-- A field fits in its width. -/
theorem Dev.get_lt (d : Dev) (f : Fld) (i j : Nat) : d.get f i j < 2 ^ f.w := Nat.mod_lt _ (Nat.two_pow_pos _)

/-- A register is as before where another one is set. -/
theorem Dev.reg_setReg_other (d : Dev) {r r' : Reg} (i v j i' j' : Nat) (h : r' ≠ r) : (d.setReg r i v j).reg r' i' j' = d.reg r' i' j' :=
  Dev.reg_setReg_ne _ _ fun e => h e.1

/-- A register is as before where a field of another one is set. -/
theorem Dev.reg_put_ne (d : Dev) {f : Fld} {r : Reg} (i v j i' j' : Nat) (h : r ≠ f.reg) : (d.put f i v j).reg r i' j' = d.reg r i' j' :=
  Dev.reg_setReg_other d i _ j i' j' h

/-- A field is as before where another register is set. -/
theorem Dev.get_setReg_ne (d : Dev) {r : Reg} {f : Fld} (i v j i' j' : Nat) (h : f.reg ≠ r) :
    (d.setReg r i v j).get f i' j' = d.get f i' j' :=
  congrArg (bitsOf · f.lo f.w) (Dev.reg_setReg_other d i v j i' j' h)

/-- A counter that saturates at its width holds what it saturates to. -/
theorem satAdd_lt (w a b : Nat) : satAdd w a b < 2 ^ w := by
  have := Nat.two_pow_pos w
  unfold satAdd
  omega

theorem Dev.get_incSat_self (d : Dev) (f : Fld) (i n j : Nat) (h : f.lo + f.w ≤ 64) :
    (d.incSat f i n j).get f i j = satAdd f.w (d.get f i j) n := by
  rw [Dev.incSat_eq, Dev.get_put_self _ _ _ _ _ h, Nat.mod_eq_of_lt (satAdd_lt _ _ _)]

theorem Dev.get_dec_self (d : Dev) (f : Fld) (i n j : Nat) (h : f.lo + f.w ≤ 64) : (d.dec f i n j).get f i j = d.get f i j - n := by
  rw [Dev.dec_eq, Dev.get_put_self _ _ _ _ _ h, Nat.mod_eq_of_lt (Nat.lt_of_le_of_lt (Nat.sub_le _ _) (Dev.get_lt _ _ _ _))]

end Sys2Proof.Machine
end

section
/-! PROOFS. What a register write does to the fields that it reaches (R7, R434), and what registers hold at reset: O53, O42 and O43. -/

namespace Sys2Proof.Machine

/-! ### The field maps -/

/-- Two fields of one register share no bit. -/
abbrev FldSpec.Apart (f g : FldSpec) : Prop := f.fld.lo + f.fld.w ≤ g.fld.lo ∨ g.fld.lo + g.fld.w ≤ f.fld.lo

theorem FldSpec.Apart.symm {f g : FldSpec} (h : f.Apart g) : g.Apart f := Or.symm h

/-- A field map, checked by evaluation: each field names its register and fits in 64 bits, and no two share a bit. -/
def fieldMapOk (r : Reg) : Bool :=
  decide ((∀ f ∈ regFields r, f.fld.reg = r ∧ f.fld.lo + f.fld.w ≤ 64) ∧ (regFields r).Pairwise FldSpec.Apart)

theorem fieldMapOk_all (r : Reg) : fieldMapOk r = true := by
  have all : ∀ r ∈ Reg.all, fieldMapOk r = true := by decide +kernel
  exact all r (List.mem_of_getElem? (Reg.all_ctorIdx r))

theorem regFields_place {r : Reg} {f : FldSpec} (h : f ∈ regFields r) : f.fld.reg = r ∧ f.fld.lo + f.fld.w ≤ 64 :=
  (of_decide_eq_true (fieldMapOk_all r)).1 f h

theorem regFields_pairwise_apart (r : Reg) : (regFields r).Pairwise FldSpec.Apart :=
  (of_decide_eq_true (fieldMapOk_all r)).2

/-- Different fields of a register share no bit. -/
theorem regFields_apart {r : Reg} {f g : FldSpec} (hf : f ∈ regFields r) (hg : g ∈ regFields r) (h : f ≠ g) : f.Apart g :=
  haveI : Std.Symm FldSpec.Apart := ⟨fun _ _ => FldSpec.Apart.symm⟩
  (regFields_pairwise_apart r).forall hf hg h

/-! ### A write to one field -/

/-- What a field holds after a write that reaches it, by its access type (Table 0.3): `x` is written, `old` stood there. -/
def FldSpec.after (f : FldSpec) (x old : Nat) : Nat :=
  match f.acc with
  | .rw => x
  | .w1c => if x = 0 then old else 0
  | .w1s => if f.fld = F.secCtl_commit_svn || x = 0 then old else x
  | .ro | .rc | .wo => old

theorem bitsOf_mod (v lo w : Nat) : bitsOf v lo w % 2 ^ w = bitsOf v lo w := Nat.mod_mod _ _

/-- A write leaves its word as it is, or sets the field's bits in it. -/
theorem writeField_eq (f : FldSpec) (v old : Nat) :
    writeField f v old = old ∨ ∃ x, writeField f v old = setBits old f.fld.lo f.fld.w x := by
  unfold writeField
  cases f.acc with
  | rw => exact .inr ⟨_, rfl⟩
  | w1c => exact .inr ⟨_, rfl⟩
  | w1s =>
    dsimp only
    split
    · exact .inl rfl
    · exact .inr ⟨_, rfl⟩
  | ro | rc | wo => exact .inl rfl

theorem bitsOf_writeField_self (f : FldSpec) (v old : Nat) :
    bitsOf (writeField f v old) f.fld.lo f.fld.w = f.after (bitsOf v f.fld.lo f.fld.w) (bitsOf old f.fld.lo f.fld.w) := by
  unfold writeField FldSpec.after
  cases f.acc with
  | rw => exact (bitsOf_setBits_self _ _ _ _).trans (bitsOf_mod _ _ _)
  | w1c =>
    dsimp only
    rw [bitsOf_setBits_self]
    split
    · exact bitsOf_mod _ _ _
    · exact Nat.zero_mod _
  | w1s =>
    dsimp only
    split
    · rfl
    · exact (bitsOf_setBits_self _ _ _ _).trans (bitsOf_mod _ _ _)
  | ro | rc | wo => rfl

theorem bitsOf_writeField_apart {f g : FldSpec} (h : f.Apart g) (v old : Nat) :
    bitsOf (writeField g v old) f.fld.lo f.fld.w = bitsOf old f.fld.lo f.fld.w := by
  obtain e | ⟨x, e⟩ := writeField_eq g v old
  · rw [e]
  · rw [e]
    rcases h with below | above
    · exact bitsOf_setBits_below _ _ _ _ _ _ below
    · exact bitsOf_setBits_above _ _ _ _ _ _ above

theorem writeField_lt {f : FldSpec} (fits : f.fld.lo + f.fld.w ≤ 64) (v : Nat) {old : Nat} (h : old < 2 ^ 64) :
    writeField f v old < 2 ^ 64 := by
  obtain e | ⟨x, e⟩ := writeField_eq f v old
  · rwa [e]
  · rw [e]
    exact setBits_lt _ _ _ _ _ h fits

/-! ### A write to several fields -/

/-- The word of a register after a write to some of its fields, one by one. -/
def writeFields (fs : List FldSpec) (v old : Nat) : Nat := fs.foldl (fun x f => writeField f v x) old

theorem writeFields_lt {fs : List FldSpec} (fits : ∀ f ∈ fs, f.fld.lo + f.fld.w ≤ 64) (v : Nat) {old : Nat}
    (h : old < 2 ^ 64) : writeFields fs v old < 2 ^ 64 := by
  induction fs generalizing old with
  | nil => exact h
  | cons f fs ih => exact ih (fun g hg => fits g (.tail _ hg)) (writeField_lt (fits f (.head _)) v h)

theorem bitsOf_writeFields_apart {fs : List FldSpec} {f : FldSpec} (h : ∀ g ∈ fs, f.Apart g) (v old : Nat) :
    bitsOf (writeFields fs v old) f.fld.lo f.fld.w = bitsOf old f.fld.lo f.fld.w := by
  induction fs generalizing old with
  | nil => rfl
  | cons g fs ih =>
    exact (ih (fun k hk => h k (.tail _ hk)) _).trans (bitsOf_writeField_apart (h g (.head _)) v old)

theorem bitsOf_writeFields_mem {fs : List FldSpec} {f : FldSpec} (apart : fs.Pairwise FldSpec.Apart) (hf : f ∈ fs) (v old : Nat) :
    bitsOf (writeFields fs v old) f.fld.lo f.fld.w = f.after (bitsOf v f.fld.lo f.fld.w) (bitsOf old f.fld.lo f.fld.w) := by
  induction fs generalizing old with
  | nil => cases hf
  | cons g fs ih =>
    obtain ⟨hg, rest⟩ := List.pairwise_cons.1 apart
    rcases List.mem_cons.1 hf with rfl | hf
    · exact (bitsOf_writeFields_apart hg v _).trans (bitsOf_writeField_self f v old)
    · refine (ih rest hf _).trans ?_
      rw [bitsOf_writeField_apart (hg f hf).symm]

/-! ### REG_WRITE -/

/-- The bits of a register that an access of 64 bits, or of the low or the high half, carries, at their places (R434). -/
def busWord (wide : Bool) (offset value : Nat) : Nat :=
  if wide then value else if offset % 8 = 0 then value % 2 ^ 32 else value % 2 ^ 32 * 2 ^ 32

/-- Where neither a port's ENABLE nor the mailbox follows, a write sets one register entry. -/
theorem Dev.writeReg_plain (d : Dev) {a : RegAt} (hp : a.reg ≠ .fabPortCfg) (hm : a.reg ≠ .mbxCmd) (offset : Nat) (wide : Bool)
    (value : Nat) : d.writeReg a offset wide value = d.setReg a.reg a.inst
      (writeFields ((regFields a.reg).filter (reached wide offset)) (busWord wide offset value) (d.reg a.reg a.inst a.idx)) a.idx := by
  simp only [Dev.writeReg, hp, hm, if_false, decide_false, Bool.false_and, Bool.false_eq_true]
  rfl

/-- A field of a register after a write: by its access type where the write reaches it, as before where it does not. -/
theorem Dev.get_writeReg (d : Dev) {a : RegAt} (hp : a.reg ≠ .fabPortCfg) (hm : a.reg ≠ .mbxCmd) (offset : Nat) (wide : Bool)
    (value : Nat) {f : FldSpec} (hf : f ∈ regFields a.reg) : (d.writeReg a offset wide value).get f.fld a.inst a.idx =
      if reached wide offset f then f.after (bitsOf (busWord wide offset value) f.fld.lo f.fld.w) (d.get f.fld a.inst a.idx)
      else d.get f.fld a.inst a.idx := by
  have fits : ∀ g ∈ (regFields a.reg).filter (reached wide offset), g.fld.lo + g.fld.w ≤ 64 := fun g hg =>
    (regFields_place (List.mem_filter.1 hg).1).2
  rw [Dev.writeReg_plain d hp hm, Dev.get, Dev.get, (regFields_place hf).1, Dev.reg_setReg_self,
    Nat.mod_eq_of_lt (writeFields_lt fits _ (Dev.reg_lt _ _ _ _))]
  split
  next hr => exact bitsOf_writeFields_mem ((regFields_pairwise_apart _).filter _) (List.mem_filter.2 ⟨hf, hr⟩) _ _
  next hr =>
    refine bitsOf_writeFields_apart (fun g hg => ?_) _ _
    obtain ⟨hg, gr⟩ := List.mem_filter.1 hg
    exact regFields_apart hf hg fun e => hr (e ▸ gr)

/-- REG_WRITE of a register without a command of its own, by a function that may write it. -/
theorem Dev.regWrite_permitted (d : Dev) {fn bar offset : Nat} {a : RegAt} (wide : Bool) (v : Word)
    (place : bar = 0 ∨ offset < 0x4000000) (hat : regAt bar (offset / 8 * 8) = some a) (own : ownRow a.reg = false)
    (may : d.regWritable fn a = true) : d.regWrite fn bar offset wide v = d.writeReg a offset wide v.toNat := by
  have notMsix : (bar = 2 && 0x4000000 ≤ offset && offset < 0x4008000 : Bool) = false := by
    simp only [Bool.and_eq_false_iff, decide_eq_false_iff_not]
    omega
  simp only [Dev.regWrite, notMsix, hat, own, may]
  rfl

/-- Settles O42: a permitted write is the write of the entry at its offset. -/
theorem registerWritesComplete : Obligations.RegisterWritesComplete := by
  intro s fn bar off wide v a wf place hat own may
  exact run_withDev wf (Dev.regWrite_permitted s.dev wide v place hat own may)

/-- Settles O53: the fields of a register share no bit, so each one is as its own write leaves it. -/
theorem registerFieldsActByTheirType : Obligations.RegisterFieldsActByTheirType := by
  intro s fn bar off x wide v a wf place hat own may hp hm hx
  refine ⟨_, registerWritesComplete s fn bar off wide v a wf place hat own may, fun f hf => ?_, ?_, fun r i j h => ?_⟩
  · subst hx
    refine (Dev.get_writeReg s.dev hp hm off wide v.toNat hf).trans ?_
    unfold FldSpec.after
    cases f.acc <;> rfl
  · rw [State.withDev, Dev.writeReg_plain _ hp hm]
    rfl
  · rw [State.withDev, Dev.writeReg_plain _ hp hm]
    refine Dev.reg_setReg_ne _ _ fun ⟨er, ei, ej⟩ => h ?_
    rw [er, ei, ej]

/-! ### The state after reset -/

/-- A register that nothing has written reads its reset value (R7). -/
theorem Dev.init_reg (c : SignedCfg) (r : Reg) (i j : Nat) : (Dev.init c).reg r i j = (resetWord c r i j).toNat := rfl

/-- Settles O43: the register file and the records of the reset state list nothing, so each entry reads its default. -/
theorem resetStateHoldsTheResetValues : Obligations.ResetStateHoldsTheResetValues :=
  ⟨rfl, rfl, rfl, rfl, Dev.init_reg SignedCfg.least, fun _ => rfl, fun _ => rfl, fun _ => rfl⟩

end Sys2Proof.Machine
end

section
/-! PROOFS. The events of power and temperature (chapter 19): O39. -/

namespace Sys2Proof.Machine

/-! ### Domains (R402) -/

theorem bitOf_eq (v i : Nat) : bitOf v i = decide (bitsOf v i 1 = 1) := rfl

@[simp] theorem Dev.domOn_setDom (d : Dev) (n : Nat) (on : Bool) : (d.setDom n on).domOn n = on := by
  have fits : n % 64 + 1 ≤ 64 := by omega
  rw [Dev.domOn, Dev.setDom, Dev.reg_setReg_self, Nat.mod_eq_of_lt (setBits_lt _ _ _ _ _ (Dev.reg_lt _ _ _ _) fits), bitOf_eq,
    bitsOf_setBits_self]
  cases on <;> rfl

/-- A domain is on or off as before where a field of another register is set. -/
theorem Dev.domOn_put (d : Dev) {f : Fld} (i v j n : Nat) (h : Reg.pwrDomOn ≠ f.reg) : (d.put f i v j).domOn n = d.domOn n :=
  congrArg (bitOf · (n % 64)) (Dev.reg_put_ne d i v j _ _ h)

theorem Dev.get_setDom (d : Dev) {f : Fld} (n : Nat) (on : Bool) (i j : Nat) (h : f.reg ≠ .pwrDomOn) :
    (d.setDom n on).get f i j = d.get f i j :=
  Dev.get_setReg_ne d _ _ _ _ _ h

/-- A domain whose word of PWR_DOM_ON is 0 is off. -/
theorem Dev.domOn_of_reg_zero {d : Dev} {n : Nat} (h : d.reg .pwrDomOn 0 (n / 64) = 0) : d.domOn n = false := by
  rw [Dev.domOn, h, bitOf_eq, bitsOf, Nat.zero_div, Nat.zero_mod]
  rfl

/-! ### Wakes and tokens (R406, R407) -/

/-- A domain that is off and may be on takes its token at once where there is one and no request waits. -/
theorem Dev.wakeRequest_granted {d : Dev} {n : Nat} (off : d.domOn n = false) (up : d.power.shut = false)
    (may : d.staysOff n = false) (first : d.power.wakeQ = []) (token : d.get F.pwrWakeStat_tokens 0 ≠ 0) :
    d.wakeRequest n = (d.dec F.pwrWakeStat_tokens 0).setDom n true := by
  simp [Dev.wakeRequest, Dev.askWake, off, up, may, first, token]

/-- The first request of the queue takes a token: its domain is on, and the requests behind it stay. -/
theorem Dev.wakeGrant_first {d : Dev} {n since : Nat} {rest : List (Nat × Nat)} (queue : d.power.wakeQ = (n, since) :: rest)
    (token : d.get F.pwrWakeStat_tokens 0 ≠ 0) : d.wakeGrant.domOn n = true ∧ d.wakeGrant.power.wakeQ = rest ∧
      d.wakeGrant.get F.pwrWakeStat_tokens 0 = d.get F.pwrWakeStat_tokens 0 - 1 := by
  simp only [Dev.wakeGrant, queue, token, if_false]
  refine ⟨?_, rfl, ?_⟩
  · rw [Dev.domOn_put _ _ _ _ _ (by decide), Dev.domOn_put _ _ _ _ _ (by decide)]
    exact Dev.domOn_setDom _ n true
  · rw [Dev.get_put_beside _ F.pwrWakeStat_max_wait_ns F.pwrWakeStat_tokens _ _ _ rfl (by decide) (by decide),
      Dev.get_put_beside _ F.pwrWakeStat_queued F.pwrWakeStat_tokens _ _ _ rfl (by decide) (by decide)]
    exact (Dev.get_setDom _ _ _ _ _ (by decide)).trans (Dev.get_dec_self _ _ _ _ _ (by decide))

theorem Dev.get_tokenRefill (d : Dev) : d.tokenRefill.get F.pwrWakeStat_tokens 0 =
    min d.wakeDepth (d.get F.pwrWakeStat_tokens 0 + (d.ns - d.power.tokenTime) / 1000 * d.wakeRate) := by
  have depth : d.wakeDepth ≤ 64 := Nat.min_le_left _ _
  refine (Dev.get_put_self _ _ _ _ _ (by decide)).trans (Nat.mod_eq_of_lt ?_)
  exact Nat.lt_of_le_of_lt (Nat.min_le_left _ _) (Nat.lt_of_le_of_lt depth (by decide))

/-! ### Temperatures and levels (R408) -/

/-- A sample of a temperature writes the record of temperatures, PWR_TEMP and PWR_STAT alone: what these writes keep, it keeps. -/
theorem Dev.senseTemp_induct (P : Dev → Prop) (d : Dev) (n : Nat) (temp : Int)
    (temps : ∀ x, P { d with power := { d.power with temps := x } })
    (puts : ∀ (e : Dev) (f : Fld) (v j : Nat), f.reg = .pwrTemp ∨ f.reg = .pwrStat → P e → P (e.put f 0 v j)) :
    P (d.senseTemp n temp) := by
  unfold Dev.senseTemp
  dsimp only
  split
  · exact puts _ _ _ _ (.inr rfl) (puts _ _ _ _ (.inr rfl) (puts _ _ _ _ (.inl rfl) (puts _ _ _ _ (.inl rfl) (temps _))))
  · exact puts _ _ _ _ (.inl rfl) (puts _ _ _ _ (.inl rfl) (temps _))

@[simp] theorem Dev.senseTemp_selfLvl (d : Dev) (n : Nat) (temp : Int) : (d.senseTemp n temp).power.selfLvl = d.power.selfLvl :=
  Dev.senseTemp_induct (·.power.selfLvl = d.power.selfLvl) d n temp (fun _ => rfl) fun _ _ _ _ _ h => h

@[simp] theorem Dev.senseTemp_junction (d : Dev) (n : Nat) (temp : Int) : (d.senseTemp n temp).power.junction = d.power.junction :=
  Dev.senseTemp_induct (·.power.junction = d.power.junction) d n temp (fun _ => rfl) fun _ _ _ _ _ h => h

/-- Sampling a temperature leaves the threshold of the self throttle. -/
@[simp] theorem Dev.senseTemp_thr (d : Dev) (n : Nat) (temp : Int) :
    (d.senseTemp n temp).get F.pwrCfg_thr_t 0 = d.get F.pwrCfg_thr_t 0 :=
  Dev.senseTemp_induct (·.get F.pwrCfg_thr_t 0 = d.get F.pwrCfg_thr_t 0) d n temp (fun _ => rfl) fun e f v j hf h =>
    (Dev.get_put_ne e v fun ⟨hr, _⟩ => by rcases hf with hf | hf <;> cases hr.trans hf).trans h

@[simp] theorem Dev.showLevel_power (d : Dev) (n : Nat) : (d.showLevel n).power = d.power := rfl

/-- Showing a level sets a throttle register alone. -/
theorem Dev.get_showLevel (d : Dev) {f : Fld} (n i j : Nat) (core : f.reg ≠ .pwrCoreThr) (unit : f.reg ≠ .pwrUnitThr) :
    (d.showLevel n).get f i j = d.get f i j := by
  refine Dev.get_setReg_ne d _ _ _ _ _ ?_
  split
  · exact core
  · exact unit

/-- The guard of a temperature sample passes for a core or update-unit domain that is on. -/
theorem Dev.sample_acts {d : Dev} {n : Nat} (throttles : n < 288) (on : d.domOn n = true) :
    (288 ≤ n || !d.domOn n : Bool) = false := by
  simp [on]
  omega

/-- Above the threshold a domain's self level rises by 1, up to 15. -/
theorem Dev.selfThrottleSample_rises {d : Dev} {n : Nat} {temp : Int} (throttles : n < 288) (on : d.domOn n = true)
    (hot : min junctionLimit (tempOf (d.get F.pwrCfg_thr_t 0)) < temp) :
    SMap.get (d.selfThrottleSample n temp).power.selfLvl 0 n = min 15 (SMap.get d.power.selfLvl 0 n + 1) := by
  have acts := Dev.sample_acts throttles on
  simp [Dev.selfThrottleSample, acts, hot]

/-- At or above 105 °C a domain's junction level rises by 1, up to 15; below, it does not rise. -/
theorem Dev.junctionClampStep_level {d : Dev} {n : Nat} (temp : Int) (throttles : n < 288) (on : d.domOn n = true) :
    if junctionLimit ≤ temp then
      SMap.get (d.junctionClampStep n temp).power.junction 0 n = min 15 (SMap.get d.power.junction 0 n + 1)
    else SMap.get (d.junctionClampStep n temp).power.junction 0 n ≤ SMap.get d.power.junction 0 n := by
  have acts := Dev.sample_acts throttles on
  split
  next hot => simp [Dev.junctionClampStep, acts, hot]
  next cool =>
    simp only [Dev.junctionClampStep, acts, cool, if_false, Bool.false_eq_true, Dev.showLevel_power, SMap.get_set_self,
      Dev.senseTemp_junction]
    exact Nat.le_of_lt_succ (Nat.mod_lt _ (Nat.succ_pos _))

/-- A package above its clamp raises the floor by 1, up to 15. -/
theorem Dev.packageFloorSample_rises {d : Dev} {watts : Nat} (up : d.power.shut = false)
    (above : min (d.get F.pwrLimit_max_w 0) (d.get F.pwrLimit_target_w 0) < watts) :
    (d.packageFloorSample watts).get F.pwrLimit_floor 0 = min 15 (d.get F.pwrLimit_floor 0 + 1) := by
  have limit (f : Fld) (h : f.reg = .pwrLimit) (v : Nat) : (d.put F.pwrStat_pkg_w 0 v).get f 0 = d.get f 0 :=
    Dev.get_put_ne d v fun e => by cases h.symm.trans e.1
  simp only [Dev.packageFloorSample, up, limit F.pwrLimit_max_w rfl, limit F.pwrLimit_target_w rfl, limit F.pwrLimit_floor rfl, above,
    if_true, if_false, Bool.false_eq_true]
  refine Dev.each_induct (·.get F.pwrLimit_floor 0 = min 15 (d.get F.pwrLimit_floor 0 + 1)) _ _ _ ?_ fun n _ e h =>
    (Dev.get_showLevel e n 0 0 (by decide) (by decide)).trans h
  refine (Dev.get_put_self _ _ _ _ _ (by decide)).trans (Nat.mod_eq_of_lt ?_)
  exact Nat.lt_of_le_of_lt (Nat.min_le_left _ _) (by decide)

/-! ### Clamps (R409) -/

/-- A clamped rail above its limit joins the rails whose clamp holds, and counts. -/
theorem Dev.currentClamp_holds {d : Dev} {rail ma : Nat} (clamped : rail < 8) (above : railLimit rail < ma) (up : d.power.shut = false)
    (free : d.power.clamped.contains rail = false) : d.currentClamp rail ma =
      ({ d with power := { d.power with clamped := rail :: d.power.clamped } }).incSat F.pwrStat_clamps 0 := by
  simp only [Dev.currentClamp, clamped, above, up, free]
  rfl

theorem Dev.currentClampRelease_frees (d : Dev) (rail : Nat) : (d.currentClampRelease rail).power.clamped.contains rail = false := by
  simp [Dev.currentClampRelease]

/-! ### Shutdown (R410) -/

/-- Entries of PWR_DOM_ON that are cleared one by one read 0. -/
theorem Dev.reg_each_clear (d : Dev) (js : List Nat) {j : Nat} (h : j ∈ js) :
    (d.each js fun j e => e.setReg .pwrDomOn 0 0 j).reg .pwrDomOn 0 j = 0 := by
  induction js using List.reverseRecOn with
  | nil => cases h
  | append_singleton js k ih =>
    rw [Dev.each, List.foldl_append]
    by_cases hk : j = k
    · subst hk
      exact Dev.reg_setReg_self _ _ _ _ _
    · refine (Dev.reg_setReg_ne _ _ fun e => hk e.2.2).trans (ih ?_)
      simpa [hk] using h

/-- A shutdown records its die, clears every entry of PWR_DOM_ON and asserts THERMTRIP_N. -/
theorem Dev.thermalShutdown_effect {d : Dev} (die : Nat) (up : d.power.shut = false) (hd : die < 12) :
    (d.thermalShutdown die).power.shut = true ∧ (d.thermalShutdown die).reg .pwrShut 0 = 1 + die * 2 ^ 8 ∧
      (∀ j < 6, (d.thermalShutdown die).reg .pwrDomOn 0 j = 0) ∧
      (d.thermalShutdown die).out = .pin "THERMTRIP_N" 0 :: d.out := by
  simp only [Dev.thermalShutdown, up, if_false, Bool.false_eq_true]
  refine ⟨rfl, ?_, fun j hj => ?_, ?_⟩
  · rw [Dev.emit_reg, Dev.reg_put_ne _ _ _ _ _ _ (by decide), Dev.reg_put_ne _ _ _ _ _ _ (by decide), Dev.reg_setReg_self]
    exact Nat.mod_eq_of_lt (by omega)
  · rw [Dev.emit_reg, Dev.reg_put_ne _ _ _ _ _ _ (by decide), Dev.reg_put_ne _ _ _ _ _ _ (by decide),
      Dev.reg_setReg_other _ _ _ _ _ _ (by decide), Dev.reg_put_ne _ _ _ _ _ _ (by decide)]
    exact Dev.reg_each_clear _ _ (List.mem_range.2 hj)
  · rfl

/-- Settles O39: what each event of power and temperature does, event by event. -/
theorem powerEventsComplete : Obligations.PowerEventsComplete := by
  refine ⟨fun s n hn off up may first token => ?_, fun s n since rest _ queue token => ?_, fun s => ?_,
    fun s n hn on may untested => ?_, fun s n temp hn on hot => ?_, fun s n temp hn on => ?_, fun s watts up above => ?_,
    fun s rail ma clamped above up free => ?_, fun s rail hr => ?_, fun s die hd up => ?_, fun s rail hr aon => ⟨?_, rfl, rfl⟩⟩
  · exact run_withDev (decide_eq_true hn) (Dev.wakeRequest_granted off up may first token)
  · exact ⟨_, rfl, Dev.wakeGrant_first queue token⟩
  · exact ⟨_, rfl, Dev.get_tokenRefill s.dev⟩
  · refine ⟨_, run_ok _ s (decide_eq_true hn), ?_⟩
    simp [Dev.domainIdleOff, on, may, untested]
  · exact ⟨_, run_ok _ s (decide_eq_true (by omega)), Dev.selfThrottleSample_rises hn on hot⟩
  · exact ⟨_, run_ok _ s (decide_eq_true (by omega)), Dev.junctionClampStep_level temp hn on⟩
  · exact ⟨_, rfl, Dev.packageFloorSample_rises up above⟩
  · refine ⟨_, run_ok _ s (decide_eq_true (by omega)), ?_⟩
    rw [Dev.currentClamp_holds clamped above up free]
    exact ⟨rfl, Dev.get_incSat_self _ _ _ _ _ (by decide)⟩
  · exact ⟨_, run_ok _ s (decide_eq_true hr), Dev.currentClampRelease_frees s.dev rail⟩
  · obtain ⟨shut, record, domains, pin⟩ := Dev.thermalShutdown_effect die up hd
    exact ⟨_, run_ok _ s (decide_eq_true hd), shut, record, fun n hn => Dev.domOn_of_reg_zero (domains _ (by omega)), pin⟩
  · exact run_withDev (decide_eq_true hr) (if_neg aon)

end Sys2Proof.Machine
end

section
/-! PROOFS. Full stops and barriers (chapters 2 and 7): O8. -/

namespace Sys2Proof.Machine

/-! ### The learning full stop (R47, R303) -/

/-- A context whose learning role has just stopped: the sums cleared, the role's handles discarded, the phase STOPPING, in the barrier. -/
def Dev.atLearningStop (d : Dev) (c : Nat) : Dev :=
  (((d.clearSums c).discardHandles (d.lrnCores c)).put F.lrnStepStat_phase c LrnSt.stopping).modCtx c
    fun x => { x with inBarrier := true }

/-- What becomes of a context that stands at its learning full stop, with the device's own flag and sum. -/
def Dev.meetJob (d : Dev) (c : Nat) (flag : Bool) (s : W32) (rsp : TierRsp) : Dev :=
  match d.jobGroup c with
  | none => d.barrierEffect c flag s rsp
  | some g => if d.inGroup c g then d.enterBarrier c g flag s rsp else d.abortEffect c

/-- Once R47's conditions hold the role stops, and meets its job with the flag and the sum from before the stop. -/
theorem Dev.learningFullStop_ready {d : Dev} {c : Nat} (rsp : TierRsp) (works : d.working c = true)
    (runs : d.get F.lrnStepStat_phase c = LrnSt.run) (ready : d.stopReady c = true) :
    d.learningFullStop c rsp = (d.atLearningStop c).meetJob c (d.ownFlag c) (d.ownSum c) rsp := by
  have acts : (!d.working c || d.get F.lrnStepStat_phase c ≠ LrnSt.run || !d.stopReady c : Bool) = false := by
    simp [works, runs, ready]
  simp only [Dev.learningFullStop, acts]
  rfl

/-- A job of one device meets its barrier at once. -/
theorem Dev.meetJob_alone {d : Dev} {c : Nat} (flag : Bool) (s : W32) (rsp : TierRsp) (alone : d.jobGroup c = none) :
    d.meetJob c flag s rsp = d.barrierEffect c flag s rsp := by
  rw [Dev.meetJob, alone]

/-- A job over a group of this context enters the group's series. -/
theorem Dev.meetJob_inGroup {d : Dev} {c g : Nat} (flag : Bool) (s : W32) (rsp : TierRsp) (job : d.jobGroup c = some g)
    (own : d.inGroup c g = true) : d.meetJob c flag s rsp = d.enterBarrier c g flag s rsp := by
  rw [Dev.meetJob, job]
  exact if_pos own

/-- A job over a group that is not of this context aborts its barrier at once (R303). -/
theorem Dev.meetJob_noGroup {d : Dev} {c g : Nat} (flag : Bool) (s : W32) (rsp : TierRsp) (job : d.jobGroup c = some g)
    (other : d.inGroup c g = false) : d.meetJob c flag s rsp = d.abortEffect c := by
  rw [Dev.meetJob, job]
  exact if_neg (ne_true_of_eq_false other)

/-! ### How a barrier ends (R167, R168) -/

/-- A barrier whose operation holds the whole job's flag and sum is met with them, and its operation completes. -/
theorem Dev.barrierMet_ready {d : Dev} {c g : Nat} {o : CollOp} (rsp : TierRsp) (job : d.jobGroup c = some g)
    (op : (d.group g).stopOp = some o) (inside : (d.ctx c).inBarrier = true) (works : d.working c = true)
    (own : d.inGroup c g = true) (ready : o.ready (d.ranksOf g) d.ownRank = true) :
    d.barrierMet c rsp = (d.finishOp g o Status.ok 0 rsp).barrierEffect c o.stopResult.2 o.stopResult.1 rsp := by
  simp [Dev.barrierMet, job, op, inside, works, own, ready]

/-- A barrier whose operation outlasts the timeout of a group in ABORT mode aborts (R296). -/
theorem Dev.barrierAbort_late {d : Dev} {c g t : Nat} {o : CollOp} (job : d.jobGroup c = some g)
    (inside : (d.ctx c).inBarrier = true) (works : d.working c = true) (own : d.inGroup c g = true)
    (op : (d.group g).stopOp = some o) (mode : d.get F.fabGrpCfg_mode g ≠ 1) (issued : o.issued = some t)
    (late : t + 1000 * d.get F.fabGrpCtl_tmo_us g < d.ns) :
    d.barrierAbort c = (d.abortOp g o.num (d.groupRank g) 1).abortEffect c := by
  simp [Dev.barrierAbort, job, inside, works, own, op, mode, issued, late]

/-- A barrier without an operation aborts: its group is no longer this context's, or the operation has ended. -/
theorem Dev.barrierAbort_ended {d : Dev} {c g : Nat} (job : d.jobGroup c = some g) (inside : (d.ctx c).inBarrier = true)
    (works : d.working c = true) (gone : d.inGroup c g = false ∨ (d.group g).stopOp = none) :
    d.barrierAbort c = d.abortEffect c := by
  have noOp : (if d.inGroup c g then (d.group g).stopOp else none) = none := by
    rcases gone with other | ended
    · exact if_neg (ne_true_of_eq_false other)
    · rw [ended, ite_self]
  simp [Dev.barrierAbort, job, inside, works, noOp]

/-! ### The generation full stop (R23) -/

/-- Generation cores that a pending request names, all at a full stop, end it: their handles go, and their sequencers leave STEP_WAIT. -/
theorem Dev.generationFullStop_stopped {d : Dev} {c : Nat} {ks : List Nat} (works : d.working c = true)
    (named : ks = (d.ctx c).stopping.filter fun k => d.ownsCore c k && d.genRole k) (nonempty : ks ≠ [])
    (stopped : ∀ k ∈ ks, d.coreStopped k = true) : d.generationFullStop c =
      ((((d.discardHandles ks).clearHalts ks).endStepWait ks).issueHeld ks).removeSlow c ks := by
  have acts : (ks.isEmpty || !ks.all d.coreStopped || !d.working c) = false := by
    simp [nonempty, List.all_eq_true.2 stopped, works]
  simp only [Dev.generationFullStop, ← named, acts]
  rfl

/-- Settles O8: each full stop and each end of a barrier, by the branch that its conditions select. -/
theorem fullStopsComplete : Obligations.FullStopsComplete := by
  refine ⟨fun s c rsp d1 hc works runs ready hd => ?_, fun s c g rsp o hc job op inside works own ready => ?_,
    fun s c g o t hc job inside works own op mode issued late => ?_, fun s c g hc job inside works ended => ?_,
    fun s c ks hc works named nonempty stopped => ?_⟩
  · obtain rfl : d1 = s.dev.atLearningStop c := hd
    have stop := Dev.learningFullStop_ready rsp works runs ready
    refine ⟨fun alone => ?_, fun g job own => ?_, fun g job other => ?_⟩
    · exact run_withDev (decide_eq_true hc) (stop.trans (Dev.meetJob_alone _ _ rsp alone))
    · exact run_withDev (decide_eq_true hc) (stop.trans (Dev.meetJob_inGroup _ _ rsp job own))
    · exact run_withDev (decide_eq_true hc) (stop.trans (Dev.meetJob_noGroup _ _ rsp job other))
  · exact run_withDev (decide_eq_true hc) (Dev.barrierMet_ready rsp job op inside works own ready)
  · exact run_withDev (decide_eq_true hc) (Dev.barrierAbort_late job inside works own op mode issued late)
  · exact run_withDev (decide_eq_true hc) (Dev.barrierAbort_ended job inside works (.inr ended))
  · exact run_withDev (decide_eq_true hc) (Dev.generationFullStop_stopped works named nonempty stopped)

end Sys2Proof.Machine
end

section
/-! PROOFS. Clauses and handles (chapter 2): O6, O7 and O4. -/

namespace Sys2Proof.Machine

/-! ### Instructions that issue -/

theorem Dev.Runs.wf {d : Dev} {core seq c : Nat} {y : Clause} (h : d.Runs core seq c y) : core < 256 ∧ seq < 3 := ⟨h.1, h.2.1⟩

/-- A sequencer whose head instruction issues stands in ISSUE. -/
theorem Dev.issues_state (d : Dev) (core seq : Nat) : (d.issues core seq).get F.coreSeqStat_state core seq = SeqSt.issue :=
  (Dev.get_put_beside _ F.coreSeqStat_cause F.coreSeqStat_state _ _ _ rfl (by decide) (by decide)).trans
    (Dev.get_put_self _ _ _ _ _ (by decide))

/-- An issue changes no field outside CORE_SEQ_STAT. -/
theorem Dev.get_issues_ne (d : Dev) (core seq : Nat) {f : Fld} (i j : Nat) (h : f.reg ≠ .coreSeqStat) :
    (d.issues core seq).get f i j = d.get f i j :=
  (Dev.get_put_ne _ _ fun e => h e.1).trans (Dev.get_put_ne _ _ fun e => h e.1)

/-! ### The completion of a clause (R448) -/

theorem Dev.awaited_put {d : Dev} {w : Waiter} {f : Fld} {i v j : Nat} (h : Reg.queCfg ≠ f.reg) :
    (d.put f i v j).Awaited w ↔ d.Awaited w := by
  simp only [Dev.Awaited, Dev.flag, Dev.put_queue, Dev.get_put_ne d (f' := F.queCfg_enable) v fun e => h e.1]

@[simp] theorem Dev.awaited_modCtx {d : Dev} {w : Waiter} {c : Nat} {f : Ctx → Ctx} : (d.modCtx c f).Awaited w ↔ d.Awaited w := Iff.rfl

@[simp] theorem Dev.awaited_modCore {d : Dev} {w : Waiter} {k : Nat} {f : Core → Core} : (d.modCore k f).Awaited w ↔ d.Awaited w := Iff.rfl

@[simp] theorem Dev.awaited_unlatchAll {d : Dev} {w : Waiter} {p : Nat × Nat → Bool} : (d.unlatchAll p).Awaited w ↔ d.Awaited w := Iff.rfl

/-- A part of a clause that completes changes its core and its context, and no queue. -/
theorem Dev.awaited_completeOn {d : Dev} {w : Waiter} {c : Nat} {y : Clause} {k len : Nat} :
    (d.completeOn c y k len).Awaited w ↔ d.Awaited w := by
  unfold Dev.completeOn
  dsimp only
  split <;> simp (disch := decide) only [Dev.incMod_eq, Dev.awaited_put, Dev.awaited_modCtx, Dev.awaited_modCore]

/-- A clause that releases its chains changes its context and the handle queues of cores. -/
theorem Dev.Awaited.unbind {d : Dev} {w : Waiter} (h : d.Awaited w) (c : Nat) (y : Clause) : (d.unbind c y).Awaited w := by
  unfold Dev.unbind
  refine Dev.awaited_modCtx.2 (Dev.each_induct (·.Awaited w) _ _ _ h fun e _ d h => ?_)
  exact Dev.each_induct (·.Awaited w) _ _ _ h fun p _ d h => (Dev.awaited_put (by decide)).2 h

/-- A clause whose parts have all completed, before its LAUNCH does: its chains and latches are released, and it leaves its context. -/
def Dev.endClause (d : Dev) (c : Nat) (y : Clause) (lengths : List Nat) : Dev :=
  (((d.each (y.cores.zip lengths) fun p d => d.completeOn c y p.1 p.2).unbind c y).unlatchAll fun r => r = (c, launchKey y.id)).modCtx c
    fun x => { x with clauses := x.clauses.filter fun z => z.id ≠ y.id }

theorem Dev.Awaited.endClause {d : Dev} {w : Waiter} (h : d.Awaited w) (c : Nat) (y : Clause) (lengths : List Nat) :
    (d.endClause c y lengths).Awaited w := by
  have completed : (d.each (y.cores.zip lengths) fun p d => d.completeOn c y p.1 p.2).Awaited w :=
    Dev.each_induct (·.Awaited w) _ _ _ h fun _ _ _ h => Dev.awaited_completeOn.2 h
  exact Dev.awaited_modCtx.2 (Dev.awaited_unlatchAll.2 (completed.unbind c y))

/-- No clause of its number is left. -/
theorem Dev.endClause_clauses (d : Dev) (c : Nat) (y : Clause) (lengths : List Nat) :
    ∀ z ∈ ((d.endClause c y lengths).ctx c).clauses, z.id ≠ y.id := by
  intro z hz
  rw [Dev.endClause, Dev.modCtx_ctx] at hz
  exact of_decide_eq_true (List.mem_filter.1 hz).2

/-- CLAUSE_COMPLETE, where every sequencer of the clause issues and every transfer of it has completed. -/
theorem Dev.clauseComplete_ready {d : Dev} {c : Nat} {lengths : List Nat} {y : Clause} {w : Waiter} (works : d.working c = true)
    (found : (d.ctx c).clauses.find? (fun z => z.id = y.id) = some y) (placed : y.placed = true) (who : y.who = some w)
    (each : lengths.length = y.cores.length)
    (ready : ∀ k ∈ y.cores, d.get F.coreSeqStat_state k y.tense = SeqSt.issue ∧ d.xfersDone k y.tense = true) :
    d.clauseComplete c y.id lengths = (d.endClause c y lengths).complete w Status.ok 0 := by
  have acts : (d.working c && y.placed && lengths.length = y.cores.length &&
      y.cores.all fun k => d.get F.coreSeqStat_state k y.tense = SeqSt.issue && d.xfersDone k y.tense : Bool) = true := by
    simpa [works, placed, each] using ready
  simp only [Dev.clauseComplete, found, acts, who]
  rfl

/-- Settles O6: neither the completion of a clause's parts nor the release of its chains touches the queue that its LAUNCH waits on. -/
theorem clauseCompletionEndsItsLaunch : Obligations.ClauseCompletionEndsItsLaunch := by
  intro s c id lengths y w hc works found placed who each awaited ready
  obtain rfl : y.id = id := by simpa using List.find?_some found
  exact ⟨_, run_withDev (decide_eq_true hc) (Dev.clauseComplete_ready works found placed who each ready),
    Dev.endClause_clauses s.dev c y lengths, Dev.complete_due _ _ (awaited.endClause c y lengths)⟩

/-! ### Handles (R42 to R44, R60) -/

/-- A handle queue of a core holds some handles, and its FILL field a number. -/
def Dev.setHandles (d : Dev) (k hq : Nat) (hs : List Word) (fill : Nat) : Dev :=
  (d.modCore k fun x => { x with handles := SMap.set x.handles hq hs }).put F.coreHqStat_fill k fill hq

theorem Dev.setHandles_handles (d : Dev) (k hq : Nat) (hs : List Word) (fill : Nat) :
    SMap.get ((d.setHandles k hq hs fill).core k).handles [] hq = hs := by
  rw [Dev.setHandles, Dev.put_core, Dev.modCore_core, SMap.get_set_self]

theorem Dev.setHandles_fill (d : Dev) (k hq : Nat) (hs : List Word) {fill : Nat} (h : fill ≤ 64) :
    (d.setHandles k hq hs fill).get F.coreHqStat_fill k hq = fill :=
  (Dev.get_put_self _ _ _ _ _ (by decide)).trans (Nat.mod_eq_of_lt (Nat.lt_of_le_of_lt h (by decide)))

theorem Dev.get_setHandles_ne (d : Dev) (k hq : Nat) (hs : List Word) (fill : Nat) {f : Fld} (i j : Nat) (h : f.reg ≠ .coreHqStat) :
    (d.setHandles k hq hs fill).get f i j = d.get f i j :=
  Dev.get_put_ne _ _ fun e => h e.1

/-- HANDLE_PUSH, where the next core of the chain has room and the sequencer's transfers have completed: the handle goes last into the
queue bound there, and the turn passes on. -/
theorem Dev.handlePush_gives {d : Dev} {core seq c chain k hq : Nat} {y : Clause} {h : Chain} (v : Word) (runs : d.Runs core seq c y)
    (known : SMap.find (d.ctx c).chains chain = some h) (next : h.bound[h.turn % max 1 h.bound.length]? = some (k, hq))
    (room : d.get F.coreHqStat_fill k hq < 64) (done : d.xfersDone core seq = true) : d.handlePush core seq chain v =
      ((d.issues core seq).setHandles k hq (SMap.get (d.core k).handles [] hq ++ [v]) (d.get F.coreHqStat_fill k hq + 1)).modCtx c
        fun x => { x with chains := SMap.set x.chains chain { h with turn := (h.turn + 1) % max 1 h.bound.length } } := by
  rw [Dev.handlePush, Dev.withClause_runs runs, ← Dev.get_issues_ne d core seq k hq (f := F.coreHqStat_fill) (by decide)]
  simp only [known, next, Nat.not_le.2 room, if_false, done]
  rfl

/-- HANDLE_POP, where the queue bound on its core holds a handle: that handle leaves the queue, and goes to the clause or faults the
context by its FMT. -/
theorem Dev.handlePop_takes {d : Dev} {core seq c chain hq : Nat} {y : Clause} {h : Chain} {v : Word} {rest : List Word}
    (runs : d.Runs core seq c y) (known : SMap.find (d.ctx c).chains chain = some h) (mine : h.clause = y.id)
    (bound : h.bound.find? (fun p => p.1 = core) = some (core, hq)) (queued : SMap.get (d.core core).handles [] hq = v :: rest) :
    d.handlePop core seq chain =
      if bitsOf v.toNat 56 4 = 0xF then
        ((d.issues core seq).setHandles core hq rest rest.length).faultCtx c Status.formatUnknown core seq 0
      else ((d.issues core seq).setHandles core hq rest rest.length).emit (.toClause core seq v.toNat) := by
  rw [Dev.handlePop, Dev.withClause_runs runs]
  simp only [known, mine, bound, queued, if_true, Option.map_some]
  rfl

/-- Settles O7: a push sets the bound queue to itself and the handle, a pop sets it to its rest. -/
theorem handlesPassInOrder : Obligations.HandlesPassInOrder := by
  refine ⟨fun s core seq chain c k hq y h v runs hchain known next _ _ room done => ?_,
    fun s core seq chain c hq y h v rest runs hchain known mine bound _ short queued => ?_⟩
  · refine ⟨_, run_withDev (by simp [Instr.wf, runs.wf, hchain]) (Dev.handlePush_gives v runs known next room done), ?_, ?_, ?_⟩
    all_goals simp only [State.withDev, Dev.modCtx_core, Dev.modCtx_get]
    · exact Dev.setHandles_handles _ _ _ _ _
    · exact Dev.setHandles_fill _ _ _ _ room
    · exact (Dev.get_setHandles_ne _ _ _ _ _ _ _ (by decide)).trans (Dev.issues_state s.dev core seq)
  · refine ⟨_, run_withDev (by simp [Instr.wf, runs.wf, hchain]) (Dev.handlePop_takes runs known mine bound queued),
      fun defined => ?_, fun reserved => if_pos reserved⟩
    rw [State.withDev, if_neg defined]
    exact ⟨rfl, Dev.setHandles_handles _ core hq rest rest.length, Dev.setHandles_fill _ _ _ _ short.le⟩

/-! ### LAUNCH (Table 2.4, R35) -/

/-- The clause that a LAUNCH's descriptor makes of the header of its image. -/
def launchClause (q i ord : Nat) (w : Waiter) (bs h : List Byte) (id : Nat) : Clause :=
  clauseOf id ord (.desc q i) (some w) h (fieldAt bs 24 2) (fieldAt bs 26 1) (bitOf (fieldAt bs 27 1) 0) (bitOf (fieldAt bs 27 1) 1)
    (fieldAt bs 32 4) (fieldAt bs 36 4) (chainsAt bs 40) (chainsAt bs 48).dedup (fieldAt bs 56 8) [] 0

/-- The place in the device's order of the descriptor that a command names. -/
def Dev.ordOf (d : Dev) (q i : Nat) : Nat :=
  match d.desc q i with
  | some x => x.ord
  | none => 0

theorem Dev.ordOf_of_desc {d : Dev} {q i : Nat} {x : Desc} (h : d.desc q i = some x) : d.ordOf q i = x.ord := by
  rw [Dev.ordOf, h]

/-- A clause added to a context stands where its order puts it. -/
theorem Dev.addClause_clauses (d : Dev) (c : Nat) (f : Nat → Clause) :
    ((d.addClause c f).ctx c).clauses = insertClause (f (d.ctx c).nextId) (d.ctx c).clauses := by
  rw [Dev.addClause, Dev.modCtx_ctx]

section
variable {d d1 : Dev} {q i c : Nat} {w : Waiter} {bs : List Byte} (stands : d.Stands q i 1 256 c w bs) (form : launchForm bs = true)
  (nonzero : fieldAt bs 24 2 ≠ 0) (enough : fieldAt bs 24 2 ≤ (d.coresOf c).length)
include stands form nonzero enough

/-- LAUNCH, past the first checks of Table 2.4, of an image that does not pass: the image's status is the LAUNCH's. -/
theorem Dev.launch_refused {st : Nat} (image : d.loadImage c (fieldAt bs 16 8) = (.error st, d1)) :
    d.launch q i = d1.complete w st 0 := by
  rw [Dev.launch, Dev.withDesc_stands stands]
  simp only [form, nonzero, Nat.not_lt.2 enough, image]
  rfl

/-- LAUNCH, past the first checks of Table 2.4, of an image that passes, in a context whose kind allows the clause. -/
theorem Dev.launch_queued {h : List Byte} (image : d.loadImage c (fieldAt bs 16 8) = (.ok h, d1))
    (kind : genAllowed (d1.kindOf c) (bitOf (fieldAt bs 27 1) 0) (fieldAt bs 26 1) = true) :
    d.launch q i = (d1.accept w).addClause c (launchClause q i (d.ordOf q i) w bs h) := by
  rw [Dev.launch, Dev.withDesc_stands stands]
  simp only [form, nonzero, Nat.not_lt.2 enough, image, kind]
  rfl

end

/-- Settles O4: by what the load of its image gives. -/
theorem launchQueuesItsClause : Obligations.LaunchQueuesItsClause := by
  intro s q i c w bs r d1 stands form nonzero enough image kind
  have wf : Instr.wf (.launch q i) = true := by simp [Instr.wf, stands.wf]
  cases r with
  | error st =>
    refine ⟨_, run_withDev wf (Dev.launch_refused stands form nonzero enough image), nofun, ?_⟩
    rintro _ ⟨⟩ awaited
    exact ⟨Dev.complete_due _ _ awaited, rfl⟩
  | ok h =>
    refine ⟨_, run_withDev wf (Dev.launch_queued stands form nonzero enough image kind), ?_, nofun⟩
    rintro _ ⟨⟩
    exact ⟨launchClause q i (s.dev.ordOf q i) w bs h (d1.ctx c).nextId, Dev.addClause_clauses _ _ _, fun x => Dev.ordOf_of_desc,
      rfl, rfl, rfl, rfl, rfl, rfl, rfl, rfl, rfl⟩

end Sys2Proof.Machine
end

section
/-! SUPPORT. What a context's reads and writes leave unchanged: the registers that they count in, and what a read leaves alone besides. -/

namespace Sys2Proof.Machine

/-! ### Registers outside a set -/

/-- Every register outside a list is as before. -/
def Dev.KeepsRegs (S : List Reg) (d e : Dev) : Prop := ∀ r, r ∉ S → ∀ i j, e.reg r i j = d.reg r i j

namespace Dev.KeepsRegs
variable {S : List Reg} {d d1 e : Dev}

theorem refl (S : List Reg) (d : Dev) : d.KeepsRegs S d := fun _ _ _ _ => rfl

theorem trans (h : d.KeepsRegs S d1) (h' : d1.KeepsRegs S e) : d.KeepsRegs S e := fun r hr i j =>
  (h' r hr i j).trans (h r hr i j)

theorem of_regs (S : List Reg) (h : e.regs = d.regs) (h' : e.cfg = d.cfg) : d.KeepsRegs S e := fun r _ i j => by
  unfold Dev.reg
  rw [h, h']

theorem mono {T : List Reg} (h : d.KeepsRegs S e) (sub : S ⊆ T) : d.KeepsRegs T e := fun r hr => h r fun hs => hr (sub hs)

theorem put (h : d.KeepsRegs S e) {f : Fld} (hf : f.reg ∈ S) (i v j : Nat) : d.KeepsRegs S (e.put f i v j) :=
  h.trans fun _ hr _ _ => Dev.reg_put_ne _ _ _ _ _ _ fun eq => hr (eq ▸ hf)

theorem setReg (h : d.KeepsRegs S e) {r : Reg} (hr : r ∈ S) (i v j : Nat) : d.KeepsRegs S (e.setReg r i v j) :=
  h.trans fun _ hr' _ _ => Dev.reg_setReg_other _ _ _ _ _ _ fun eq => hr' (eq ▸ hr)

theorem modCtx (h : d.KeepsRegs S e) (c : Nat) (f : Ctx → Ctx) : d.KeepsRegs S (e.modCtx c f) := h

theorem modCore (h : d.KeepsRegs S e) (k : Nat) (f : Core → Core) : d.KeepsRegs S (e.modCore k f) := h

theorem each {α : Type} (h : d.KeepsRegs S e) (xs : List α) {f : α → Dev → Dev} (step : ∀ x d, Dev.KeepsRegs S d (f x d)) :
    d.KeepsRegs S (e.each xs f) :=
  Dev.each_induct (d.KeepsRegs S) _ _ _ h fun x _ _ h => h.trans (step x _)

/-- A field of a register outside the list. -/
theorem get (h : d.KeepsRegs S e) {f : Fld} (hf : f.reg ∉ S) (i j : Nat) : e.get f i j = d.get f i j :=
  congrArg (bitsOf · f.lo f.w) (h f.reg hf i j)

end Dev.KeepsRegs

/-- The registers in which reads and writes of a context's memory count: use, capacity, retirement, failures, KV frames. -/
def memRegs : List Reg := [.tierUse, .tierCap, .tierStat, .tierCtxErr, .kvPool, .kvStat]

/-! ### Reads -/

/-- A device after reads of a context's memory: they count in registers, draw free values, latch banks for readers (R49), poison leaves and
retire frames (R247), and change nothing else. -/
structure Dev.ReadsTo (d e : Dev) : Prop where
  rest : ∃ rs fi xs ss rt,
    e = { d with regs := rs, freeIdx := fi, ctxs := xs, sets := ss, mem := { d.mem with retired := rt } }
  latches : ∀ w, { e.wset w with readers0 := [], readers1 := [] } = { d.wset w with readers0 := [], readers1 := [] }
  counts : d.KeepsRegs memRegs e

namespace Dev.ReadsTo
variable {d d1 e : Dev}

theorem refl (d : Dev) : d.ReadsTo d := ⟨⟨_, _, _, _, _, rfl⟩, fun _ => rfl, .refl _ _⟩

theorem trans (h : d.ReadsTo d1) (h' : d1.ReadsTo e) : d.ReadsTo e := by
  obtain ⟨⟨rs, fi, xs, ss, rt, rfl⟩, latches, counts⟩ := h
  obtain ⟨⟨rs', fi', xs', ss', rt', rfl⟩, latches', counts'⟩ := h'
  exact ⟨⟨_, _, _, _, _, rfl⟩, fun w => (latches' w).trans (latches w), counts.trans counts'⟩

theorem put (h : d.ReadsTo e) {f : Fld} (hf : f.reg ∈ memRegs) (i v j : Nat) : d.ReadsTo (e.put f i v j) :=
  h.trans ⟨⟨_, _, _, _, _, rfl⟩, fun _ => rfl, (KeepsRegs.refl _ _).put hf i v j⟩

theorem modCtx (h : d.ReadsTo e) (c : Nat) (f : Ctx → Ctx) : d.ReadsTo (e.modCtx c f) :=
  h.trans ⟨⟨_, _, _, _, _, rfl⟩, fun _ => rfl, .refl _ _⟩

theorem freeVal (h : d.ReadsTo e) : d.ReadsTo e.freeVal.2 := h.trans ⟨⟨_, _, _, _, _, rfl⟩, fun _ => rfl, .refl _ _⟩

end Dev.ReadsTo

theorem WSet.latch_readers (s : WSet) (bank : Nat) (r : Nat × Nat) :
    { s.latch bank r with readers0 := [], readers1 := [] } = { s with readers0 := [], readers1 := [] } := by
  unfold WSet.latch
  split <;> rfl

/-- A latch of a set's bank changes the set's readers alone. -/
theorem Dev.setWset_latch_readsTo (d : Dev) (w bank : Nat) (r : Nat × Nat) : d.ReadsTo (d.setWset w ((d.wset w).latch bank r)) where
  rest := ⟨_, _, _, _, _, rfl⟩
  latches v := by
    by_cases h : v = w
    · subst h
      rw [Dev.setWset_wset, WSet.latch_readers]
    · rw [Dev.setWset_wset_ne _ _ _ _ h]
  counts := .refl _ _

theorem Dev.latchRead_readsTo (d : Dev) (reader : Option (Nat × Nat)) (l : Leaf) : d.ReadsTo (d.latchRead reader l) := by
  unfold Dev.latchRead
  split
  next r _ =>
    dsimp only
    split
    · exact .refl d
    · split
      · exact (Dev.setWset_latch_readsTo d _ _ _).modCtx _ _
      · exact Dev.setWset_latch_readsTo d _ _ _
  next => exact .refl d

theorem Dev.countFail_readsTo (d : Dev) (c status : Nat) : d.ReadsTo (d.countFail c status) := by
  unfold Dev.countFail
  split
  · exact (ReadsTo.refl d).put (by decide) _ _ _
  · exact (ReadsTo.refl d).put (by decide) _ _ _

theorem Dev.retire_readsTo (d : Dev) (tier f : Nat) : d.ReadsTo (d.retire tier f) := by
  unfold Dev.retire
  split
  · exact .refl d
  · have listed : d.ReadsTo { d with mem := { d.mem with retired := d.mem.retired ++ [(tier, f)] } } :=
      ⟨⟨_, _, _, _, _, rfl⟩, fun _ => rfl, .refl _ _⟩
    exact (listed.put (f := F.tierCap_frames) (by decide) _ _ _).put (f := F.tierStat_retired) (by decide) _ _ _

theorem Dev.poisonGranule_readsTo (d : Dev) (c g : Nat) : d.ReadsTo (d.poisonGranule c g) := by
  unfold Dev.poisonGranule
  split
  · exact ((ReadsTo.refl d).modCtx _ _).trans (Dev.retire_readsTo _ _ _)
  · exact .refl d

theorem Dev.request_readsTo (d : Dev) (c : Nat) (rsp : TierRsp) (g : Nat) : d.ReadsTo (d.request c rsp g).2 := by
  unfold Dev.request
  split
  · exact .refl d
  next k l _ =>
    dsimp only
    generalize (if l.kind = .accord then 0 else l.tier) = tier
    split
    · exact .refl d
    · split
      · exact Dev.countFail_readsTo d c Status.tierError
      · split
        · split
          · exact .refl d
          · exact Dev.countFail_readsTo d c Status.tierTimeout
        · exact (Dev.poisonGranule_readsTo d c g).trans (Dev.countFail_readsTo _ c Status.tierError)
        · exact .refl d

theorem Dev.freeBytes_readsTo (d : Dev) (n : Nat) : d.ReadsTo (d.freeBytes n).2 := by
  induction n generalizing d with
  | zero => exact .refl d
  | succ n ih => exact (ReadsTo.refl d).freeVal.trans (ih _)

theorem Dev.physRead_readsTo (d : Dev) (tenant tier a n : Nat) : d.ReadsTo (d.physRead tenant tier a n).2 := by
  unfold Dev.physRead
  dsimp only
  split
  · split
    · refine List.foldlRecOn (motive := fun (r : List Byte × Dev) => d.ReadsTo r.2) _ _ (.refl d) fun r h i _ => ?_
      split
      · exact h.freeVal
      · exact h
    · exact .refl d
  · exact .refl d

theorem Dev.peekVa_readsTo (d : Dev) (c : Nat) (reader : Option (Nat × Nat)) (va n : Nat) : d.ReadsTo (d.peekVa c reader va n).2 := by
  unfold Dev.peekVa
  refine List.foldlRecOn (motive := fun (r : List Byte × Dev) => d.ReadsTo r.2) _ _ (.refl d) fun r h p _ => ?_
  split
  · split
    · exact h.trans ((Dev.countFail_readsTo _ _ _).trans (Dev.freeBytes_readsTo _ _))
    · split
      · exact h.trans (Dev.physRead_readsTo _ _ _ _ _)
      · exact h
  · exact h

theorem Dev.readVa_readsTo (d : Dev) (c : Nat) (reader : Option (Nat × Nat)) (rsp : TierRsp) (va n : Nat) :
    d.ReadsTo (d.readVa c reader rsp va n).2 := by
  unfold Dev.readVa
  refine List.foldlRecOn (motive := fun (r : Got × Dev) => d.ReadsTo r.2) _ _ (.refl d) fun r h p _ => ?_
  dsimp only
  split
  · exact h
  · split
    · split <;> exact h
    · next l _ =>
      have asked := h.trans ((Dev.latchRead_readsTo r.2 reader l).trans (Dev.request_readsTo _ c rsp (p.1 / pageBytes)))
      split
      next e =>
        rw [e] at asked
        exact asked
      next e =>
        rw [e] at asked
        exact asked.trans (Dev.peekVa_readsTo _ _ _ _ _)

/-! ### Parts of an instruction -/

/-- The device that a part of an instruction leaves, where it gives a value and where it faults. -/
def leaves {α : Type} (m : ClauseM α) (d : Dev) : Dev :=
  match m d with
  | .ok _ e => e
  | .error _ e => e

/-- A part of an instruction keeps a property of the device. -/
def Keeps {α : Type} (P : Dev → Prop) (m : ClauseM α) : Prop := ∀ d, P d → P (leaves m d)

theorem leaves_get_bind {α : Type} (k : Dev → ClauseM α) (d : Dev) : leaves (get >>= k) d = leaves (k d) d := rfl

theorem leaves_set_bind {α : Type} (e : Dev) (k : PUnit → ClauseM α) (d : Dev) : leaves (set e >>= k) d = leaves (k ⟨⟩) e := rfl

theorem leaves_of_ok {α : Type} {m : ClauseM α} {d e : Dev} {x : α} (h : m d = .ok x e) : leaves m d = e := by
  rw [leaves, h]

/-- What follows a part runs on the device that the part leaves, and only where it gives a value. -/
theorem leaves_bind {α β : Type} (m : ClauseM α) (k : α → ClauseM β) (d : Dev) :
    leaves (m >>= k) d = match m d with | .ok x e => leaves (k x) e | .error _ e => e := by
  show (match EStateM.bind m k d with | .ok _ e => e | .error _ e => e) = _
  unfold EStateM.bind
  cases m d <;> rfl

namespace Keeps
variable {α β : Type} {P : Dev → Prop}

theorem pure (x : α) : Keeps P (Pure.pure x : ClauseM α) := fun _ h => h

theorem trap (status va : Nat) : Keeps P (Machine.trap status va : ClauseM α) := fun _ h => h

theorem update {f : Dev → Dev} (h : ∀ d, P d → P (f d)) : Keeps P (Machine.update f) := h

/-- What follows a part need keep the property only for a value that the part can give. -/
theorem bind_ok {m : ClauseM α} {k : α → ClauseM β} (first : Keeps P m) (rest : ∀ x d e, m d = .ok x e → Keeps P (k x)) :
    Keeps P (m >>= k) := by
  intro d h
  have left := first d h
  rw [leaves_bind]
  cases run : m d with
  | ok x e =>
    rw [leaves_of_ok run] at left
    exact rest x d e run e left
  | error f e =>
    rw [leaves, run] at left
    exact left

theorem bind {m : ClauseM α} {k : α → ClauseM β} (first : Keeps P m) (rest : ∀ x, Keeps P (k x)) : Keeps P (m >>= k) :=
  first.bind_ok fun x _ _ _ => rest x

end Keeps

/-- A sequence that gives a value went through its first part's. -/
theorem bind_ok_inv {α β : Type} {m : ClauseM α} {k : α → ClauseM β} {d e : Dev} {y : β} (h : (m >>= k) d = .ok y e) :
    ∃ x d1, m d = .ok x d1 ∧ k x d1 = .ok y e := by
  change EStateM.bind m k d = _ at h
  unfold EStateM.bind at h
  cases run : m d with
  | ok x d1 =>
    rw [run] at h
    exact ⟨x, d1, rfl, h⟩
  | error f d1 =>
    rw [run] at h
    cases h

/-- What is kept whatever a context reads. -/
def ReadClosed (P : Dev → Prop) : Prop := ∀ d e, P d → d.ReadsTo e → P e

section
variable {P : Dev → Prop}

theorem checkRec_keeps (r : TRec) (engine dest : Bool) : Keeps P (checkRec r engine dest) := by
  unfold checkRec
  dsimp only
  split
  · exact .bind (.trap _ _) fun _ => by split <;> exact fun _ h => h
  · split <;> exact fun _ h => h

theorem checkDot_keeps (ra rb : TRec) (group : Nat) : Keeps P (checkDot ra rb group) := by
  unfold checkDot
  split <;> exact fun _ h => h

theorem getBytes_keeps (closed : ReadClosed P) (v : Env) (w : Word) (n : Nat) : Keeps P (getBytes v w n) := by
  intro d h
  unfold getBytes
  rw [leaves_get_bind]
  split
  next a _ =>
    rw [leaves_set_bind]
    have read := closed _ _ h (Dev.readVa_readsTo d v.c v.reader v.rsp a n)
    split
    · split <;> exact read
    · exact read
  next =>
    split <;> exact h
  next => exact h

theorem fetch_keeps (closed : ReadClosed P) (v : Env) (t : TRef) (rows cols : Nat) (engine : Bool) :
    Keeps P (fetch v t rows cols engine) := by
  unfold fetch
  exact (checkRec_keeps _ _ _).bind fun _ => (getBytes_keeps closed _ _ _).bind fun _ =>
    (getBytes_keeps closed _ _ _).bind fun _ => .pure _

end

end Sys2Proof.Machine
end

section
/-! SUPPORT. What a context's writes leave unchanged: no register but those in which its memory counts. -/

namespace Sys2Proof.Machine

/-! ### Frames and stores -/

@[simp] theorem Dev.setUsed_regs (d : Dev) (tier : Nat) (u : SMap Nat) : (d.setUsed tier u).regs = d.regs := by
  unfold Dev.setUsed
  split
  · rfl
  · split <;> rfl

@[simp] theorem Dev.setUsed_cfg (d : Dev) (tier : Nat) (u : SMap Nat) : (d.setUsed tier u).cfg = d.cfg := by
  unfold Dev.setUsed
  split
  · rfl
  · split <;> rfl

@[simp] theorem Dev.setStore_regs (d : Dev) (tier : Nat) (m : Memory) : (d.setStore tier m).regs = d.regs := by
  unfold Dev.setStore
  split
  · rfl
  · split <;> rfl

@[simp] theorem Dev.setStore_cfg (d : Dev) (tier : Nat) (m : Memory) : (d.setStore tier m).cfg = d.cfg := by
  unfold Dev.setStore
  split
  · rfl
  · split <;> rfl

@[simp] theorem Dev.setMetas_regs (d : Dev) (tier : Nat) (m : SMap Nat) : (d.setMetas tier m).regs = d.regs := by
  unfold Dev.setMetas
  split <;> rfl

@[simp] theorem Dev.setMetas_cfg (d : Dev) (tier : Nat) (m : SMap Nat) : (d.setMetas tier m).cfg = d.cfg := by
  unfold Dev.setMetas
  split <;> rfl

namespace Dev.KeepsRegs
variable {S : List Reg} {d d1 e : Dev}

theorem setUsed (h : d.KeepsRegs S e) (tier : Nat) (u : SMap Nat) : d.KeepsRegs S (e.setUsed tier u) :=
  h.trans (of_regs S (e.setUsed_regs _ _) (e.setUsed_cfg _ _))

theorem setStore (h : d.KeepsRegs S e) (tier : Nat) (m : Memory) : d.KeepsRegs S (e.setStore tier m) :=
  h.trans (of_regs S (e.setStore_regs _ _) (e.setStore_cfg _ _))

theorem setMetas (h : d.KeepsRegs S e) (tier : Nat) (m : SMap Nat) : d.KeepsRegs S (e.setMetas tier m) :=
  h.trans (of_regs S (e.setMetas_regs _ _) (e.setMetas_cfg _ _))

/-- A change that a condition asks for. -/
theorem ite {p : Prop} [Decidable p] (yes : d.KeepsRegs S d1) (no : d.KeepsRegs S e) : d.KeepsRegs S (if p then d1 else e) := by
  split
  · exact yes
  · exact no

end Dev.KeepsRegs

section
variable (d : Dev) (c : Nat)

theorem Dev.takeFrames_keeps (S : List Reg) (tier s n : Nat) : d.KeepsRegs S (d.takeFrames tier s n) := by
  apply KeepsRegs.of_regs
  all_goals
    unfold Dev.takeFrames
    dsimp only
    split <;> split <;> simp

theorem Dev.giveFrames_keeps (S : List Reg) (tier s : Nat) : d.KeepsRegs S (d.giveFrames tier s) := (KeepsRegs.refl S d).setUsed _ _

theorem Dev.allocFrames_keeps (tier n : Nat) : d.KeepsRegs memRegs (d.allocFrames tier n).2 := by
  unfold Dev.allocFrames
  split
  · exact d.takeFrames_keeps _ _ _ _
  · exact (KeepsRegs.refl _ d).put (by decide) _ _ _

theorem Dev.charge_keeps (tier n : Nat) : d.KeepsRegs memRegs (d.charge c tier n) :=
  (KeepsRegs.refl _ d).put (f := F.tierUse_bytes) (by decide) _ _ _

theorem Dev.uncharge_keeps (tier n : Nat) : d.KeepsRegs memRegs (d.uncharge c tier n) :=
  (KeepsRegs.refl _ d).put (f := F.tierUse_bytes) (by decide) _ _ _

theorem Dev.kvCount_keeps : d.KeepsRegs memRegs (d.kvCount c) := (KeepsRegs.refl _ d).put (by decide) _ _ _

theorem Dev.noteFull_keeps (starved : Bool) : d.KeepsRegs memRegs (d.noteFull starved) :=
  .ite ((KeepsRegs.refl _ d).put (by decide) _ _ _) (.refl _ d)

/-! ### Leaves and their tables -/

theorem Dev.growTables_keeps (k : Nat) : d.KeepsRegs memRegs (d.growTables c k) := by
  induction k generalizing d with
  | zero => exact .refl _ d
  | succ k ih =>
    have got := d.allocFrames_keeps 0 1
    unfold Dev.growTables
    split
    next eq =>
      rw [eq] at got
      exact ((got.modCtx _ _).trans (Dev.charge_keeps _ _ _ _)).trans (ih _)
    next eq =>
      rw [eq] at got
      exact got

theorem Dev.retable_keeps : d.KeepsRegs memRegs (d.retable c) := by
  unfold Dev.retable
  dsimp only
  refine KeepsRegs.trans ?_ (Dev.growTables_keeps _ _ _)
  refine .ite (.refl _ d) (KeepsRegs.trans ?_ (Dev.uncharge_keeps _ _ _ _))
  exact ((KeepsRegs.refl memRegs d).modCtx c fun _ => _).each _ fun _ d => d.giveFrames_keeps _ _ _

theorem Dev.setLeaves_keeps (ls : SMap Leaf) : d.KeepsRegs memRegs (d.setLeaves c ls) :=
  ((KeepsRegs.refl _ d).modCtx _ _).trans (Dev.retable_keeps _ _)

theorem Dev.dropFrames_keeps (l : Leaf) : d.KeepsRegs memRegs (d.dropFrames c l) := by
  unfold Dev.dropFrames
  refine .ite (.refl _ d) ((d.uncharge_keeps c l.tier (leafCharge l)).trans ?_)
  dsimp only
  generalize d.uncharge c l.tier (leafCharge l) = d
  have given := d.giveFrames_keeps memRegs l.tier l.frame
  cases l.kind with
  | map | ring => exact given
  | kv => exact .ite ((given.modCtx _ _).trans (Dev.kvCount_keeps _ _)) given
  | area | accord => exact .refl _ d

theorem Dev.dropLeaves_keeps (ks : List Nat) : d.KeepsRegs memRegs (d.dropLeaves c ks) :=
  ((KeepsRegs.refl _ d).each _ fun _ d => d.dropFrames_keeps _ _).trans (Dev.setLeaves_keeps _ _ _)

/-! ### First touch (R233) -/

theorem Dev.setLeaf_keeps (S : List Reg) (k : Nat) (l : Leaf) : d.KeepsRegs S (d.setLeaf c k l) := .refl S d

/-- The device that a try of one tier leaves, with the leaf's frames or without. -/
theorem Dev.touchIn_keeps (k : Nat) (l : Leaf) (tier : Nat) :
    d.KeepsRegs memRegs ((d.touchIn c k l tier).1.getD (d.touchIn c k l tier).2) := by
  have got := d.allocFrames_keeps tier (leafFrames l.level)
  unfold Dev.touchIn
  generalize leafFrames l.level = n at got ⊢
  dsimp only
  split
  · exact .refl _ d
  · split
    next eq =>
      rw [eq] at got
      exact (got.trans (Dev.setLeaf_keeps _ _ _ _ _)).trans (Dev.charge_keeps _ _ _ _)
    next eq =>
      rw [eq] at got
      exact got

theorem Dev.touchGo_keeps (k : Nat) (l : Leaf) (ts : List Nat) : d.KeepsRegs memRegs (d.touchGo c k l ts).2 := by
  induction ts generalizing d with
  | nil => exact .refl _ d
  | cons t ts ih =>
    have tried := d.touchIn_keeps c k l t
    unfold Dev.touchGo
    split
    next eq =>
      rw [eq] at tried
      exact tried
    next eq =>
      rw [eq] at tried
      exact KeepsRegs.trans tried (ih _)

theorem Dev.firstTouch_keeps (k : Nat) (l : Leaf) : d.KeepsRegs memRegs (d.firstTouch c k l).2 := d.touchGo_keeps c k l _

/-! ### Bytes where they lie -/

theorem Dev.claimUnit_keeps (key u : Nat) : d.KeepsRegs memRegs (d.claimUnit key u) := by
  have drawn := (d.freeBytes_readsTo 64).counts
  unfold Dev.claimUnit
  generalize d.freeBytes 64 = r at drawn ⊢
  exact .ite drawn (.refl _ d)

theorem Dev.physWrite_keeps (tenant tier a : Nat) (bs : List Byte) : d.KeepsRegs memRegs (d.physWrite tenant tier a bs) := by
  unfold Dev.physWrite
  dsimp only
  refine .ite ?_ ((KeepsRegs.refl _ d).setStore _ _)
  exact (KeepsRegs.refl memRegs d).each _ fun _ d => d.claimUnit_keeps _ _

theorem Dev.recode_keeps (tier frame off n : Nat) : d.KeepsRegs memRegs (d.recode tier frame off n) :=
  .ite (.refl _ d) ((KeepsRegs.refl _ d).setMetas _ _)

theorem Dev.pokeVa_keeps (va : Nat) (bs : List Byte) : d.KeepsRegs memRegs (d.pokeVa c va bs) := by
  refine (KeepsRegs.refl memRegs d).each _ fun p d => ?_
  split
  · refine .ite (d.countFail_readsTo _ _).counts (.ite ?_ (.refl _ d))
    dsimp only
    exact .ite (d.physWrite_keeps _ _ _ _) ((d.physWrite_keeps _ _ _ _).trans (Dev.recode_keeps _ _ _ _ _))
  · exact .refl _ d

theorem Dev.addSquare_keeps (S : List Reg) (unit : Nat) (w : W32) : d.KeepsRegs S (d.addSquare unit c w) := by
  unfold Dev.addSquare
  split <;> exact .refl S d

theorem Dev.watchLand_keeps (va n : Nat) : d.KeepsRegs memRegs (d.watchLand c va n) :=
  (KeepsRegs.refl memRegs d).each _ fun _ d => (KeepsRegs.refl memRegs d).each _ fun _ d =>
    (d.peekVa_readsTo c none _ _).counts.trans (Dev.addSquare_keeps _ _ _ _ _)

theorem Dev.land_keeps (va : Nat) (bs : List Byte) : d.KeepsRegs memRegs (d.land c va bs) :=
  (d.pokeVa_keeps c va bs).trans (Dev.watchLand_keeps _ _ _ _)

/-! ### KV pages (R122, R123) -/

theorem Dev.modRollout_keeps (S : List Reg) (seq : Nat) (f : Rollout → Rollout) : d.KeepsRegs S (d.modRollout c seq f) := .refl S d

theorem Dev.kvFrame_keeps (g : Nat) : d.KeepsRegs memRegs (d.kvFrame c g).2 := by
  unfold Dev.kvFrame
  dsimp only
  split
  · exact (d.noteFull_keeps _).put (by decide) _ _ _
  · split
    · exact (((d.takeFrames_keeps _ _ _ _).modCtx _ _).trans (Dev.kvCount_keeps _ _)).trans (Dev.setLeaves_keeps _ _ _)
    · exact (d.noteFull_keeps _).put (by decide) _ _ _

theorem Dev.kvFrames_keeps (gs : List Nat) : d.KeepsRegs memRegs (d.kvFrames c gs).2 := by
  induction gs generalizing d with
  | nil => exact .refl _ d
  | cons g gs ih =>
    have one := d.kvFrame_keeps c g
    unfold Dev.kvFrames
    split
    next eq =>
      rw [eq] at one
      exact one
    next d1 eq =>
      rw [eq] at one
      have rest := one.trans (ih d1)
      split
      next eq' =>
        rw [eq'] at rest
        exact rest
      next eq' =>
        rw [eq'] at rest
        exact rest.trans (Dev.dropLeaves_keeps _ _ _)

theorem Dev.kvTouch_keeps (va : Nat) (info : Option HdrInfo) : d.KeepsRegs memRegs (d.kvTouch c va info).2 := by
  unfold Dev.kvTouch
  split
  · exact .refl _ d
  · exact d.kvFrame_keeps c _
  next seq pre page _ =>
    split
    · exact .refl _ d
    next r _ =>
      dsimp only
      generalize (va / pageBytes :: if ((d.ctx c).leafAt (d.kvHeader c pre r.slot page / pageBytes)).isSome then []
        else [d.kvHeader c pre r.slot page / pageBytes]) = gs
      have framed := d.kvFrames_keeps c gs
      split
      · exact framed.trans (Dev.modRollout_keeps _ _ _ _ _)
      · refine KeepsRegs.trans ?_ (Dev.land_keeps _ _ _ _)
        cases info with
        | some i => exact framed
        | none => exact framed.trans (ReadsTo.refl _).freeVal.counts

/-! ### Checked writes -/

theorem Dev.prepWrite_keeps (rsp : TierRsp) (va : Nat) (info : Option HdrInfo) : d.KeepsRegs memRegs (d.prepWrite c rsp va info).2 := by
  unfold Dev.prepWrite
  dsimp only
  split
  · exact .refl _ d
  · split
    · split
      · have touched := d.kvTouch_keeps c va info
        split
        · exact touched.trans (Dev.request_readsTo _ c rsp _).counts
        · exact touched
      · exact .refl _ d
    next k l _ =>
      split
      · exact .refl _ d
      · split
        · exact (d.request_readsTo c rsp _).counts
        · have touched := d.firstTouch_keeps c k l
          split
          · exact touched.trans (Dev.request_readsTo _ c rsp _).counts
          · exact touched

theorem Dev.writeGo_keeps (rsp : TierRsp) (n : Nat) (ps : List (Nat × List Byte)) : d.KeepsRegs memRegs (d.writeGo c rsp n ps).2.2 := by
  induction ps generalizing d n with
  | nil => exact .refl _ d
  | cons p ps ih =>
    have ready := d.prepWrite_keeps c rsp p.1 none
    unfold Dev.writeGo
    split
    next eq =>
      rw [eq] at ready
      exact ready
    next eq =>
      rw [eq] at ready
      exact (ready.trans (Dev.land_keeps _ _ _ _)).trans (ih _ _)

end

/-! ### A unit's reads and writes, between chunks -/

section
variable {d : Dev} (c : Nat) (rsp : TierRsp) (va : Nat)

theorem unitRead_keeps (n : Nat) : Keeps (d.KeepsRegs memRegs) (unitRead c none rsp va n) := by
  intro e h
  have read := h.trans (e.readVa_readsTo c none rsp va n).counts
  unfold unitRead
  rw [leaves_get_bind]
  dsimp only
  split <;> exact read

theorem unitWrite_keeps (bs : List Byte) : Keeps (d.KeepsRegs memRegs) (unitWrite c none rsp va bs) := by
  intro e h
  have written := h.trans (e.writeGo_keeps c rsp 0 (pieces va bs))
  unfold unitWrite
  rw [leaves_get_bind]
  dsimp only
  rw [leaves_set_bind]
  split
  · split <;> exact written
  · exact written

end

end Sys2Proof.Machine
end

section
/-! PROOFS. The engine and vector instructions of the number formats (chapters 3 and 10): O13. -/

namespace Sys2Proof.Machine

/-! ### Parts in sequence -/

/-- A part that gives its value, then the rest. -/
theorem Gives.bind {α β : Type} {m : ClauseM α} {k : α → ClauseM β} {d d1 d2 : Dev} {x : α} {y : β} (first : Gives m d x d1)
    (rest : Gives (k x) d1 y d2) : Gives (m >>= k) d y d2 := (bind_gives first).trans rest

/-- A part that a condition asks for, then the rest. -/
theorem Gives.bindIf {α : Type} {p : Prop} [Decidable p] {m : ClauseM Unit} {k : Unit → ClauseM α} {d d1 d2 : Dev} {y : α}
    (first : Gives (if p then m else pure ()) d () d1) (rest : Gives (k ()) d1 y d2) : Gives (if p then m >>= k else k ()) d y d2 := by
  by_cases h : p
  · rw [if_pos h] at first ⊢
    exact first.bind rest
  · rw [if_neg h] at first ⊢
    cases first
    exact rest

theorem Dev.Ready.wf {d : Dev} {core seq c : Nat} {y : Clause} {units : List Nat} (h : d.Ready core seq c y units) :
    core < 256 ∧ seq < 3 := h.1.wf

/-- Operands of a legal group size, with blocks along K, pass the check of a product (R66, R73). -/
theorem checkDot_gives {ra rb : TRec} {group : Nat} (d : Dev) (size : groupOk group = true) (alongA : blockSize ra.fmt ≠ 0 → ra.axis = 1)
    (alongB : blockSize rb.fmt ≠ 0 → rb.axis = 1) : Gives (checkDot ra rb group) d () d := by
  have legal : (!groupOk group || (blockSize ra.fmt ≠ 0 && ra.axis ≠ 1) || (blockSize rb.fmt ≠ 0 && rb.axis ≠ 1) : Bool) = false := by
    simpa [size] using And.intro alongA alongB
  simp only [checkDot, legal]
  rfl

/-! ### The meanings -/

section
variable {v : Env} {d d1 d2 d3 : Dev}

theorem matrixM_gives {op : MatOp} {ra rb : TRec} {a b : List (List Elt)} (left : Gives (fetch v op.a op.m op.k true) d (ra, a) d1)
    (right : Gives (fetch v op.b op.n op.k true) d1 (rb, b) d2) (size : groupOk op.group = true)
    (alongA : blockSize ra.fmt ≠ 0 → ra.axis = 1) (alongB : blockSize rb.fmt ≠ 0 → rb.axis = 1)
    (store : Gives (putBytes v op.y (f32Bytes ((a.map fun x => b.map fun z => dot ra rb op.group x z).flatten.map (·.1))))
      (d2.flagResults v.c v.core v.learning ((a.map fun x => b.map fun z => dot ra rb op.group x z).flatten.flatMap (·.2))) () d3) :
    Gives (matrixM op v) d () d3 :=
  left.bind (right.bind ((checkDot_gives d2 size alongA alongB).bind store))

/-- Both conversions read their source, check the destination's record, round, and write in their own way. -/
theorem outputM_gives {op : ConvOp} {xs : List (List W32)} {rds : List (List Round)} {r : TRec}
    (named : r = TRec.ofWords op.dst.recLo.toNat op.dst.recHi.toNat) (source : Gives (fetchF32 v op.src op.rows op.cols) d xs d1)
    (legal : Gives (checkRec r false true) d1 () d1)
    (round : Gives (rounds v r 1 op.tensor op.row0 op.col0 op.rows op.cols) d1 rds d2)
    (store : Gives (writeOut v r op.dst.addr rds xs op.cols) d2 () d3) : Gives (outputM op v) d () d3 := by
  subst named
  exact source.bind (legal.bind (round.bind store))

theorem conversionM_gives {op : ConvOp} {xs : List (List W32)} {rds : List (List Round)} {r : TRec}
    (named : r = TRec.ofWords op.dst.recLo.toNat op.dst.recHi.toNat) (source : Gives (fetchF32 v op.src op.rows op.cols) d xs d1)
    (legal : Gives (checkRec r false true) d1 () d1)
    (round : Gives (rounds v r 0 op.tensor op.row0 op.col0 op.rows op.cols) d1 rds d2)
    (store : Gives (writeConv v r op.dst.addr true rds xs op.cols) d2 () d3) : Gives (conversionM op v) d () d3 := by
  subst named
  exact source.bind (legal.bind (round.bind store))

theorem scaleM_gives {op : ScaleOp} {xs : List (List W32)} {vals : List (List Ext)} {r : TRec} {ts : W32}
    (named : r = TRec.ofWords op.dst.recLo.toNat op.dst.recHi.toNat) (source : Gives (fetchF32 v op.src op.rows op.cols) d xs d1)
    (legal : Gives (checkRec r false false) d1 () d1) (values : vals = xs.map fun row => row.map f32)
    (scale : ts = if isFb r.fmt || isScaledPlain r.fmt then tensorScale r.fmt (amaxOf (f32 op.amaxIn :: vals.flatten)) else one32)
    (tensor : Gives (if isFb r.fmt || isScaledPlain r.fmt then putF32 v op.tsOut [[ts]] else pure ()) d1 () d2)
    (blocks : Gives (if blockSize r.fmt ≠ 0 then putBytes v (BitVec.ofNat 64 r.scaleRef)
      ((r.lines (Ext.zero false) op.cols vals).flatMap fun l =>
        (chunksOf (blockSize r.fmt) l).map fun b => BitVec.ofNat 8 (blockScale r.fmt ts (amaxOf b))) else pure ()) d2 () d3) :
    Gives (scaleM op v) d () d3 := by
  subst named values scale
  exact source.bind (legal.bind (tensor.bindIf blocks))

theorem vectorDrawM_gives {op : DrawOp} {us : List W32} (known : 2 ^ 40 ≤ op.tensor.toNat)
    (draws : d.drawRect v.core 0 (v.seed d) op.tensor op.row0 op.col0 op.rows op.cols = (us, d1))
    (store : Gives (putBytes v op.dst (f32Bytes us)) d1 () d2) : Gives (vectorDrawM op v) d () d2 := by
  unfold vectorDrawM
  simp only [Nat.not_lt.2 known, if_false]
  refine Eq.trans ?_ store
  rw [get_bind, draws]
  rfl

end

/-! ### The commands -/

/-- A malformed matrix instruction faults its context, whatever units its clause has (R57; log entry 71). -/
theorem Dev.matrixInstruction_malformed {d : Dev} {core seq c : Nat} {y : Clause} {op : MatOp} (rsp : TierRsp) (runs : d.Runs core seq c y)
    (bad : op.malformed = true) : d.matrixInstruction core seq op rsp = d.faultCtx c Status.integrity core seq 0 := by
  rw [Dev.matrixInstruction, if_pos bad, Dev.withClause_runs runs]

/-- Settles O13: each instruction is its parts in sequence, each of which gives its value. -/
theorem numberInstructionsComplete : Obligations.NumberInstructionsComplete := by
  refine ⟨fun s core seq c y op rsp ra rb a b d1 d2 d3 ready good left right size alongA alongB store => ?_,
    fun s core seq c y op rsp runs bad => ?_,
    fun s core seq c y op rsp xs rds d1 d2 d3 ready coords source legal round store => ?_,
    fun s core seq c y op rsp xs rds d1 d2 d3 ready coords source legal round store => ?_,
    fun s core seq c y op rsp xs vals r ts d1 d2 d3 ready source named legal values scale tensor blocks => ?_,
    fun s core seq c y op us d1 d2 ready coords known draws store => ?_⟩
  · have run := Dev.instr_gives _ rsp (matrixM op) ready (matrixM_gives left right size alongA alongB store)
    exact run_withDev (by simp [Instr.wf, ready.wf]) ((if_neg (ne_true_of_eq_false good)).trans run)
  · exact run_withDev (by simp [Instr.wf, runs.wf]) (Dev.matrixInstruction_malformed rsp runs bad)
  · exact run_withDev (by simp [Instr.wf, ready.wf, coords])
      (Dev.instr_gives _ rsp (outputM op) ready (outputM_gives rfl source legal round store))
  · exact run_withDev (by simp [Instr.wf, ready.wf, coords])
      (Dev.instr_gives _ rsp (conversionM op) ready (conversionM_gives rfl source legal round store))
  · exact run_withDev (by simp [Instr.wf, ready.wf])
      (Dev.instr_gives _ rsp (scaleM op) ready (scaleM_gives named source legal values scale tensor blocks))
  · exact run_withDev (by simp [Instr.wf, ready.wf, coords])
      (Dev.instr_gives _ [] (vectorDrawM op) ready (vectorDrawM_gives known draws store))

end Sys2Proof.Machine
end

section
/-! PROOFS. What a matrix instruction and a draw leave unchanged (chapters 3 and 10): O60. -/

namespace Sys2Proof.Machine

/-! ### Results into local store -/

/-- A device after an instruction of core `core` whose results go to bytes `[off, off + n)` of core `k`'s local store: no other byte of a
store, no other core, and of the rest only registers, free values, bank accesses, contexts, retired frames and the latches of sets. -/
structure Dev.StoresAt (core k off n : Nat) (d e : Dev) : Prop where
  rest : ∃ rs fi bk cs xs ss rt, e = { d with
    regs := rs, freeIdx := fi, banks := bk, cores := cs, ctxs := xs, sets := ss, mem := { d.mem with retired := rt } }
  latches : ∀ w, { e.wset w with readers0 := [], readers1 := [] } = { d.wset w with readers0 := [], readers1 := [] }
  others : ∀ k', k' ≠ k → (e.core k').store = (d.core k').store ∧ (k' ≠ core → e.core k' = d.core k')
  outside : ∀ x, (x < off ∨ off + n ≤ x) → (e.core k).store.read x = (d.core k).store.read x

namespace Dev.StoresAt
variable {core k off n : Nat} {d d1 e : Dev}

theorem refl (d : Dev) : d.StoresAt core k off n d :=
  ⟨⟨_, _, _, _, _, _, _, rfl⟩, fun _ => rfl, fun _ _ => ⟨rfl, fun _ => rfl⟩, fun _ _ => rfl⟩

theorem trans (h : d.StoresAt core k off n d1) (h' : d1.StoresAt core k off n e) : d.StoresAt core k off n e := by
  obtain ⟨⟨rs, fi, bk, cs, xs, ss, rt, rfl⟩, latches, others, outside⟩ := h
  obtain ⟨⟨rs', fi', bk', cs', xs', ss', rt', rfl⟩, latches', others', outside'⟩ := h'
  exact ⟨⟨_, _, _, _, _, _, _, rfl⟩, fun w => (latches' w).trans (latches w),
    fun k' hk => ⟨(others' k' hk).1.trans (others k' hk).1, fun hc => ((others' k' hk).2 hc).trans ((others k' hk).2 hc)⟩,
    fun x hx => (outside' x hx).trans (outside x hx)⟩

/-- Registers and bank accesses are not of the store. -/
theorem regs_banks (h : d.StoresAt core k off n e) (rs : RegFile) (bk : List (Nat × Nat)) :
    d.StoresAt core k off n { e with regs := rs, banks := bk } :=
  h.trans ⟨⟨_, _, _, _, _, _, _, rfl⟩, fun _ => rfl, fun _ _ => ⟨rfl, fun _ => rfl⟩, fun _ _ => rfl⟩

theorem put (h : d.StoresAt core k off n e) (f : Fld) (i v j : Nat) : d.StoresAt core k off n (e.put f i v j) := h.regs_banks _ _

theorem reads (h : d.StoresAt core k off n d1) (r : d1.ReadsTo e) : d.StoresAt core k off n e := by
  obtain ⟨⟨rs, fi, xs, ss, rt, rfl⟩, latches, -⟩ := r
  exact h.trans ⟨⟨_, _, _, _, _, _, _, rfl⟩, latches, fun _ _ => ⟨rfl, fun _ => rfl⟩, fun _ _ => rfl⟩

/-- The core of the instruction changes in other parts than its store. -/
theorem modCore (h : d.StoresAt core k off n e) {f : Core → Core} (keeps : ∀ x, (f x).store = x.store) :
    d.StoresAt core k off n (e.modCore core f) := by
  have stores (k' : Nat) : ((e.modCore core f).core k').store = (e.core k').store := by
    by_cases at_ : k' = core
    · subst at_
      rw [Dev.modCore_core, keeps]
    · rw [Dev.modCore_core_ne _ _ _ _ at_]
  exact h.trans ⟨⟨_, _, _, _, _, _, _, rfl⟩, fun _ => rfl,
    fun k' _ => ⟨stores k', fun away => Dev.modCore_core_ne _ _ _ _ away⟩, fun x _ => by rw [stores]⟩

/-- The results are written. -/
theorem lsWrite (h : d.StoresAt core k off n e) {bs : List Byte} (fits : bs.length = n) : d.StoresAt core k off n (e.lsWrite k off bs) := by
  have away {k' : Nat} (hk : k' ≠ k) : (e.lsWrite k off bs).core k' = e.core k' := Dev.modCore_core_ne _ _ _ _ hk
  refine h.trans ⟨⟨_, _, _, _, _, _, _, rfl⟩, fun _ => rfl, fun k' hk => ⟨by rw [away hk], fun _ => away hk⟩, fun x hx => ?_⟩
  rw [Dev.lsWrite, Dev.modCore_core]
  exact Memory.read_writeN_outside _ _ _ _ (fits ▸ hx)

end Dev.StoresAt

/-! ### Arithmetic (R83, R223) -/

section
variable {core k off n : Nat} {d e : Dev}

theorem Dev.StoresAt.flagResults (h : d.StoresAt core k off n e) (c : Nat) (learning : Bool) (ws : List W32) :
    d.StoresAt core k off n (e.flagResults c core learning ws) := by
  unfold Dev.flagResults Dev.raiseOvf
  split
  · split
    · exact (h.modCore (f := fun x => { x with ovf := true }) fun _ => rfl).put _ _ _ _
    · exact h
  · exact h

theorem Dev.StoresAt.draw (h : d.StoresAt core k off n e) (port : Nat) (seed tensor : Word) (a b : Nat) :
    d.StoresAt core k off n (e.draw core port seed tensor a b).2 := by
  have drawn (p : GenPort) := h.modCore (f := fun x => { x with ports := SMap.set x.ports port p }) fun _ => rfl
  unfold Dev.draw
  dsimp only
  split <;> split
  · exact (drawn _).put _ _ _ _
  · exact drawn _
  · exact ((drawn _).put F.rngStat_tiles _ _ _).put F.rngStat_skip_cyc _ _ _
  · exact (drawn _).put _ _ _ _

theorem Dev.StoresAt.draws (h : d.StoresAt core k off n e) (port : Nat) (seed tensor : Word) (cs : List (Nat × Nat)) :
    d.StoresAt core k off n (e.draws core port seed tensor cs).2 := by
  induction cs generalizing e with
  | nil => exact h
  | cons x cs ih => exact ih (h.draw port seed tensor x.1 x.2)

theorem Dev.StoresAt.drawRect (h : d.StoresAt core k off n e) (port : Nat) (seed tensor : Word) (row0 col0 rows cols : Nat) :
    d.StoresAt core k off n (e.drawRect core port seed tensor row0 col0 rows cols).2 := h.draws port seed tensor _

end

/-! ### How many results -/

/-- A tensor is read row by row. -/
theorem fetch_length {v : Env} {t : TRef} {rows cols : Nat} {engine : Bool} {d e : Dev} {r : TRec} {xs : List (List Elt)}
    (h : fetch v t rows cols engine d = .ok (r, xs) e) : xs.length = rows := by
  unfold fetch at h
  obtain ⟨_, _, -, h⟩ := bind_ok_inv h
  obtain ⟨_, _, -, h⟩ := bind_ok_inv h
  obtain ⟨_, _, -, h⟩ := bind_ok_inv h
  cases h
  simp

theorem f32Bytes_length (ws : List W32) : (f32Bytes ws).length = 4 * ws.length := by
  simp [f32Bytes, Nat.mul_comm]

/-- One result for each pair. -/
theorem length_flatten_map_map {α β γ : Type} (as : List α) (bs : List β) (f : α → β → γ) :
    (as.map fun a => bs.map fun b => f a b).flatten.length = as.length * bs.length := by
  simp [List.length_flatten, Function.comp_def]

/-- Each draw of a rectangle is answered. -/
theorem Dev.drawRect_length (d : Dev) (core port : Nat) (seed tensor : Word) (row0 col0 rows cols : Nat) :
    (d.drawRect core port seed tensor row0 col0 rows cols).1.length = rows * cols := by
  simp [Dev.drawRect]

/-! ### The meanings -/

section
variable {k off n : Nat} {d : Dev} {v : Env}

/-- A store to local store writes its bytes there, or faults the context. -/
theorem putBytes_keeps {w : Word} {bs : List Byte} (place : Addr.of w.toNat = .ls k off) (fits : bs.length = n) :
    Keeps (d.StoresAt v.core k off n) (putBytes v w bs) := by
  intro e he
  unfold putBytes
  rw [place]
  dsimp only
  rw [leaves_get_bind]
  split
  · exact he.lsWrite fits
  · exact he

theorem matrixM_keeps {op : MatOp} (place : Addr.of op.y.toNat = .ls k off) (size : n = 4 * (op.m * op.n)) :
    Keeps (d.StoresAt v.core k off n) (matrixM op v) := by
  unfold matrixM
  have closed : ReadClosed (d.StoresAt v.core k off n) := fun _ _ => Dev.StoresAt.reads
  refine (fetch_keeps closed _ _ _ _ _).bind_ok fun (ra, a) _ _ left => ?_
  refine (fetch_keeps closed _ _ _ _ _).bind_ok fun (rb, b) _ _ right => ?_
  refine (checkDot_keeps _ _ _).bind fun _ => ?_
  refine (Keeps.update fun e he => he.flagResults _ _ _).bind fun _ => putBytes_keeps place ?_
  rw [f32Bytes_length, List.length_map, length_flatten_map_map, fetch_length left, fetch_length right, size]

theorem vectorDrawM_keeps {op : DrawOp} (place : Addr.of op.dst.toNat = .ls k off) (size : n = 4 * (op.rows * op.cols)) :
    Keeps (d.StoresAt v.core k off n) (vectorDrawM op v) := by
  intro e he
  unfold vectorDrawM
  dsimp only
  split
  · exact he
  · rw [leaves_get_bind, leaves_set_bind]
    exact putBytes_keeps place (by rw [f32Bytes_length, Dev.drawRect_length, size]) _ (he.drawRect _ _ _ _ _ _ _)

end

/-! ### The commands -/

/-- A fault halts sequencers and records itself: registers alone. -/
theorem Dev.faultCtx_regs (d : Dev) (c status core seq va : Nat) : ∃ rs, d.faultCtx c status core seq va = { d with regs := rs } := by
  have halt (d : Dev) (k : Nat) : ∃ rs, d.haltCore k = { d with regs := rs } := ⟨_, rfl⟩
  unfold Dev.faultCtx
  dsimp only
  split
  · refine Dev.each_induct (fun e => ∃ rs, e = { d with regs := rs }) _ _ _ ⟨_, rfl⟩ ?_
    rintro k - e ⟨rs, rfl⟩
    exact halt _ k
  · exact ⟨_, rfl⟩

section
variable {core k off n seq : Nat} {d e : Dev}

theorem Dev.StoresAt.faultCtx (h : d.StoresAt core k off n e) (c status core' seq va : Nat) :
    d.StoresAt core k off n (e.faultCtx c status core' seq va) := by
  obtain ⟨rs, eq⟩ := e.faultCtx_regs c status core' seq va
  exact eq ▸ h.regs_banks rs e.banks

theorem Dev.StoresAt.issuesOn (h : d.StoresAt core k off n e) (core' seq : Nat) (units : List Nat) (spans : List (Word × Nat)) :
    d.StoresAt core k off n (e.issuesOn core' seq units spans) := by
  obtain ⟨rs, bk, eq⟩ := e.issuesOn_frame core' seq units spans
  exact eq ▸ h.regs_banks rs bk

theorem Dev.StoresAt.stalls (h : d.StoresAt core k off n e) (core' seq cause : Nat) :
    d.StoresAt core k off n (e.stalls core' seq cause) :=
  ((h.put _ _ _ _).put _ _ _ _).put F.coreStallCtr_count _ _ _

/-- An instruction runs its meaning on the clause of its sequencer, or stalls, or does nothing. -/
theorem Dev.withClause_storesAt {f : Nat → Clause → Dev → Dev} (meaning : ∀ c y, d.StoresAt core k off n (f c y d)) :
    d.StoresAt core k off n (d.withClause core seq f) := by
  unfold Dev.withClause
  split
  · split
    · exact (StoresAt.refl d).stalls _ _ _
    · exact meaning _ _
  · exact .refl d

theorem Dev.instr_storesAt {units : List Nat} {spans : List (Word × Nat)} {rsp : TierRsp} {m : Env → ClauseM Unit}
    (meaning : ∀ c y, Keeps (d.StoresAt core k off n) (m ⟨c, core, seq, y, rsp⟩)) :
    d.StoresAt core k off n (d.instr core seq units spans rsp m) := by
  refine Dev.withClause_storesAt fun c y => ?_
  have ran := meaning c y _ ((Dev.StoresAt.refl d).issuesOn core seq units spans)
  unfold leaves at ran
  split
  · exact (StoresAt.refl d).stalls _ _ _
  · split at ran
    next eq =>
      rw [eq]
      exact ran
    next eq =>
      rw [eq]
      exact ran.faultCtx _ _ _ _ _

theorem Dev.matrixInstruction_storesAt {op : MatOp} {rsp : TierRsp} (place : Addr.of op.y.toNat = .ls k off) (size : n = 4 * (op.m * op.n)) :
    d.StoresAt core k off n (d.matrixInstruction core seq op rsp) := by
  unfold Dev.matrixInstruction
  split
  · exact Dev.withClause_storesAt fun _ _ => (StoresAt.refl d).faultCtx _ _ _ _ _
  · exact Dev.instr_storesAt fun c y => matrixM_keeps (v := ⟨c, core, seq, y, rsp⟩) place size

theorem Dev.vectorDraw_storesAt {op : DrawOp} (place : Addr.of op.dst.toNat = .ls k off) (size : n = 4 * (op.rows * op.cols)) :
    d.StoresAt core k off n (d.vectorDraw core seq op) :=
  Dev.instr_storesAt fun c y => vectorDrawM_keeps (v := ⟨c, core, seq, y, []⟩) place size

end

/-- Settles O60: both instructions read operands, compute on their core, and store their results. -/
theorem numberInstructionFrames : Obligations.NumberInstructionFrames := by
  intro s t i core seq k off n which run
  obtain ⟨flash, stores⟩ : t.flash = s.flash ∧ s.dev.StoresAt core k off n t.dev := by
    rcases which with ⟨op, rsp, rfl, place, size⟩ | ⟨op, rfl, place, size⟩
    · obtain ⟨-, rfl⟩ := run_next run
      exact ⟨rfl, Dev.matrixInstruction_storesAt place size⟩
    · obtain ⟨-, rfl⟩ := run_next run
      exact ⟨rfl, Dev.vectorDraw_storesAt place size⟩
  obtain ⟨⟨rs, fi, bk, cs, xs, ss, rt, rest⟩, latches, others, outside⟩ := stores
  refine ⟨flash, ?_, ?_, ?_, ?_, ?_, ?_, latches, ?_, ?_, ?_, ?_, ?_, ?_, ?_, ?_, others, outside⟩ <;> rw [rest]

end Sys2Proof.Machine
end

section
/-! PROOFS. What a learning full stop decides (chapters 3 and 7): O49. -/

namespace Sys2Proof.Machine

/-! ### What a full stop leaves unchanged -/

/-- The registers, beside those of the step and its loss scale, that a full stop changes: those of its cores, of core counts, of memory,
of a checkpoint, the seed and the overflow flag. -/
def stopRegs : List Reg := [.tierUse, .tierCap, .tierStat, .tierCtxErr, .kvPool, .kvStat, .dmaChCtl, .dmaPtStat, .coreSeqStat,
  .coreHqStat, .coreState, .ctxState, .ctxCores, .tenStat, .genPoolStat, .ctxNumStat, .ckptStat, .ckptStep, .rngSeedLive]

theorem memRegs_subset_stopRegs : memRegs ⊆ stopRegs := by decide

section
variable (d : Dev) (c : Nat)

theorem Dev.clearSums_keeps : d.KeepsRegs stopRegs (d.clearSums c) :=
  (KeepsRegs.refl stopRegs d).each _ fun _ d => .ite (.refl _ d) (.refl _ d)

theorem Dev.discardHandles_keeps (ks : List Nat) : d.KeepsRegs stopRegs (d.discardHandles ks) :=
  (KeepsRegs.refl stopRegs d).each _ fun _ d => ((KeepsRegs.refl stopRegs d).each _ fun _ d =>
    ((KeepsRegs.refl stopRegs d).put (f := F.coreHqStat_dropped) (by decide) _ _ _).put (by decide) _ _ _).modCore _ _

theorem Dev.clearHalts_keeps (ks : List Nat) : d.KeepsRegs stopRegs (d.clearHalts ks) :=
  (KeepsRegs.refl stopRegs d).each _ fun _ d => (KeepsRegs.refl stopRegs d).each _ fun _ d =>
    .ite ((KeepsRegs.refl stopRegs d).put (by decide) _ _ _) ((KeepsRegs.refl stopRegs d).put (by decide) _ _ _)

theorem Dev.endStepWait_keeps (ks : List Nat) : d.KeepsRegs stopRegs (d.endStepWait ks) :=
  (KeepsRegs.refl stopRegs d).each _ fun _ d => (KeepsRegs.refl stopRegs d).each _ fun _ d =>
    .ite ((KeepsRegs.refl stopRegs d).put (by decide) _ _ _) (.refl _ d)

theorem Dev.issueHeld_keeps (ks : List Nat) : d.KeepsRegs stopRegs (d.issueHeld ks) :=
  (KeepsRegs.refl stopRegs d).each _ fun _ d => .ite ((KeepsRegs.refl stopRegs d).modCore _ _) (.refl _ d)

/-! ### Cores that leave service (R96, R332, R400) -/

theorem Dev.countTenant_keeps (t : Nat) : d.KeepsRegs stopRegs (d.countTenant t) :=
  (((KeepsRegs.refl stopRegs d).put (by decide) _ _ _).put (by decide) _ _ _).put (by decide) _ _ _

theorem Dev.countCores_keeps : d.KeepsRegs stopRegs (d.countCores c) :=
  ((((KeepsRegs.refl stopRegs d).put (by decide) _ _ _).put (by decide) _ _ _).each _ fun _ d =>
    (KeepsRegs.refl stopRegs d).put (by decide) _ _ _).trans (Dev.countTenant_keeps _ _)

theorem Dev.nameStopping_keeps : d.KeepsRegs stopRegs d.nameStopping :=
  (KeepsRegs.refl stopRegs d).each _ fun _ d => .ite (.refl _ d) ((KeepsRegs.refl stopRegs d).modCtx _ _)

theorem Dev.leavePools_keeps (k : Nat) : d.KeepsRegs stopRegs (d.leavePools c k) :=
  (KeepsRegs.refl stopRegs d).each _ fun _ d =>
    (((KeepsRegs.refl stopRegs d).modCtx _ _).put (by decide) _ _ _).put (by decide) _ _ _

theorem Dev.removeCore_keeps (k : Nat) : d.KeepsRegs stopRegs (d.removeCore k) := by
  unfold Dev.removeCore
  dsimp only
  refine .ite (KeepsRegs.trans (.trans ?_ (Dev.countCores_keeps _ _)) (Dev.nameStopping_keeps _))
    (((KeepsRegs.refl _ d).setReg (by decide) _ _ _).trans (Dev.nameStopping_keeps _))
  have left := (d.leavePools_keeps (d.get F.coreState_ctx k) k).setReg (r := .coreState) (by decide) k CoreSt.removed 0
  exact .ite (left.put (f := F.ctxState_gen_tgt) (by decide) _ _ _) (left.put (f := F.ctxState_lrn_tgt) (by decide) _ _ _)

theorem Dev.removeSlow_keeps (ks : List Nat) : d.KeepsRegs stopRegs (d.removeSlow c ks) := by
  unfold Dev.removeSlow
  dsimp only
  split
  · exact .refl _ d
  · split
    · exact Dev.removeCore_keeps (d.setCtx c _) _
    · exact .refl _ d

/-! ### A checkpoint that begins, and one that ends (R313, R315) -/

theorem planSlot_keeps (va len want job : Nat) (rsp : TierRsp) : Keeps (d.KeepsRegs memRegs) (planSlot c va len want job rsp) :=
  (unitRead_keeps _ _ _ _).bind fun _ => (unitRead_keeps _ _ _ _).bind fun _ => (unitWrite_keeps _ _ _ _).bind fun _ => .pure _

theorem Dev.planKnown_keeps (slot : Nat) : d.KeepsRegs stopRegs (d.planKnown c slot) := by
  unfold Dev.planKnown
  split
  · exact (((KeepsRegs.refl stopRegs d).modCtx _ _).put (by decide) _ _ _).put (by decide) _ _ _
  · exact .refl _ d

theorem Dev.KeepsRegs.jobGroup {S : List Reg} {d e : Dev} (h : d.KeepsRegs S e) (job : Reg.ckptJob ∉ S) (c : Nat) :
    e.jobGroup c = d.jobGroup c := by
  unfold Dev.jobGroup
  rw [h.get job]

/-- The checkpoint of a job of one device has no operations: it reads and clears its slot, and its plan is known. -/
theorem Dev.beginSave_keeps (k : Ckpt) (rsp : TierRsp) (alone : d.jobGroup c = none) : d.KeepsRegs stopRegs (d.beginSave c k rsp) := by
  have noted {e : Dev} (kept : d.KeepsRegs stopRegs e) (f : Ctx → Ctx) :
      d.KeepsRegs stopRegs ((e.modCtx c f).put F.ckptStat_phase c 2) := (kept.modCtx c f).put (by decide) _ _ _
  have planned := (planSlot_keeps d c k.va k.len (fieldAt k.bytes 17 1) (d.reg .ckptJobId c) rsp d (.refl _ d)).mono
    memRegs_subset_stopRegs
  unfold Dev.beginSave
  dsimp only
  by_cases other : d.jobRank c ≠ 0
  · rw [if_pos other, (noted (.refl _ d) _).jobGroup (by decide), alone]
    exact (noted (.refl _ d) _).trans (Dev.planKnown_keeps _ _ _)
  · rw [if_neg other]
    unfold EStateM.run
    unfold leaves at planned
    split at planned
    all_goals
      next ran =>
        rw [ran]
        dsimp only
        rw [(noted planned _).jobGroup (by decide), alone]
        exact (noted planned _).trans (Dev.planKnown_keeps _ _ _)

theorem Dev.complete_keeps (S : List Reg) (w : Waiter) (status result : Nat) : d.KeepsRegs S (d.complete w status result) := .refl S d

theorem Dev.releaseHold_keeps : d.KeepsRegs stopRegs (d.releaseHold c) :=
  .ite (.refl _ d) (((KeepsRegs.refl stopRegs d).modCtx _ _).trans (Dev.removeSlow_keeps _ _ _))

theorem Dev.endSave_keeps (k : Ckpt) (status : Nat) : d.KeepsRegs stopRegs (d.endSave c k status) := by
  have released := ((KeepsRegs.refl stopRegs d).modCtx c fun x => { x with ckpt := none }).trans (Dev.releaseHold_keeps _ c)
  unfold Dev.endSave
  generalize (d.modCtx c fun x => { x with ckpt := none }).releaseHold c = e at released ⊢
  dsimp only
  have dropped : d.KeepsRegs stopRegs (if e.get F.ckptJob_grp c < 64 && 2 ≤ e.get F.ckptStat_phase c then
      e.dropReserved (e.get F.ckptJob_grp c) k.base else e) := .ite released released
  generalize (if e.get F.ckptJob_grp c < 64 && 2 ≤ e.get F.ckptStat_phase c then
      e.dropReserved (e.get F.ckptJob_grp c) k.base else e) = e at dropped ⊢
  have ended := (dropped.put (f := F.ckptStat_phase) (by decide) c 0 0).put (f := F.ckptStat_last) (by decide) c status 0
  refine KeepsRegs.trans (.ite (.setReg (.put (f := F.ckptStat_commits) ended ?_ _ _ _) ?_ _ _ _) ended) (Dev.complete_keeps _ _ _ _ _)
  all_goals decide

end

/-! ### The next step (R167, R168) -/

/-- A field shares no bit with another one. -/
abbrev Fld.Apart (f g : Fld) : Prop := f.reg ≠ g.reg ∨ g.lo + g.w ≤ 64 ∧ (f.lo + f.w ≤ g.lo ∨ g.lo + g.w ≤ f.lo)

/-- A field is as before where one that shares no bit with it is set. -/
theorem Dev.get_put_apart (d : Dev) {f g : Fld} (i v j i' j' : Nat) (h : f.Apart g) : (d.put g i v j).get f i' j' = d.get f i' j' := by
  by_cases place : f.reg = g.reg ∧ i' = i ∧ j' = j
  · obtain ⟨same, rfl, rfl⟩ := place
    obtain other | ⟨fits, apart⟩ := h
    · exact absurd same other
    · exact Dev.get_put_beside _ _ _ _ _ _ same fits apart
  · exact Dev.get_put_ne _ _ place

/-- How the step ends, met or aborted, once it is decided: STEP advances, the next step's values are latched, the full stop completes. -/
def Dev.advanceStep (d : Dev) (c : Nat) (met : Bool) : Dev := ((d.setReg .lrnStep c (d.stepNow c + 1)).latchStep c).endStop c met

section
variable (d : Dev) (c : Nat)

theorem Dev.latchStep_keeps : d.KeepsRegs stopRegs (d.latchStep c) :=
  ((KeepsRegs.refl stopRegs d).modCtx c _).setReg (by decide) _ _ _

/-- The full stop of a context's cores completes: PHASE moves on, and no other field of the step changes. -/
theorem Dev.endStop_phase (met : Bool) : ∃ e phase, d.KeepsRegs stopRegs e ∧
    (e.put F.lrnStepStat_phase c phase).KeepsRegs stopRegs (d.endStop c met) := by
  have freed := (d.clearHalts_keeps (d.lrnCores c)).trans (Dev.endStepWait_keeps _ (d.lrnCores c))
  have cleared := (freed.each (d.lrnCores c) fun k d => (KeepsRegs.refl stopRegs d).modCore k fun x =>
    { x with ovf := false, doneSeqs := [] }).put (f := F.ctxNumStat_ovf) (by decide) c 0 0
  exact ⟨_, _, cleared.trans (Dev.issueHeld_keeps _ (d.lrnCores c)), .ite (.refl _ _) (Dev.removeSlow_keeps _ _ _)⟩

theorem Dev.endStop_keeps (met : Bool) : d.KeepsRegs (.lrnStepStat :: stopRegs) (d.endStop c met) := by
  obtain ⟨e, phase, before, after⟩ := d.endStop_phase c met
  exact ((before.mono (List.subset_cons_self _ _)).put (by decide) _ _ _).trans (after.mono (List.subset_cons_self _ _))

theorem Dev.endStop_pend (met : Bool) : (d.endStop c met).get F.lrnStepStat_pend c = d.get F.lrnStepStat_pend c := by
  obtain ⟨e, phase, before, after⟩ := d.endStop_phase c met
  rw [after.get (by decide), Dev.get_put_apart _ _ _ _ _ _ (by decide), before.get (by decide)]

theorem Dev.advanceStep_keeps (met : Bool) : d.KeepsRegs (.lrnStep :: .lrnStepStat :: stopRegs) (d.advanceStep c met) :=
  (((KeepsRegs.refl _ d).setReg (by decide) _ _ _).trans ((Dev.latchStep_keeps _ _).mono (by decide))).trans
    ((Dev.endStop_keeps _ _ _).mono (List.subset_cons_self _ _))

theorem Dev.advanceStep_pend (met : Bool) : (d.advanceStep c met).get F.lrnStepStat_pend c = d.get F.lrnStepStat_pend c := by
  rw [Dev.advanceStep, Dev.endStop_pend, (Dev.latchStep_keeps _ _).get (by decide), Dev.get_setReg_ne _ _ _ _ _ _ (by decide)]

theorem Dev.advanceStep_step (met : Bool) : (d.advanceStep c met).reg .lrnStep c = (d.reg .lrnStep c + 1) % 2 ^ 64 := by
  rw [Dev.advanceStep, Dev.endStop_keeps _ _ _ _ (by decide), Dev.latchStep_keeps _ _ _ (by decide), Dev.reg_setReg_self, Dev.stepNow]

end

/-! ### The decision (R167) -/

section
variable (d : Dev) (c : Nat) (flag : Bool) (s : W32)

theorem Dev.stepDecision_keeps : d.KeepsRegs [.lrnStepStat, .lrnClipStat] (d.stepDecision c flag s) := by
  have noted {e : Dev} (h : d.KeepsRegs [.lrnStepStat, .lrnClipStat] e) (norm factor pend last : Nat) :=
    (((h.put (f := F.lrnClipStat_norm) (by decide) c norm 0).put (f := F.lrnClipStat_factor) (by decide) c factor 0).put
      (f := F.lrnStepStat_pend) (by decide) c pend 0).put (f := F.lrnStepStat_clipped_last) (by decide) c last 0
  have sum : d.KeepsRegs [.lrnStepStat, .lrnClipStat] (if fbad s then d.put F.lrnStepStat_s_ovf c 1 else d) :=
    .ite ((KeepsRegs.refl _ d).put (by decide) _ _ _) (.refl _ d)
  exact .ite ((noted sum _ _ _ _).put (f := F.lrnStepStat_clipped) (by decide) _ _ _) (noted sum _ _ _ _)

theorem Dev.stepDecision_pend : (d.stepDecision c flag s).get F.lrnStepStat_pend c = if flag then 2 else 1 := by
  have fits : (if flag then 2 else 1) % 2 ^ F.lrnStepStat_pend.w = if flag then 2 else 1 := by cases flag <;> rfl
  unfold Dev.stepDecision
  dsimp only
  split <;> simp (disch := decide) only [Dev.incSat_eq, Dev.get_put_apart, Dev.get_put_self, fits]

theorem Dev.stepDecision_norm : (d.stepDecision c flag s).get F.lrnClipStat_norm c = (normOf s (d.ctx c).latLsExp).toNat := by
  unfold Dev.stepDecision
  dsimp only
  split <;> simp (disch := decide) only [Dev.incSat_eq, Dev.get_put_apart, Dev.get_put_self] <;> exact Nat.mod_eq_of_lt (BitVec.isLt _)

theorem Dev.stepDecision_factor : (d.stepDecision c flag s).get F.lrnClipStat_factor c =
    (if flag then 0 else d.stepFactor c (normOf s (d.ctx c).latLsExp) (d.ctx c).latLsExp : W32).toNat := by
  unfold Dev.stepDecision
  dsimp only
  split <;> simp (disch := decide) only [Dev.incSat_eq, Dev.get_put_apart, Dev.get_put_self] <;> exact Nat.mod_eq_of_lt (BitVec.isLt _)

end

/-! ### The loss scale (Table 3.9) -/

/-- The loss scale of a context: LS_EXP and CLEAN. -/
def Dev.setScale (d : Dev) (c e clean : Nat) : Dev := (d.put F.ctxLsStat_ls_exp c e).put F.ctxLsStat_clean c clean

section
variable (d : Dev) (c : Nat)

theorem Dev.setScale_exp {e : Nat} (clean : Nat) (fits : e ≤ 40) : (d.setScale c e clean).get F.ctxLsStat_ls_exp c = e := by
  rw [Dev.setScale, Dev.get_put_apart _ _ _ _ _ _ (by decide), Dev.get_put_self _ _ _ _ _ (by decide)]
  exact Nat.mod_eq_of_lt (Nat.lt_of_le_of_lt fits (by decide))

theorem Dev.setScale_clean (e : Nat) {clean : Nat} (fits : clean < 2 ^ 16) : (d.setScale c e clean).get F.ctxLsStat_clean c = clean := by
  rw [Dev.setScale, Dev.get_put_self _ _ _ _ _ (by decide)]
  exact Nat.mod_eq_of_lt fits

theorem Dev.setScale_keeps (e clean : Nat) : d.KeepsRegs [.ctxLsStat] (d.setScale c e clean) :=
  ((KeepsRegs.refl _ d).put (by decide) _ _ _).put (by decide) _ _ _

theorem Dev.lossScale_keeps (flag : Bool) : d.KeepsRegs [.ctxLsStat] (d.lossScale c flag) :=
  .ite (d.setScale_keeps _ _ _) (.ite (d.setScale_keeps _ _ _) (.ite (d.setScale_keeps _ _ _) (d.setScale_keeps _ _ _)))

theorem Dev.lsRange_le : (d.lsRange c).1 ≤ 40 ∧ (d.lsRange c).2 ≤ 40 := by
  simp only [Dev.lsRange]
  omega

theorem Dev.lsInit_le : d.lsInit c ≤ 40 := by
  have := d.lsRange_le c
  simp only [Dev.lsInit, Dev.lsClamp]
  omega

/-- With ENABLE 0 the scale stands at LS_INIT. -/
theorem Dev.lossScale_fixed (flag : Bool) (off : d.flag F.ctxLsCfg_enable c = false) : d.lossScale c flag = d.setScale c (d.lsInit c) 0 := by
  simp only [Dev.lossScale, off]
  rfl

section
variable {d : Dev} {c : Nat} (on : d.flag F.ctxLsCfg_enable c = true) (low : (d.lsRange c).1 ≤ d.get F.ctxLsStat_ls_exp c)
  (high : d.get F.ctxLsStat_ls_exp c ≤ (d.lsRange c).2)
include low high

theorem Dev.lsClamp_self : d.lsClamp c (d.get F.ctxLsStat_ls_exp c) = d.get F.ctxLsStat_ls_exp c := by
  rw [Dev.lsClamp, Nat.min_eq_right high, Nat.max_eq_right low]

include on

/-- A flagged step lowers the exponent. -/
theorem Dev.lossScale_flagged : d.lossScale c true = d.setScale c (max (d.lsRange c).1 (d.get F.ctxLsStat_ls_exp c - 1)) 0 := by
  simp only [Dev.lossScale, on, Dev.lsClamp_self low high]
  rfl

/-- A clean step inside the window counts. -/
theorem Dev.lossScale_counts (inside : d.get F.ctxLsStat_clean c + 1 < max 1 (d.get F.ctxLsCfg_window c)) :
    d.lossScale c false = d.setScale c (d.get F.ctxLsStat_ls_exp c) (d.get F.ctxLsStat_clean c + 1) := by
  simp only [Dev.lossScale, on, Dev.lsClamp_self low high, inside]
  rfl

/-- The last clean step of the window raises the exponent. -/
theorem Dev.lossScale_raises (last : max 1 (d.get F.ctxLsCfg_window c) ≤ d.get F.ctxLsStat_clean c + 1) :
    d.lossScale c false = d.setScale c (min (d.lsRange c).2 (d.get F.ctxLsStat_ls_exp c + 1)) 0 := by
  simp only [Dev.lossScale, on, Dev.lsClamp_self low high, Nat.not_lt.2 last]
  rfl

end

end

/-! ### A barrier that is met, and one that aborts -/

/-- The flag of a step, where it is set, is seen and counted. -/
def Dev.noteOvf (d : Dev) (c : Nat) (flag : Bool) : Dev :=
  if flag then (d.put F.ctxNumStat_ovf_seen c 1).incSat F.ctxLsStat_ovf_steps c else d

/-- The checkpoint that is armed for the step begins, or ends with the step's barrier. -/
def Dev.beginArmed (d : Dev) (c : Nat) (save : Option Ckpt) (rsp : TierRsp) : Dev :=
  match save with
  | some k => d.beginSave c k rsp
  | none => d

def Dev.endArmed (d : Dev) (c : Nat) (save : Option Ckpt) : Dev :=
  match save with
  | some k => d.endSave c k Status.collAbort
  | none => d

/-- A step that is decided: flag and sum in its registers, the loss scale moved on. -/
def Dev.decideStep (d : Dev) (c : Nat) (flag : Bool) (s : W32) : Dev := ((d.stepDecision c flag s).noteOvf c flag).lossScale c flag

theorem Dev.barrierEffect_eq (d : Dev) (c : Nat) (flag : Bool) (s : W32) (rsp : TierRsp) : d.barrierEffect c flag s rsp =
    ((d.decideStep c (flag || fbad s) s).beginArmed c (d.armedNow c) rsp).advanceStep c true := rfl

theorem Dev.abortEffect_eq (d : Dev) (c : Nat) : d.abortEffect c =
    ((d.put F.lrnStepStat_pend c 2).advanceStep c false).endArmed c (d.armedNow c) := rfl

section
variable (d : Dev) (c : Nat)

theorem Dev.noteOvf_keeps (flag : Bool) : d.KeepsRegs [.ctxNumStat, .ctxLsStat] (d.noteOvf c flag) :=
  .ite (((KeepsRegs.refl _ d).put (f := F.ctxNumStat_ovf_seen) (by decide) _ _ _).put (f := F.ctxLsStat_ovf_steps) (by decide) _ _ _)
    (.refl _ d)

theorem Dev.noteOvf_get (flag : Bool) {f : Fld} (seen : f.Apart F.ctxNumStat_ovf_seen) (counted : f.Apart F.ctxLsStat_ovf_steps) :
    (d.noteOvf c flag).get f c = d.get f c := by
  unfold Dev.noteOvf
  split
  · rw [Dev.incSat_eq, Dev.get_put_apart _ _ _ _ _ _ counted, Dev.get_put_apart _ _ _ _ _ _ seen]
  · rfl

theorem Dev.beginArmed_keeps (save : Option Ckpt) (rsp : TierRsp) (alone : d.jobGroup c = none) :
    d.KeepsRegs stopRegs (d.beginArmed c save rsp) := by
  cases save with
  | some k => exact d.beginSave_keeps c k rsp alone
  | none => exact .refl _ d

theorem Dev.endArmed_keeps (save : Option Ckpt) : d.KeepsRegs stopRegs (d.endArmed c save) := by
  cases save with
  | some k => exact d.endSave_keeps c k _
  | none => exact .refl _ d

end

/-! ### The registers of the step after its barrier -/

theorem Dev.decideStep_keeps (d : Dev) (c : Nat) (flag : Bool) (s : W32) :
    d.KeepsRegs [.lrnStepStat, .lrnClipStat, .ctxNumStat, .ctxLsStat] (d.decideStep c flag s) :=
  (((d.stepDecision_keeps c flag s).mono (by decide)).trans ((Dev.noteOvf_keeps _ c flag).mono (by decide))).trans
    ((Dev.lossScale_keeps _ c flag).mono (by decide))

/-- The flag's note and the loss scale do not touch the decision. -/
theorem Dev.decideStep_get (d : Dev) (c : Nat) (flag : Bool) (s : W32) {f : Fld} (h : f.reg ∉ [Reg.ctxNumStat, .ctxLsStat]) :
    (d.decideStep c flag s).get f c = (d.stepDecision c flag s).get f c :=
  ((Dev.noteOvf_keeps _ c flag).trans ((Dev.lossScale_keeps _ c flag).mono (by decide))).get h _ _

section
variable {d : Dev} {c : Nat} (alone : d.jobGroup c = none) (flag : Bool) (s : W32) (save : Option Ckpt) (rsp : TierRsp)
include alone

theorem Dev.armed_keeps : (d.decideStep c flag s).KeepsRegs stopRegs ((d.decideStep c flag s).beginArmed c save rsp) :=
  Dev.beginArmed_keeps _ _ _ _ (((d.decideStep_keeps c flag s).jobGroup (by decide) c).trans alone)

theorem Dev.metStep_step : (((d.decideStep c flag s).beginArmed c save rsp).advanceStep c true).reg .lrnStep c =
    (d.reg .lrnStep c + 1) % 2 ^ 64 := by
  rw [Dev.advanceStep_step, Dev.armed_keeps alone flag s save rsp _ (by decide), d.decideStep_keeps c flag s _ (by decide)]

theorem Dev.metStep_pend : (((d.decideStep c flag s).beginArmed c save rsp).advanceStep c true).get F.lrnStepStat_pend c =
    if flag then 2 else 1 := by
  rw [Dev.advanceStep_pend, (Dev.armed_keeps alone flag s save rsp).get (by decide), Dev.decideStep_get _ _ _ _ (by decide),
    Dev.stepDecision_pend]

/-- What is decided stands when the step ends. -/
theorem Dev.metStep_get {f : Fld} (h : f.reg ∉ .lrnStep :: .lrnStepStat :: stopRegs) :
    (((d.decideStep c flag s).beginArmed c save rsp).advanceStep c true).get f c = (d.decideStep c flag s).get f c :=
  (((Dev.armed_keeps alone flag s save rsp).mono (by decide)).trans (Dev.advanceStep_keeps _ c true)).get h _ _

end

/-! ### The step's inputs at its full stop -/

/-- The loss scale of a context and its configuration are the same on two devices. -/
structure Dev.SameScale (c : Nat) (d e : Dev) : Prop where
  cfg : e.reg .ctxLsCfg c = d.reg .ctxLsCfg c
  exp : e.get F.ctxLsStat_ls_exp c = d.get F.ctxLsStat_ls_exp c
  clean : e.get F.ctxLsStat_clean c = d.get F.ctxLsStat_clean c

namespace Dev.SameScale
variable {c : Nat} {d e : Dev} (h : d.SameScale c e)
include h

theorem field {f : Fld} (hf : f.reg = .ctxLsCfg) : e.get f c = d.get f c := by
  unfold Dev.get
  rw [hf, h.cfg]

theorem range : e.lsRange c = d.lsRange c := by
  simp only [Dev.lsRange, h.field (f := F.ctxLsCfg_ls_min) rfl, h.field (f := F.ctxLsCfg_ls_max) rfl]

theorem init : e.lsInit c = d.lsInit c := by
  simp only [Dev.lsInit, Dev.lsClamp, h.range, h.field (f := F.ctxLsCfg_ls_init) rfl]

theorem enable : e.flag F.ctxLsCfg_enable c = d.flag F.ctxLsCfg_enable c := by
  simp only [Dev.flag, h.field (f := F.ctxLsCfg_enable) rfl]

/-! Table 3.9 on one device, from the scale of the other. -/

theorem fixed (flag : Bool) (off : d.flag F.ctxLsCfg_enable c = false) :
    (e.lossScale c flag).get F.ctxLsStat_ls_exp c = d.lsInit c ∧ (e.lossScale c flag).get F.ctxLsStat_clean c = 0 := by
  rw [Dev.lossScale_fixed _ _ _ (h.enable.trans off), h.init]
  exact ⟨Dev.setScale_exp _ _ _ (d.lsInit_le c), Dev.setScale_clean _ _ _ (by decide)⟩

variable (on : d.flag F.ctxLsCfg_enable c = true) (low : (d.lsRange c).1 ≤ d.get F.ctxLsStat_ls_exp c)
  (high : d.get F.ctxLsStat_ls_exp c ≤ (d.lsRange c).2)
include on low high

theorem flagged : (e.lossScale c true).get F.ctxLsStat_ls_exp c = max (d.lsRange c).1 (d.get F.ctxLsStat_ls_exp c - 1) ∧
    (e.lossScale c true).get F.ctxLsStat_clean c = 0 := by
  obtain ⟨-, highest⟩ := d.lsRange_le c
  rw [Dev.lossScale_flagged (h.enable.trans on) (by rwa [h.range, h.exp]) (by rwa [h.range, h.exp]), h.range, h.exp]
  exact ⟨Dev.setScale_exp _ _ _ (by omega), Dev.setScale_clean _ _ _ (by decide)⟩

theorem counts (inside : d.get F.ctxLsStat_clean c + 1 < max 1 (d.get F.ctxLsCfg_window c)) :
    (e.lossScale c false).get F.ctxLsStat_ls_exp c = d.get F.ctxLsStat_ls_exp c ∧
      (e.lossScale c false).get F.ctxLsStat_clean c = d.get F.ctxLsStat_clean c + 1 := by
  obtain ⟨-, highest⟩ := d.lsRange_le c
  have width : d.get F.ctxLsCfg_window c < 2 ^ 16 := Dev.get_lt _ _ _ _
  rw [Dev.lossScale_counts (h.enable.trans on) (by rwa [h.range, h.exp]) (by rwa [h.range, h.exp])
    (by rwa [h.clean, h.field rfl]), h.exp, h.clean]
  exact ⟨Dev.setScale_exp _ _ _ (by omega), Dev.setScale_clean _ _ _ (by omega)⟩

theorem raises (last : max 1 (d.get F.ctxLsCfg_window c) ≤ d.get F.ctxLsStat_clean c + 1) :
    (e.lossScale c false).get F.ctxLsStat_ls_exp c = min (d.lsRange c).2 (d.get F.ctxLsStat_ls_exp c + 1) ∧
      (e.lossScale c false).get F.ctxLsStat_clean c = 0 := by
  obtain ⟨-, highest⟩ := d.lsRange_le c
  rw [Dev.lossScale_raises (h.enable.trans on) (by rwa [h.range, h.exp]) (by rwa [h.range, h.exp])
    (by rwa [h.clean, h.field rfl]), h.range, h.exp]
  exact ⟨Dev.setScale_exp _ _ _ (by omega), Dev.setScale_clean _ _ _ (by decide)⟩

end Dev.SameScale

section
variable (d : Dev) (c : Nat)

theorem Dev.atLearningStop_keeps : d.KeepsRegs (.lrnStepStat :: stopRegs) (d.atLearningStop c) :=
  ((((d.clearSums_keeps c).trans (Dev.discardHandles_keeps _ _)).mono (List.subset_cons_self _ _)).put (by decide) _ _ _).modCtx _ _

theorem Dev.atLearningStop_latLsExp : ((d.atLearningStop c).ctx c).latLsExp = (d.ctx c).latLsExp := by
  have cleared : (d.clearSums c).ctxs = d.ctxs :=
    Dev.each_induct (·.ctxs = d.ctxs) _ _ _ rfl fun u _ e h => by
      dsimp only
      split <;> exact h
  have discarded : ((d.clearSums c).discardHandles (d.lrnCores c)).ctxs = d.ctxs :=
    Dev.each_induct (·.ctxs = d.ctxs) _ _ _ cleared fun k _ e h =>
      Dev.each_induct (·.ctxs = d.ctxs) _ _ _ h fun _ _ _ h => h
  rw [Dev.atLearningStop, Dev.modCtx_ctx, Dev.put_ctx, Dev.ctx, discarded]
  rfl

/-- Neither the stop nor the decision touches the loss scale before it moves on. -/
theorem Dev.noteOvf_sameScale (flag : Bool) (s : W32) :
    d.SameScale c (((d.atLearningStop c).stepDecision c flag s).noteOvf c flag) := by
  have decided := (d.atLearningStop_keeps c).mono (T := .lrnClipStat :: .lrnStepStat :: stopRegs) (List.subset_cons_self _ _)
  have decided := decided.trans ((Dev.stepDecision_keeps _ c flag s).mono (by decide))
  refine ⟨?_, ?_, ?_⟩
  · rw [Dev.noteOvf_keeps _ c flag _ (by decide), decided _ (by decide)]
  · rw [Dev.noteOvf_get _ _ _ (by decide) (by decide), decided.get (by decide)]
  · rw [Dev.noteOvf_get _ _ _ (by decide) (by decide), decided.get (by decide)]

theorem Dev.KeepsRegs.stepFactor {S : List Reg} {d e : Dev} (h : d.KeepsRegs S e) (clip : Reg.lrnClipCfg ∉ S) (c : Nat) (norm : W32) (l : Nat) :
    e.stepFactor c norm l = d.stepFactor c norm l := by
  have limit : e.clipMax c = d.clipMax c := by
    unfold Dev.clipMax Dev.flag
    rw [h.get (f := F.lrnClipCfg_clip_max) clip, h.get (f := F.lrnClipCfg_enable) clip]
  rw [Dev.stepFactor, limit, Dev.stepFactor]

end

/-! ### The statement -/

/-- Settles O49: a full stop decides the step, then moves its loss scale on, then advances STEP; what comes after changes none of these. -/
theorem fullStopDecidesTheStep : Obligations.FullStopDecidesTheStep := by
  refine ⟨fun s c lo hi e clean window sum flag rsp hc works runs ready alone hsum hflag hrange he low high hclean hwindow => ?_,
    fun s c g hc inside works job gone => ?_⟩
  · subst he hclean hwindow
    obtain ⟨rfl, rfl⟩ : lo = (s.dev.lsRange c).1 ∧ hi = (s.dev.lsRange c).2 := Prod.mk.inj hrange
    have stop := s.dev.atLearningStop_keeps c
    have alone' := (stop.jobGroup (by decide) c).trans alone
    have run := (fullStopsComplete.1 s c rsp (s.dev.atLearningStop c) hc works runs ready rfl).1 alone'
    rw [Dev.barrierEffect_eq, ← hsum, ← hflag] at run
    have lat := s.dev.atLearningStop_latLsExp c
    have scale := s.dev.noteOvf_sameScale c flag sum
    have stays {f : Fld} (h : f.reg ∉ .lrnStep :: .lrnStepStat :: stopRegs) :=
      Dev.metStep_get alone' flag sum ((s.dev.atLearningStop c).armedNow c) rsp h
    refine ⟨_, run, ?_, ?_, ?_, ?_, fun on => ?_, fun off => ?_⟩
    all_goals simp only [State.withDev]
    · rw [Dev.metStep_step alone', stop _ (by decide)]
    · exact Dev.metStep_pend alone' _ _ _ _
    · rw [stays (f := F.lrnClipStat_norm) (by decide), Dev.decideStep_get _ _ _ _ (by decide), Dev.stepDecision_norm, lat]
    · rw [stays (f := F.lrnClipStat_factor) (by decide), Dev.decideStep_get _ _ _ _ (by decide), Dev.stepDecision_factor, lat,
        stop.stepFactor (by decide)]
      cases flag <;> rfl
    all_goals rw [stays (f := F.ctxLsStat_ls_exp) (by decide), stays (f := F.ctxLsStat_clean) (by decide), Dev.decideStep]
    · refine ⟨?_, ?_, ?_⟩
      · rintro rfl
        exact scale.flagged on low high
      · rintro rfl inside
        exact scale.counts on low high inside
      · rintro rfl last
        exact scale.raises on low high last
    · exact scale.fixed flag off
  · refine ⟨_, run_withDev (decide_eq_true hc) (Dev.barrierAbort_ended job inside works gone), ?_, ?_, ?_, ?_⟩
    all_goals rw [State.withDev, Dev.abortEffect_eq]
    · rw [Dev.endArmed_keeps _ _ _ _ (by decide), Dev.advanceStep_step, Dev.reg_put_ne _ _ _ _ _ _ (by decide)]
    · rw [(Dev.endArmed_keeps _ _ _).get (by decide), Dev.advanceStep_pend, Dev.get_put_self _ _ _ _ _ (by decide)]
      rfl
    all_goals
      rw [Dev.endArmed_keeps _ _ _ _ (by decide), Dev.advanceStep_keeps _ _ _ _ (by decide), Dev.reg_put_ne _ _ _ _ _ _ (by decide)]

end Sys2Proof.Machine
end

section
/-! PROOFS. Generation (chapters 4 and 5): its descriptors, and the steps and ends of a rollout: O11 and O12. -/

namespace Sys2Proof.Machine

/-! ### What the commands name, and what a completion leaves -/

/-- A descriptor that stands has a queue and an index that the device has. -/
theorem Dev.Stands.named {d : Dev} {q i cls op c : Nat} {w : Waiter} {bs : List Byte} (h : d.Stands q i cls op c w bs) :
    (q < 16384 && i < 65536 : Bool) = true := by
  simp [h.wf]

/-- A context and a sequence ID in range name a rollout. -/
theorem rollout_named {c seq : Nat} (hc : c < 256) (hseq : seq < 2 ^ 24) : (c < 256 && seq < 2 ^ 24 : Bool) = true := by
  simpa [hc] using hseq

/-- A completion changes no context. -/
@[simp] theorem Dev.complete_ctx (d : Dev) (w : Waiter) (status result m : Nat) : (d.complete w status result).ctx m = d.ctx m := rfl

/-! ### START (R97) -/

section
variable {d d1 : Dev} {q i c : Nat} {w : Waiter} {bs : List Byte}

/-- A START past the checks of its form, its prompt, its ring and its pools, which admission takes: its rollout is taken in with the
prompt that is read. -/
theorem Dev.start_admitted {x : Pool} {g : Got} (stands : d.Stands q i 4 0 c w bs) (form : startForm bs = true)
    (new : d.rollout c (fieldAt bs 20 3) = none) (prompt : d.mapped c (fieldAt bs 32 8) (4 * fieldAt bs 24 4) = true)
    (bound : fieldAt bs 54 2 < 1024) (own : d.ringOf c (fieldAt bs 54 2) = true)
    (pools : d.startPools c (bitsOf (fieldAt bs 18 1) 0 4) (bitsOf (fieldAt bs 18 1) 4 4) = some x)
    (admitted : d.admission c (bitsOf (fieldAt bs 18 1) 0 4) x (fieldAt bs 24 4) (fieldAt bs 28 4) (fieldAt bs 40 4)
      (bitOf (fieldAt bs 17 1) 0) = none)
    (read : d.readVa c none [] (fieldAt bs 32 8) (4 * fieldAt bs 24 4) = (g, d1)) :
    d.start q i = d1.takeIn c w bs x g.raw := by
  have formed : (!startForm bs || (d.rollout c (fieldAt bs 20 3)).isSome : Bool) = false := by simp [form, new]
  have ring : (1024 ≤ fieldAt bs 54 2 || !d.ringOf c (fieldAt bs 54 2) : Bool) = false := by simp [bound, own]
  rw [Dev.start, Dev.withDesc_stands stands]
  simp only [formed, prompt, ring, pools, admitted, read]
  rfl

/-! ### CANCEL, PAUSE, RESUME and EVICT of a live rollout (R104 to R106, R133) -/

/-- CANCEL of a RUNNING rollout waits for its step boundary. -/
theorem Dev.cancel_running {r : Rollout} (stands : d.Stands q i 4 1 c w bs) (form : seqForm bs false = true)
    (live : d.rollout c (fieldAt bs 20 3) = some r) (st : r.st = .running) :
    d.cancel q i = (d.accept w).modRollout c (fieldAt bs 20 3) fun r => { r with cancels := r.cancels ++ [w] } := by
  rw [Dev.cancel, Dev.withDesc_stands stands]
  simp only [form, live, st]
  rfl

/-- CANCEL of a PAUSED rollout, of which no step is in progress, ends it at once. -/
theorem Dev.cancel_paused {r : Rollout} (stands : d.Stands q i 4 1 c w bs) (form : seqForm bs false = true)
    (live : d.rollout c (fieldAt bs 20 3) = some r) (st : r.st = .paused) :
    d.cancel q i = (d.complete w Status.ok 0).endRollout c (fieldAt bs 20 3) Status.cancelled 1 := by
  rw [Dev.cancel, Dev.withDesc_stands stands]
  simp only [form, live, st]
  rfl

/-- PAUSE of a RUNNING rollout, with a time to live of a millisecond to an hour, waits for its next decode step boundary. -/
theorem Dev.pause_running {r : Rollout} (stands : d.Stands q i 4 2 c w bs) (form : seqForm bs true = true)
    (low : 1000 ≤ fieldAt bs 24 4) (high : fieldAt bs 24 4 ≤ 3600000000)
    (live : d.rollout c (fieldAt bs 20 3) = some r) (st : r.st = .running) : d.pause q i =
      (d.accept w).modRollout c (fieldAt bs 20 3) fun r => { r with pauses := r.pauses ++ [(w, fieldAt bs 24 4)] } := by
  have formed : (!seqForm bs true || fieldAt bs 24 4 < 1000 || 3600000000 < fieldAt bs 24 4 : Bool) = false := by
    simp [form, low, high]
  rw [Dev.pause, Dev.withDesc_stands stands]
  simp only [formed, live, st]
  rfl

/-- RESUME of a PAUSED rollout, taken before the expiry, applies where no MOVE in progress holds the rollout's range. -/
theorem Dev.resume_paused {r : Rollout} {x : Desc} (stands : d.Stands q i 4 3 c w bs) (form : seqForm bs false = true)
    (live : d.rollout c (fieldAt bs 20 3) = some r) (st : r.st = .paused) (desc : d.desc q i = some x)
    (early : x.time < r.expiry.getD 0) (free : d.rangeHeld c r = false) :
    d.resume q i = (d.accept w).applyResume c (fieldAt bs 20 3) w := by
  rw [Dev.resume, Dev.withDesc_stands stands]
  simp only [form, live, st, desc, early, free]
  rfl

/-- EVICT of a RUNNING rollout whose decode pool is not pinned waits for its next decode step boundary. -/
theorem Dev.evict_running {r : Rollout} {p : Pool} (stands : d.Stands q i 9 256 c w bs) (op : fieldAt bs 16 1 = 0)
    (action : fieldAt bs 17 1 ≤ 1) (reserved : fieldAt bs 23 1 = 0) (low : 1 ≤ fieldAt bs 24 4) (high : fieldAt bs 24 4 ≤ 65536)
    (zeros : allZero (slice bs 28 36) = true) (live : d.rollout c (fieldAt bs 20 3) = some r)
    (pool : d.poolOf c r.decPool = some p) (pinned : p.pinned = false) (st : r.st = .running) : d.evict q i =
      (d.accept w).modRollout c (fieldAt bs 20 3) fun r =>
        { r with evicts := r.evicts ++ [⟨w, fieldAt bs 17 1, fieldAt bs 18 2, fieldAt bs 24 4⟩] } := by
  have formed : (fieldAt bs 16 1 ≠ 0 || 1 < fieldAt bs 17 1 || fieldAt bs 23 1 ≠ 0 || fieldAt bs 24 4 = 0 ||
      65536 < fieldAt bs 24 4 || !allZero (slice bs 28 36) : Bool) = false := by
    simp [op, action, reserved, Nat.one_le_iff_ne_zero.1 low, high, zeros]
  rw [Dev.evict, Dev.withDesc_stands stands]
  simp only [formed, live, pool, pinned, st]
  rfl

/-! ### POOL (R93) -/

/-- POOL with no cores, of a pool that no live rollout names, deletes it. -/
theorem Dev.pool_deleted (stands : d.Stands q i 4 4 c w bs) (form : poolForm bs = true)
    (idle : d.poolLive c (poolId bs) = false) (cores : fieldAt bs 20 2 = 0) :
    d.pool q i = (d.deletePool c (poolId bs)).complete w Status.ok 0 := by
  rw [Dev.pool, Dev.withDesc_stands stands]
  simp only [form, idle, cores]
  rfl

/-- POOL past its checks, of a pool that no live rollout names: the pool stands, on the first of the cores that are free, with the step
program that is read. -/
theorem Dev.pool_created {prog : List Nat} {x : Pool} (stands : d.Stands q i 4 4 c w bs) (form : poolForm bs = true)
    (idle : d.poolLive c (poolId bs) = false) (cores : fieldAt bs 20 2 ≠ 0) (right : d.poolWrong c bs = false)
    (enough : fieldAt bs 20 2 ≤ (d.poolFree c (poolId bs)).length)
    (pins : bitOf (fieldAt bs 17 1) 6 = true → d.pinnedElsewhere c < 16)
    (program : d.stepProgram c (fieldAt bs 24 8) = (.ok prog, d1))
    (stated : x = poolFrom bs ((d.poolFree c (poolId bs)).take (fieldAt bs 20 2)) prog)
    (clear : d1.windowsBlocked c (x.sets.filter fun n => !((d1.poolOf c (poolId bs)).elim [] Pool.sets).contains n) = false)
    (tables : d1.tablesFit c (d1.withWindows c x.sets) 0 = true) :
    d.pool q i = (d1.makePool c (poolId bs) x (bitOf (fieldAt bs 17 1) 7)).complete w Status.ok 0 := by
  subst stated
  have quota : ((d.poolFree c (poolId bs)).length < fieldAt bs 20 2 ||
      (bitOf (fieldAt bs 17 1) 6 && 16 ≤ d.pinnedElsewhere c) : Bool) = false := by
    simpa [enough] using pins
  rw [Dev.pool, Dev.withDesc_stands stands]
  simp only [form, idle, cores, right, quota, program, tables]
  cases known : d1.poolOf c (poolId bs) <;> rw [known] at clear <;> exact if_neg (ne_true_of_eq_false clear)

/-! ### MASK (R102) -/

/-- MASK of a bit vector that can be read fills its slot with the vector's length and bytes. -/
theorem Dev.mask_filled {g : Got} (stands : d.Stands q i 4 5 c w bs) (slot : fieldAt bs 18 2 < 64) (low : 1 ≤ fieldAt bs 20 4)
    (high : fieldAt bs 20 4 ≤ 2 ^ 20) (aligned : fieldAt bs 24 8 % 64 = 0) (flags : fieldAt bs 17 1 = 0)
    (zeros : allZero (slice bs 32 32) = true)
    (read : d.readVa c none [] (fieldAt bs 24 8) (ceilDiv (fieldAt bs 20 4) 8) = (g, d1)) (whole : g.bad = none) : d.mask q i =
      (d1.modCtx c fun x => { x with masks := SMap.set x.masks (fieldAt bs 18 2) (fieldAt bs 20 4, g.raw) }).complete w Status.ok 0 := by
  have formed : (64 ≤ fieldAt bs 18 2 || fieldAt bs 20 4 = 0 || 2 ^ 20 < fieldAt bs 20 4 || fieldAt bs 24 8 % 64 ≠ 0 ||
      fieldAt bs 17 1 ≠ 0 || !allZero (slice bs 32 32) : Bool) = false := by
    simpa [slot, Nat.one_le_iff_ne_zero.1 low, aligned, flags, zeros] using high
  rw [Dev.mask, Dev.withDesc_stands stands]
  simp only [formed, read, whole]
  rfl

end

/-- Settles O11: each descriptor takes the branch of its meaning that the rollout's state and the checks it passes select. -/
theorem generationDescriptorsComplete : Obligations.GenerationDescriptorsComplete := by
  refine ⟨fun s q i c w bs x g d1 stands form new prompt ring own pools admitted read => ?_,
    fun s q i c w bs r stands form live st => ?_, fun s q i c w bs r stands form live st => ?_,
    fun s q i c w bs r stands form low high live st => ?_, fun s q i c w bs r stands form live st ⟨x, desc, early⟩ free => ?_,
    fun s q i c w bs prog x d1 stands form idle cores right enough pins program stated clear tables => ?_,
    fun s q i c w bs stands form idle cores => ?_,
    fun s q i c w bs g d1 stands slot low high aligned flags zeros read whole => ?_,
    fun s q i c w bs r p stands op action reserved low high zeros live pool pinned st => ?_⟩
  · exact run_withDev stands.named (Dev.start_admitted stands form new prompt ring own pools admitted read)
  · exact run_withDev stands.named (Dev.cancel_running stands form live st)
  · exact run_withDev stands.named (Dev.cancel_paused stands form live st)
  · exact run_withDev stands.named (Dev.pause_running stands form low high live st)
  · exact run_withDev stands.named (Dev.resume_paused stands form live st desc early free)
  · exact run_withDev stands.named (Dev.pool_created stands form idle cores right enough pins program stated clear tables)
  · exact run_withDev stands.named (Dev.pool_deleted stands form idle cores)
  · refine ⟨_, run_withDev stands.named (Dev.mask_filled stands slot low high aligned flags zeros read whole), ?_, fun awaited => ?_⟩
    · rw [State.withDev, Dev.complete_ctx, Dev.modCtx_ctx]
      exact SMap.find_set_self _ _ _
    · exact Dev.complete_due _ _ (Dev.awaited_modCtx.2 awaited)
  · exact run_withDev stands.named (Dev.evict_running stands op action reserved low high zeros live pool pinned st)

/-! ### Steps (R89, R103) -/

section
variable {d : Dev} {c seq : Nat} {r : Rollout}

/-- PREFILL_STEP of a rollout in PREFILL with prompt left, whose pool can step, begins a step of that rollout alone: the next chunk of its
prompt. -/
theorem Dev.prefillStep_begins {x y : Pool} (table : Word) (live : d.rollout c seq = some r)
    (pre : d.poolOf c r.prePool = some x) (dec : d.poolOf c r.decPool = some y) (st : r.st = .prefill) (free : r.inStep = false)
    (left : r.filled < r.promptLen) (here : (r.peer.isSome || y.peerRank = 0xFFFF) = true) (can : d.canStep c x = true)
    (preStays : x.gone = false) (decStays : y.gone = false) : d.prefillStep c seq table =
      d.beginStep c r.prePool x [⟨seq, r.slot, r.filled, r.filled + min x.chunk (r.promptLen - r.filled)⟩] false table := by
  have acts : (r.st = .prefill && !r.inStep && r.filled < r.promptLen && (r.peer.isSome || y.peerRank = 0xFFFF) && d.canStep c x :
      Bool) = true := by
    rw [here, can]
    simp [st, free, left]
  simp only [Dev.prefillStep, live, pre, dec, acts, preStays, decStays]
  rfl

/-- DECODE_STEP of a pool with a RUNNING rollout, which can step, begins a step over its RUNNING rollouts and chooses a token for each. -/
theorem Dev.decodeStep_begins {p : Nat} {x : Pool} (table : Word) (scores : List SeqScores) (pool : d.poolOf c p = some x)
    (role : x.role ≠ 0) (batch : d.batchOf c p ≠ []) (can : d.canStep c x = true) (stays : x.gone = false) :
    d.decodeStep c p table scores =
      (d.beginStep c p x ((d.batchOf c p).map fun r => ⟨r.seq, r.slot, r.promptLen + r.tokens, r.promptLen + r.tokens + 1⟩) true
        table).each (d.batchOf c p) fun r d => d.chooseFor c x scores r.seq := by
  have acts : (x.role ≠ 0 && !(d.batchOf c p).isEmpty && d.canStep c x : Bool) = true := by
    simp [role, batch, can]
  simp only [Dev.decodeStep, pool, acts, stays]
  rfl

/-- STEP_BOUNDARY of a rollout in a step of its pool, of which no clause waits or is placed, passes the boundary. -/
theorem Dev.stepBoundary_passes {x : Pool} {run : StepRun} (live : d.rollout c seq = some r)
    (pool : d.poolOf c r.stepPool = some x) (step : x.step = some run) (inside : r.inStep = true)
    (idle : d.stepBusy c r.stepPool = false) (member : run.seqs.contains seq = true) (works : d.working c = true) :
    d.stepBoundary c seq = d.passBoundary c seq r r.stepPool x run := by
  simp only [Dev.stepBoundary, live, pool, Option.bind_some, step, inside, idle, member, works]
  rfl

/-! ### Remote prefill (R95) -/

/-- PROMPT_SHIPPED of a remote prefill whose whole prompt has landed makes the rollout RUNNING. -/
theorem Dev.promptShipped_runs {x : Pool} (live : d.rollout c seq = some r) (pool : d.poolOf c r.decPool = some x)
    (remote : x.peerRank ≠ 0xFFFF) (st : r.st = .prefill) (free : r.inStep = false) (works : d.working c = true)
    (ending : r.ending = none) (filled : r.filled = r.promptLen) (own : r.peer = none) :
    d.promptShipped c seq = d.modRollout c seq fun r => { r with st := .running, filled := r.promptLen } := by
  simp [Dev.promptShipped, live, pool, remote, st, free, works, ending, filled, own]

/-- REMOTE_PREFILL_REFUSED ends a rollout in PREFILL that waits for a peer. -/
theorem Dev.remotePrefillRefused_ends {x : Pool} (live : d.rollout c seq = some r) (pool : d.poolOf c r.decPool = some x)
    (remote : x.peerRank ≠ 0xFFFF) (st : r.st = .prefill) (works : d.working c = true) :
    d.remotePrefillRefused c seq = d.endRollout c seq Status.deferred 6 := by
  simp [Dev.remotePrefillRefused, live, pool, remote, st, works]

/-! ### The moves of a pause and of a resume, and the time to live (R103 to R105) -/

/-- PAUSE_MOVE_DONE, with no RESUME and no EVICT waiting, makes the rollout PAUSED; its time to live starts now. -/
theorem Dev.pauseMoveDone_pauses {ttl : Nat} {w : Waiter} {m : Move} (live : d.rollout c seq = some r)
    (done : d.doneMove c (.pause seq) = some m) (st : r.st = .pausing) (works : d.working c = true)
    (pausing : r.pausing = some (w, ttl)) (resumes : r.resumes = []) (evicts : r.evicts = []) : d.pauseMoveDone c seq =
      ((d.dropMove c m.id).complete w Status.ok 0).modRollout c seq fun r =>
        { r with st := .paused, pausing := none, resumes := [], expiry := some (d.ns + 1000 * ttl) } := by
  simp only [Dev.pauseMoveDone, live, done, st, works, pausing, resumes, evicts]
  rfl

/-- RESUME_MOVE_DONE completes the RESUME that waits and makes the rollout RUNNING. -/
theorem Dev.resumeMoveDone_runs {w : Waiter} {m : Move} (live : d.rollout c seq = some r)
    (done : d.doneMove c (.resume seq) = some m) (st : r.st = .resuming) (works : d.working c = true) (resumes : r.resumes = [w]) :
    d.resumeMoveDone c seq = ((d.complete w Status.ok 0).dropMove c m.id).modRollout c seq fun r =>
      { r with st := .running, resumes := [], expiry := none } := by
  simp only [Dev.resumeMoveDone, live, done, st, works, resumes]
  rfl

/-- TTL_EXPIRE ends a PAUSED rollout whose expiry has passed, where no RESUME taken before it is still to apply. -/
theorem Dev.ttlExpire_ends {t : Nat} (live : d.rollout c seq = some r) (st : r.st = .paused) (works : d.working c = true)
    (expiry : r.expiry = some t) (passed : t ≤ d.ns) (alone : d.resumeTaken c seq t = false) :
    d.ttlExpire c seq = d.endRollout c seq Status.expired 3 := by
  simp [Dev.ttlExpire, live, st, works, expiry, passed, alone]

end

/-- Settles O12: each event acts, since its guard is what the conditions say. -/
theorem rolloutEventsComplete : Obligations.RolloutEventsComplete := by
  refine ⟨fun s c seq table r x y hc hseq live pre dec st free left here can preStays decStays => ?_,
    fun s c p table scores x hc hp pool role batch can stays => ?_,
    fun s c seq r x run hc hseq live pool step inside idle member works => ?_,
    fun s c seq r x hc hseq live pool remote st free works ending filled own => ?_,
    fun s c seq r x hc hseq live pool remote st works => ?_,
    fun s c seq ttl r w m hc hseq live done st works pausing resumes evicts => ?_,
    fun s c seq r w m hc hseq live done st works resumes => ?_,
    fun s c seq t r hc hseq live st works expiry passed alone => ?_⟩
  · exact run_withDev (rollout_named hc hseq) (Dev.prefillStep_begins table live pre dec st free left here can preStays decStays)
  · exact run_withDev (by simp [Instr.wf, hc, hp]) (Dev.decodeStep_begins table scores pool role batch can stays)
  · exact run_withDev (rollout_named hc hseq) (Dev.stepBoundary_passes live pool step inside idle member works)
  · exact run_withDev (rollout_named hc hseq) (Dev.promptShipped_runs live pool remote st free works ending filled own)
  · exact run_withDev (rollout_named hc hseq) (Dev.remotePrefillRefused_ends live pool remote st works)
  · exact run_withDev (rollout_named hc hseq) (Dev.pauseMoveDone_pauses live done st works pausing resumes evicts)
  · exact run_withDev (rollout_named hc hseq) (Dev.resumeMoveDone_runs live done st works resumes)
  · exact run_withDev (rollout_named hc hseq) (Dev.ttlExpire_ends live st works expiry passed alone)

end Sys2Proof.Machine
end

section
/-! PROOFS. Attention and the append of keys and values (chapters 5 and 7): O15. -/

namespace Sys2Proof.Machine

/-! ### The meanings -/

/-- A change of the device gives no value and goes on from what it makes. -/
theorem Gives.update (f : Dev → Dev) (d : Dev) : Gives (Machine.update f) d () (f d) := rfl

section
variable {v : Env} {d d1 d2 d3 d4 d5 : Dev}

/-- Forward: the rows are read, O's record is checked and its rounding drawn, the results are flagged and the empty rows counted, and O, LSE
and STAT take their bytes (R127 to R129). -/
theorem attentionM_gives {op : AttnOp} {inp : KeyInput} {rq ro : TRec} {rows : List ((KeySet × Nat × Nat × Nat) × List Elt × Nat)}
    {rds : List (List Round)} {outs : List RowOut} (named : ro = TRec.ofWords op.o.recLo.toNat op.o.recHi.toNat)
    (results : outs = rows.map fun ((k, qpos, _, h), q, bits) => attendRow op inp rq q qpos bits (k.heads.getD h []))
    (input : Gives (attnRows v op) d (inp, rq, rows) d1) (legal : Gives (checkRec ro false true) d1 () d1)
    (round : Gives (rounds v ro 1 op.tensor op.row0 op.col0 rows.length inp.dim) d1 rds d2)
    (store : Gives (writeOut v ro op.o.addr rds (outs.map (·.o)) inp.dim)
      ((d2.flagResults v.c v.core v.learning ((outs.filter fun o => !bitOf o.stat 0).flatMap fun o => o.lse :: o.o ++ o.steps)).incSat
        F.kvStat_empty_rows v.c (outs.filter fun o => bitOf o.stat 0).length) () d3)
    (lse : Gives (putBytes v op.lse (f32Bytes (outs.map (·.lse)))) d3 () d4)
    (stat : Gives (putBytes v op.stat (outs.map fun o => BitVec.ofNat 8 o.stat)) d4 () d5) : Gives (attentionM op v) d () d5 := by
  subst named results
  exact input.bind (legal.bind (round.bind ((Gives.update _ _).bind ((Gives.update _ _).bind (store.bind (lse.bind stat))))))

/-- Backward: the input is read, the results and the conversions of the probabilities are flagged, and the gradients of queries, keys and
values take their bytes (R162). -/
theorem attentionBackM_gives {op : AttnBwOp} {x : BackInput} (input : Gives (attnBackIn op v) d x d1)
    (queries : Gives (putF32 v op.dq (backGrads op x).1)
      ((d1.flagResults v.c v.core v.learning (backSteps op x)).flagConv v.c v.core v.learning false ((backProbs op x).any (·.sat))
        ((backProbs op x).any (·.badIn))) () d2)
    (keys : Gives (putF32 v op.dk ((backGrads op x).2.flatten.flatMap (·.dk))) d2 () d3)
    (values : Gives (putF32 v op.dv ((backGrads op x).2.flatten.flatMap (·.dv))) d3 () d4) : Gives (attentionBackM op v) d () d4 :=
  input.bind ((Gives.update _ _).bind (queries.bind (keys.bind values)))

/-- An append to a place that the layout has is one appended row (R121). -/
theorem kvAppendM_gives {op : KvAppendOp} {l : KvLayout} (layout : Gives (readLayout v op.layout) d l d1) (layer : op.layer < l.layers)
    (head : op.head < l.heads) (width : op.row.length = l.dim) (pos : op.pos < 65536 / max l.ppg 1 * l.tpg)
    (append : Gives (appendRow v l (d1.kvBase v.c op.pre op.slot) op) d1 () d2) : Gives (kvAppendM op v) d () d2 := by
  have placed : (l.layers ≤ op.layer || l.heads ≤ op.head || op.row.length ≠ l.dim || 65536 / max l.ppg 1 * l.tpg ≤ op.pos : Bool) = false := by
    simp only [Bool.or_eq_false_iff, decide_eq_false_iff_not, Nat.not_le, not_not]
    exact ⟨⟨⟨layer, head⟩, width⟩, pos⟩
  refine layout.bind ?_
  rw [if_neg (ne_true_of_eq_false placed)]
  exact (get_bind _ _).trans append

end

/-! ### The commands -/

/-- Settles O15: each instruction is its parts in sequence, each of which gives its value. -/
theorem attentionInstructionsComplete : Obligations.AttentionInstructionsComplete := by
  refine ⟨fun s core seq c y op rsp inp rq ro rows rds outs d1 d2 d3 d4 d5 ready coords input named legal round results store lse stat => ?_,
    fun s core seq c y op rsp x d1 d2 d3 d4 ready input queries keys values => ?_,
    fun s core seq c y op rsp l d1 d2 ready layout layer head width pos append => ?_⟩
  · exact run_withDev (by simp [Instr.wf, ready.wf, coords])
      (Dev.instr_gives _ rsp (attentionM op) ready (attentionM_gives named results input legal round store lse stat))
  · exact run_withDev (by simp [Instr.wf, ready.wf])
      (Dev.instr_gives _ rsp (attentionBackM op) ready (attentionBackM_gives input queries keys values))
  · exact run_withDev (by simp [Instr.wf, ready.wf])
      (Dev.instr_gives _ rsp (kvAppendM op) ready (kvAppendM_gives layout layer head width pos append))

end Sys2Proof.Machine
end

section
/-! PROOFS. The events of a SAVE (chapter 14) and the writes of context registers (chapters 5, 7 and 14): O30. -/

namespace Sys2Proof.Machine

/-! ### A SAVE's writes and its outcome (R313 to R315) -/

section
variable {d d1 : Dev} {c g : Nat} {k : Ckpt}

/-- A member whose shards and directory are written: the checkpoint as the writes left it, the next step released, phase 4. -/
def Dev.saveWritten (d : Dev) (c : Nat) (k : Ckpt) : Dev :=
  ((d.modCtx c fun x => { x with ckpt := some k }).releaseHold c).put F.ckptStat_phase c 4

/-- What a member does after its writes: it enters the gathering of its job's summaries (log entry 77), ends the SAVE where the group is no
longer its context's, or, alone, waits for its own outcome. -/
def Dev.gatherSummaries (d : Dev) (c : Nat) (k : Ckpt) (rsp : TierRsp) : Dev :=
  match d.jobGroup c with
  | none => d
  | some g =>
    if d.inGroup c g then d.enterOp g (ownOp (k.base + 1) .summary ⟨4, 0, 64, 0, 0⟩ k.summary.bytes) rsp
    else d.endSave c k Status.collAbort

/-- SAVE_WRITES_DONE in phase 3 writes the member's part, and goes on to the summaries where no operation of the checkpoint aborted. -/
theorem Dev.saveWritesDone_written {k' : Ckpt} {rsp : TierRsp} (ckpt : (d.ctx c).ckpt = some k) (phase : d.get F.ckptStat_phase c = 3)
    (works : d.working c = true) (written : d.writeMember c k rsp = (k', d1)) (whole : k'.status ≠ Status.collAbort) :
    d.saveWritesDone c rsp = (d1.saveWritten c k').gatherSummaries c k' rsp := by
  have acts : (d.get F.ckptStat_phase c ≠ 3 || !d.working c : Bool) = false := by simp [phase, works]
  simp only [Dev.saveWritesDone, ckpt, acts, written, whole]
  rfl

/-- A job of one device has no summaries to gather. -/
theorem Dev.gatherSummaries_alone (k : Ckpt) (rsp : TierRsp) (alone : d.jobGroup c = none) : d.gatherSummaries c k rsp = d := by
  rw [Dev.gatherSummaries, alone]

/-- A member of its job's group enters the gathering with its own summary. -/
theorem Dev.gatherSummaries_inGroup (k : Ckpt) (rsp : TierRsp) (job : d.jobGroup c = some g) (own : d.inGroup c g = true) :
    d.gatherSummaries c k rsp = d.enterOp g (ownOp (k.base + 1) .summary ⟨4, 0, 64, 0, 0⟩ k.summary.bytes) rsp := by
  rw [Dev.gatherSummaries, job]
  exact if_pos own

/-- A job of one device judges its own summary and ends the SAVE with that, or with its own status where it is not OK. -/
theorem Dev.saveOutcome_alone {st : Nat} {rsp : TierRsp} (ckpt : (d.ctx c).ckpt = some k) (phase : d.get F.ckptStat_phase c = 4)
    (works : d.working c = true) (alone : d.jobGroup c = none) (judged : d.judge c k [k.summary] rsp = (st, d1)) :
    d.saveOutcome c rsp = d1.endSave c k (if k.status ≠ 0 then k.status else st) := by
  have acts : (d.get F.ckptStat_phase c ≠ 4 || !d.working c : Bool) = false := by simp [phase, works]
  simp only [Dev.saveOutcome, ckpt, acts, alone, judged]
  rfl

/-- A member whose outcome is here completes the operation that brought it, and ends the SAVE. -/
theorem Dev.saveOutcome_ready {o : CollOp} (rsp : TierRsp) (ckpt : (d.ctx c).ckpt = some k) (phase : d.get F.ckptStat_phase c = 4)
    (works : d.working c = true) (job : d.jobGroup c = some g)
    (op : (d.group g).ops.find? (fun o => o.use = .outcome && o.num = k.base + 2) = some o)
    (ready : o.ready (d.ranksOf g) d.ownRank = true) : d.saveOutcome c rsp = (d.finishOp g o Status.ok 0 rsp).endSave c k
      (if k.status ≠ 0 then k.status else fieldAt (((o.downs.head?).map (·.2.2)).getD []) 0 8) := by
  have acts : (d.get F.ckptStat_phase c ≠ 4 || !d.working c : Bool) = false := by simp [phase, works]
  simp only [Dev.saveOutcome, ckpt, acts, job, op, ready]
  rfl

end

/-! ### Writes of a context's registers (R115, R153, R241, R302) -/

section
variable {d : Dev} {fn c : Nat}

/-- What the owner's write of CKPT_JOB_ID or CKPT_JOB sets, in IDLE. -/
theorem Dev.ckptJobWrite_idle (which : Nat) (v : Word) (own : d.ctxWritable fn c = true) (idle : d.get F.lrnStepStat_phase c = LrnSt.idle) :
    d.ckptJobWrite fn c which v = if which = 0 then d.setReg .ckptJobId c v.toNat else d.put F.ckptJob_grp c v.toNat :=
  if_pos (by simp [own, idle])

/-- What the owner's write of LRN_STEP sets, in IDLE of a context that learns. -/
theorem Dev.lrnStepWrite_idle (v : Word) (own : d.ctxWritable fn c = true) (learns : d.kindOf c ≠ 0)
    (idle : d.get F.lrnStepStat_phase c = LrnSt.idle) : d.lrnStepWrite fn c v = d.setReg .lrnStep c v.toNat :=
  if_pos (by simp [own, learns, idle])

/-- What the owner's write of a KV window sets, while no rollout is live. -/
theorem Dev.kvBaseWrite_idle (which : Nat) (v : Word) (own : d.ctxWritable fn c = true) (idle : d.get F.genStat_live c = 0) :
    d.kvBaseWrite fn c which v = if which = 0 then d.put F.kvVbase_base c (bitsOf v.toNat 30 34)
      else if which = 1 then d.put F.kvPvbase_base c (bitsOf v.toNat 30 34) else d.put F.kvHvbase_base c (bitsOf v.toNat 23 41) :=
  if_pos (by simp [own, idle])

/-- The owner's write of KV_POOL that quota and free frames cover charges what it adds, ends the charge of what it takes, and sets PAGES. -/
theorem Dev.kvPoolWrite_covered {pages : Nat} (own : d.ctxWritable fn c = true)
    (covered : d.get F.kvPool_pages c < pages → d.quotaOk c 0 ((pages - d.get F.kvPool_pages c) * pageBytes) = true ∧
      pages - d.get F.kvPool_pages c ≤ d.freeFrames 0) : d.kvPoolWrite fn c pages =
    ((((d.charge c 0 ((pages - d.get F.kvPool_pages c) * pageBytes)).uncharge c 0 ((d.get F.kvPool_pages c - pages) * pageBytes)).put
      F.kvPool_pages c pages).kvCount c) := by
  refine (if_pos own).trans (if_neg ?_)
  simpa using covered

/-- The count of free frames leaves PAGES. -/
theorem Dev.get_kvCount_pages (d : Dev) (c : Nat) : (d.kvCount c).get F.kvPool_pages c = d.get F.kvPool_pages c :=
  Dev.get_put_beside _ F.kvPool_free F.kvPool_pages _ _ _ rfl (by decide) (by decide)

/-- The count that a well-formed KV_POOL_WRITE names fits the width of PAGES. -/
theorem pages_lt_of_wf {pages : Nat} (named : Instr.wf (.kvPoolWrite fn c pages) = true) : pages < 2 ^ 32 := by
  simp only [Instr.wf, Bool.and_eq_true, decide_eq_true_eq] at named
  exact named.2

end

/-- Settles O30: each event of a SAVE takes the branch that phase and job select, and each write is its owner's. -/
theorem contextRegistersTakeWrites : Obligations.ContextRegistersTakeWrites := by
  refine ⟨fun s c rsp k k' d1 d2 hc ckpt phase works written whole hd => ?_, fun s c rsp k hc ckpt phase works => ⟨?_, ?_⟩,
    fun s fn c v named own idle => ⟨?_, ?_⟩, fun s fn c v named own learns idle => ?_, fun s fn c v named own idle => ⟨?_, ?_, ?_⟩,
    fun s fn c pages named own covered => ?_⟩
  · obtain rfl : d2 = d1.saveWritten c k' := hd
    have save := Dev.saveWritesDone_written ckpt phase works written whole
    refine ⟨fun alone => ?_, fun g job inside => ?_⟩
    · exact run_withDev (decide_eq_true hc) (save.trans (Dev.gatherSummaries_alone k' rsp alone))
    · exact run_withDev (decide_eq_true hc) (save.trans (Dev.gatherSummaries_inGroup k' rsp job inside))
  · exact fun st d1 alone judged => run_withDev (decide_eq_true hc) (Dev.saveOutcome_alone ckpt phase works alone judged)
  · exact fun g o job op ready => run_withDev (decide_eq_true hc) (Dev.saveOutcome_ready rsp ckpt phase works job op ready)
  · exact run_withDev named (Dev.ckptJobWrite_idle 0 v own idle)
  · exact run_withDev named (Dev.ckptJobWrite_idle 1 v own idle)
  · exact run_withDev named (Dev.lrnStepWrite_idle v own learns idle)
  · exact run_withDev named (Dev.kvBaseWrite_idle 0 v own idle)
  · exact run_withDev named (Dev.kvBaseWrite_idle 1 v own idle)
  · exact run_withDev named (Dev.kvBaseWrite_idle 2 v own idle)
  · refine ⟨_, run_withDev named (Dev.kvPoolWrite_covered own covered), ?_⟩
    rw [State.withDev, Dev.get_kvCount_pages, Dev.get_put_self _ _ _ _ _ (by decide)]
    exact Nat.mod_eq_of_lt (pages_lt_of_wf named)

end Sys2Proof.Machine
end

section
/-! PROOFS. Sillage (chapter 6): its descriptors, and the commits and discards of generated records: O17 and O18. -/

namespace Sys2Proof.Machine

/-! ### What CREATE leaves (R134) -/

/-- A context's ring as CREATE makes it: its range and its configuration, and no record in it. -/
def Dev.makeRing (d : Dev) (c r base full tier cap : Nat) : Dev :=
  ((d.setReg .silRingBase r base).setReg .silRingCfg r
    (1 + full * 2 + tier * 4 + c * 2 ^ 8 + cap / pageBytes * 2 ^ 16)).setRing r Ring.init

section
variable (d : Dev) (c r base full tier cap : Nat)

/-- The base of a range below 2^64 stands in the ring's register as it is. -/
theorem Dev.makeRing_base (h : base < 2 ^ 64) : (d.makeRing c r base full tier cap).reg .silRingBase r = base := by
  rw [Dev.makeRing, Dev.setRing_reg, Dev.reg_setReg_other _ _ _ _ _ _ (by decide), Dev.reg_setReg_self, Nat.mod_eq_of_lt h]

/-- The ring is VALID: bit 0 of its configuration is 1, and every other field lies above it. -/
theorem Dev.makeRing_valid : (d.makeRing c r base full tier cap).flag F.silRingCfg_valid r = true := by
  rw [Dev.makeRing, Dev.setRing_flag]
  simp only [Dev.flag, Dev.get, F.silRingCfg_valid, Dev.reg_setReg_self, bitsOf, decide_eq_true_eq]
  omega

/-- The ring is empty. -/
theorem Dev.makeRing_ring : (d.makeRing c r base full tier cap).ring r = Ring.init := Dev.setRing_ring _ _ _

/-- No queue is changed, nor its enable period. -/
theorem Dev.awaited_makeRing {w : Waiter} (h : d.Awaited w) : (d.makeRing c r base full tier cap).Awaited w := by
  obtain ⟨enabled, period⟩ := h
  refine ⟨?_, period⟩
  rw [Dev.makeRing, Dev.setRing_flag, Dev.flag, Dev.get_setReg_ne _ _ _ _ _ _ (by decide), Dev.get_setReg_ne _ _ _ _ _ _ (by decide)]
  exact enabled

end

/-- A completion changes no register. -/
@[simp] theorem Dev.complete_reg (d : Dev) (w : Waiter) (status result : Nat) (r : Reg) (i j : Nat) :
    (d.complete w status result).reg r i j = d.reg r i j := rfl

/-- A completion changes no flag. -/
@[simp] theorem Dev.complete_flag (d : Dev) (w : Waiter) (status result : Nat) (f : Fld) (i j : Nat) :
    (d.complete w status result).flag f i j = d.flag f i j := rfl

/-- A completion changes no ring. -/
@[simp] theorem Dev.complete_ring (d : Dev) (w : Waiter) (status result m : Nat) : (d.complete w status result).ring m = d.ring m := rfl

/-! ### The descriptors -/

section
variable {d d1 : Dev} {q i c : Nat} {w : Waiter} {bs : List Byte}

/-- CREATE past its checks, with FULL 0 and the heart note as its tier, makes the ring (R134). -/
theorem Dev.silCreate_makes (stands : d.Stands q i 6 0 c w bs) (form : silForm bs [(20, 4), (40, 24)] = true)
    (flags : fieldAt bs 17 1 = 0) (whole : fieldAt bs 24 8 % pageBytes = 0) (sized : fieldAt bs 24 8 ≠ 0)
    (aligned : fieldAt bs 32 8 % 2 ^ 30 = 0) (new : d.flag F.silRingCfg_valid (fieldAt bs 18 2) = false)
    (inside : fieldAt bs 32 8 + alignUp (fieldAt bs 24 8) (2 ^ 30) ≤ 2 ^ 50)
    (unmapped : (d.ctx c).anyLeaf (fieldAt bs 32 8 / pageBytes) (alignUp (fieldAt bs 24 8) (2 ^ 30) / pageBytes) = false)
    (clear : d.deviceMeets c (fieldAt bs 32 8) (alignUp (fieldAt bs 24 8) (2 ^ 30)) = false)
    (quota : d.quotaOk c 1 (fieldAt bs 24 8) = true) (heart : heartFrames d.cfg ≠ 0) :
    d.silCreate q i = (d.makeRing c (fieldAt bs 18 2) (fieldAt bs 32 8) 0 1 (fieldAt bs 24 8)).complete w Status.ok 0 := by
  have formed : (!silForm bs [(20, 4), (40, 24)] || 6 ≤ fieldAt bs 17 1 || fieldAt bs 24 8 % pageBytes ≠ 0 || fieldAt bs 24 8 = 0 ||
      fieldAt bs 32 8 % 2 ^ 30 ≠ 0 : Bool) = false := by
    simpa [form, flags, whole, sized] using aligned
  have placed : (2 ^ 50 < fieldAt bs 32 8 + alignUp (fieldAt bs 24 8) (2 ^ 30) ||
      (d.ctx c).anyLeaf (fieldAt bs 32 8 / pageBytes) (alignUp (fieldAt bs 24 8) (2 ^ 30) / pageBytes) ||
      d.deviceMeets c (fieldAt bs 32 8) (alignUp (fieldAt bs 24 8) (2 ^ 30)) : Bool) = false := by
    rw [unmapped, clear, decide_eq_false (Nat.not_lt.2 inside)]
    rfl
  have covered : (!d.quotaOk c 1 (fieldAt bs 24 8) || d.noHeart 1 : Bool) = false := by simp [quota, Dev.noHeart, heart]
  rw [Dev.silCreate, Dev.withDesc_stands stands]
  simp only [formed, new, placed]
  simp only [flags]
  exact if_neg (ne_true_of_eq_false covered)

/-- DESTROY of a ring that no live rollout names and on which no record waits frees it (R139). -/
theorem Dev.silDestroy_frees (stands : d.Stands q i 6 1 c w bs) (form : silForm bs [(17, 1), (20, 44)] = true)
    (own : d.ringOf c (fieldAt bs 18 2) = true) (unnamed : (d.ctx c).rollouts.any (fun x => x.ring = fieldAt bs 18 2) = false)
    (idle : (d.ring (fieldAt bs 18 2)).waiting = []) :
    d.silDestroy q i = (d.freeRing (fieldAt bs 18 2)).complete w Status.ok 0 := by
  rw [Dev.silDestroy, Dev.withDesc_stands stands]
  simp only [form, own, unnamed, idle]
  rfl

/-- APPEND of 1 to 65,535 records to a ring of its context commits them one by one, and answers how many it took and refused (R145). -/
theorem Dev.silAppend_commits {rsp : TierRsp} {acc st : Nat} (stands : d.Stands q i 6 2 c w bs)
    (form : silForm bs [(17, 1), (40, 24)] = true) (low : 1 ≤ fieldAt bs 20 4) (high : fieldAt bs 20 4 ≤ 65535)
    (own : d.ringOf c (fieldAt bs 18 2) = true)
    (append : d.appendGo c (fieldAt bs 18 2) rsp (fieldAt bs 24 8) (fieldAt bs 32 8) (fieldAt bs 20 4) 0 0 0 = ((acc, st), d1)) :
    d.silAppend q i rsp = d1.complete w st (acc + (fieldAt bs 20 4 - acc) * 2 ^ 32) := by
  have formed : (!silForm bs [(17, 1), (40, 24)] || fieldAt bs 20 4 = 0 || 65535 < fieldAt bs 20 4 : Bool) = false := by
    simp [form, Nat.one_le_iff_ne_zero.1 low, high]
  rw [Dev.silAppend, Dev.withDesc_stands stands]
  simp only [formed, own, append]
  rfl

/-- DRAW in a mode of random selection, from candidates, counts one draw and writes the records that its seed selects (R146, R147). -/
theorem Dev.silDraw_writes {rsp : TierRsp} {x : Desc} {cs : List RingRec} {k g st : Nat} (stands : d.Stands q i 6 3 c w bs)
    (desc : d.desc q i = some x) (form : silForm bs [(56, 8)] = true) (mode : fieldAt bs 17 1 < 3) (low : 1 ≤ fieldAt bs 20 4)
    (high : fieldAt bs 20 4 ≤ 65536) (own : d.ringOf c (fieldAt bs 18 2) = true)
    (named : cs = candidates (d.ring (fieldAt bs 18 2)).live (fieldAt bs 17 1) (fieldAt bs 40 4) (fieldAt bs 44 4)) (drawable : cs ≠ [])
    (draw : (d.incMod F.silRingCnt_draws (fieldAt bs 18 2)).drawGo c (fieldAt bs 18 2) rsp (fieldAt bs 24 8) (fieldAt bs 32 8)
      ((List.range (fieldAt bs 20 4)).filterMap fun j =>
        (cs[drawPick x.seed (fieldAt bs 18 2) (d.get F.silRingCnt_draws (fieldAt bs 18 2)) cs.length j]?).map Pick.live) 0 0 0 =
      ((k, g, st), d1)) :
    d.silDraw q i rsp = d1.complete w st (k + g * 2 ^ 32) := by
  subst named
  have formed : (!silForm bs [(56, 8)] || 3 < fieldAt bs 17 1 || fieldAt bs 20 4 = 0 || 65536 < fieldAt bs 20 4 : Bool) = false := by
    simp [form, Nat.le_of_lt mode, Nat.one_le_iff_ne_zero.1 low, high]
  have drawn : (candidates (d.ring (fieldAt bs 18 2)).live (fieldAt bs 17 1) (fieldAt bs 40 4) (fieldAt bs 44 4)).isEmpty = false :=
    List.isEmpty_eq_false_iff.2 drawable
  rw [Dev.silDraw, Dev.withDesc_stands stands]
  simp only [formed, own, desc, Nat.ne_of_lt mode, drawn]
  simp only [reduceIte, Bool.false_eq_true, Bool.not_true, draw]

end

/-! ### RECORD_COMMIT (R136, R137) -/

section
variable {d d1 : Dev} {ring : Nat} {rsp : TierRsp} {x : RingWait} {rest : List RingWait}

/-- The oldest record that waits on a ring commits, and its rollout finishes where it was the last one. -/
theorem Dev.recordCommit_commits (waiting : (d.ring ring).waiting = x :: rest) (valid : d.flag F.silRingCfg_valid ring = true)
    (commit : (d.modRing ring fun y => { y with waiting := rest }).commitRecord ring x.header x.payload rsp = (none, d1)) :
    d.recordCommit ring rsp = d1.settle (d.get F.silRingCfg_ctx ring) x.seq := by
  simp only [Dev.recordCommit, waiting, Dev.modRing_flag, valid, commit]
  rfl

/-- The oldest record that waits on a ring and cannot commit is counted in GEN_DROP, and marked by FULL where the ring had no room. -/
theorem Dev.recordCommit_discards {st : Nat} (waiting : (d.ring ring).waiting = x :: rest)
    (valid : d.flag F.silRingCfg_valid ring = true)
    (refused : (d.modRing ring fun y => { y with waiting := rest }).commitRecord ring x.header x.payload rsp = (some st, d1)) :
    d.recordCommit ring rsp = (if st = Status.quota then (d1.incSat F.silRingStat_gen_drop ring).put F.silRingStat_full ring 1
      else d1.incSat F.silRingStat_gen_drop ring).settle (d.get F.silRingCfg_ctx ring) x.seq := by
  simp only [Dev.recordCommit, waiting, Dev.modRing_flag, valid, refused]
  rfl

end

/-- Settles O17: each descriptor passes the checks that the conditions state and takes the branch that is left. -/
theorem sillageCommandsComplete : Obligations.SillageCommandsComplete := by
  refine ⟨fun s q i c w bs stands form flags whole sized aligned new inside unmapped clear quota heart => ?_,
    fun s q i c w bs stands form own unnamed idle => ?_,
    fun s q i c w bs rsp acc st d1 stands form low high own append => ?_,
    fun s q i c w bs rsp x cs k g st d1 stands desc form mode low high own named drawable draw => ?_,
    fun s ring rsp x rest d1 named waiting valid commit => ?_⟩
  · refine ⟨_, run_withDev stands.named (Dev.silCreate_makes stands form flags whole sized aligned new inside unmapped clear quota heart),
      ?_, ?_, ?_, fun awaited => Dev.complete_due _ _ (s.dev.awaited_makeRing _ _ _ _ _ _ awaited)⟩
    · rw [State.withDev, Dev.complete_reg, Dev.makeRing_base _ _ _ _ _ _ _ (by omega)]
    · rw [State.withDev, Dev.complete_flag, Dev.makeRing_valid]
    · rw [State.withDev, Dev.complete_ring, Dev.makeRing_ring]
  · exact run_withDev stands.named (Dev.silDestroy_frees stands form own unnamed idle)
  · exact run_withDev stands.named (Dev.silAppend_commits stands form low high own append)
  · exact run_withDev stands.named (Dev.silDraw_writes stands desc form mode low high own named drawable draw)
  · exact run_withDev (decide_eq_true named) (Dev.recordCommit_commits waiting valid commit)

/-- Settles O18: a status from the commit is the discard of the record, and QUOTA is the status of a ring without room. -/
theorem uncommittedGeneratedRecordsAreCounted : Obligations.UncommittedGeneratedRecordsAreCounted :=
  fun _ _ _ _ _ _ _ named waiting valid refused => run_withDev (decide_eq_true named) (Dev.recordCommit_discards waiting valid refused)

end Sys2Proof.Machine
end

section
/-! PROOFS. The vector instructions of a learning step (chapter 7): O14. -/

namespace Sys2Proof.Machine

section
variable {v : Env} {d d1 d2 d3 d4 d5 : Dev}

/-! ### Activations (R154, Table 7.1) -/

/-- An activation that keeps a bit for each element: the mask, where it is kept, and then the outputs. -/
theorem actM_masked_gives {op : ActOp} {xs : List (List W32)} {keep : W32 → Bool} {f : W32 → W32}
    (kind : op.kind = .relu ∨ (∃ a, op.kind = .leaky a) ∨ ∃ lo hi, op.kind = .clamp lo hi) (kept : keep = keepBit op.kind)
    (value : f = fun x => actVal op.kind x 0#32) (source : Gives (fetchF32 v op.x op.rows op.cols) d xs d1)
    (mask : Gives (if op.kept.addr ≠ 0 then putBytes v op.kept.addr (bitBytes (xs.map fun r => r.map keep)) else pure ()) d1 () d2)
    (store : Gives (putF32 v op.y (xs.map fun r => r.map f)) d2 () d3) : Gives (actM op v) d () d3 := by
  subst kept value
  have rest : Gives (actM.masked op v xs) d1 () d3 := by
    unfold actM.masked
    exact mask.bindIf store
  refine source.bind ?_
  rcases kind with k | ⟨a, k⟩ | ⟨lo, hi, k⟩ <;> rw [k] <;> exact rest

/-- A smooth activation: its input is kept in the code that the kept record names, and then the outputs. -/
theorem actM_plain_gives {op : ActOp} {xs : List (List W32)} {f : W32 → W32} (kind : op.kind = .gelu ∨ op.kind = .silu)
    (value : f = fun x => actVal op.kind x 0#32) (source : Gives (fetchF32 v op.x op.rows op.cols) d xs d1)
    (keep : Gives (keepInput v op.kept xs op.cols) d1 () d2) (store : Gives (putF32 v op.y (xs.map fun r => r.map f)) d2 () d3) :
    Gives (actM op v) d () d3 := by
  subst value
  have rest : Gives (actM.plain op v xs) d1 () d3 := keep.bind store
  refine source.bind ?_
  rcases kind with k | k <;> rw [k] <;> exact rest

/-- The gated activation reads a second operand. -/
theorem actM_gated_gives {op : ActOp} {xs x2 : List (List W32)} (kind : op.kind = .gated)
    (source : Gives (fetchF32 v op.x op.rows op.cols) d xs d1) (second : Gives (fetchPlain v op.x2 op.rows op.cols) d1 x2 d2)
    (keep : Gives (keepInput v op.kept xs op.cols) d2 () d3)
    (store : Gives (putF32 v op.y ((xs.zip x2).map fun (a, b) => (a.zip b).map fun (x, y) => actVal op.kind x y)) d3 () d4) :
    Gives (actM op v) d () d4 := by
  refine source.bind ?_
  rw [kind] at store ⊢
  exact second.bind (keep.bind store)

/-- A normalisation keeps r of its rows, and their means where it has means. -/
theorem actM_norm_gives {op : ActOp} {xs g : List (List W32)} {meanVar : Bool} {eps : W32} {rs : List (W32 × W32 × List W32)}
    (kind : (op.kind = .rmsNorm eps ∧ meanVar = false) ∨ (op.kind = .meanVarNorm eps ∧ meanVar = true))
    (source : Gives (fetchF32 v op.x op.rows op.cols) d xs d1) (gamma : Gives (fetchPlain v op.x2 1 op.cols) d1 g d2)
    (rows : rs = xs.map fun x => normRow meanVar eps x (g.headD []))
    (roots : Gives (if op.kept.addr ≠ 0 then putF32 v op.kept.addr [rs.map (·.2.1)] else pure ()) d2 () d3)
    (means : Gives (if op.kept.addr ≠ 0 ∧ meanVar = true then putF32 v op.aux [rs.map (·.1)] else pure ()) d3 () d4)
    (store : Gives (putF32 v op.y (rs.map (·.2.2))) d4 () d5) : Gives (actM op v) d () d5 := by
  subst rows
  have rest : Gives (actM.norm op v meanVar eps xs) d1 () d5 := by
    refine gamma.bind ?_
    by_cases kept : op.kept.addr ≠ 0
    · simp only [kept, if_true, ne_eq, not_false_eq_true, true_and] at roots means ⊢
      exact roots.bind (means.bindIf store)
    · simp only [kept, if_false, false_and] at roots means ⊢
      cases roots
      cases means
      exact store
  refine source.bind ?_
  rcases kind with ⟨k, rfl⟩ | ⟨k, rfl⟩ <;> rw [k] <;> exact rest

/-! ### Activations backward (Table 7.1, last column) -/

/-- Backward of an activation with a mask: the kept bit passes the gradient, and its absence drops it. -/
theorem actBackM_masked_gives {op : ActBwOp} {dy : List (List W32)} {bits : List (List Bool)} {drop : W32 → W32}
    (kind : ((op.kind = .relu ∨ ∃ lo hi, op.kind = .clamp lo hi) ∧ drop = fun _ => 0#32) ∨
      ∃ a, op.kind = .leaky a ∧ drop = fun g => fmul g a)
    (source : Gives (fetchPlain v op.dy op.rows op.cols) d dy d1)
    (mask : Gives (fetchBits v op.kept.addr op.rows op.cols) d1 bits d2)
    (store : Gives (putF32 v op.dx ((dy.zip bits).map fun (g, b) => (g.zip b).map fun (g, b) => if b then g else drop g)) d2 () d3) :
    Gives (actBackM op v) d () d3 := by
  have rest : Gives (actBackM.masked op v dy drop) d1 () d3 := mask.bind store
  refine source.bind ?_
  rcases kind with ⟨k | ⟨lo, hi, k⟩, rfl⟩ | ⟨a, k, rfl⟩ <;> rw [k] <;> exact rest

/-- Backward of a smooth activation: the gradient times the derivative at the kept input. -/
theorem actBackM_smooth_gives {op : ActBwOp} {dy xs : List (List W32)} {grad : W32 → W32}
    (kind : (op.kind = .gelu ∧ grad = Sys2Proof.Config.geluGrad) ∨ (op.kind = .silu ∧ grad = Sys2Proof.Config.siluGrad))
    (source : Gives (fetchPlain v op.dy op.rows op.cols) d dy d1) (input : Gives (fetchF32 v op.kept op.rows op.cols) d1 xs d2)
    (store : Gives (putF32 v op.dx ((dy.zip xs).map fun (g, x) => (g.zip x).map fun (g, x) => fmul g (grad x))) d2 () d3) :
    Gives (actBackM op v) d () d3 := by
  have rest : Gives (actBackM.smooth op v dy grad) d1 () d3 := input.bind store
  refine source.bind ?_
  rcases kind with ⟨k, rfl⟩ | ⟨k, rfl⟩ <;> rw [k] <;> exact rest

/-- Backward of the gated activation, whose two operands each have a gradient. -/
theorem actBackM_gated_gives {op : ActBwOp} {dy xs x2 : List (List W32)} (kind : op.kind = .gated)
    (source : Gives (fetchPlain v op.dy op.rows op.cols) d dy d1) (input : Gives (fetchF32 v op.kept op.rows op.cols) d1 xs d2)
    (second : Gives (fetchPlain v op.x2 op.rows op.cols) d2 x2 d3)
    (first : Gives (putF32 v op.dx ((dy.zip (xs.zip x2)).map fun (g, x, z) => (g.zip (x.zip z)).map fun (g, x, z) =>
      fmul (fmul g z) (Sys2Proof.Config.gateGrad x))) d3 () d4)
    (other : Gives (putF32 v op.dx2 ((dy.zip (xs.zip x2)).map fun (g, x, z) => (g.zip (x.zip z)).map fun (g, x, _) =>
      fmul g (Sys2Proof.Config.gate x))) d4 () d5) : Gives (actBackM op v) d () d5 := by
  refine source.bind ?_
  rw [kind]
  refine input.bind (second.bind ?_)
  simp only [List.map_map]
  exact first.bind other

/-! ### Dropout (R156) -/

theorem dropoutM_gives {op : DropOp} {xs : List (List W32)} {us : List W32} (known : 2 ^ 40 ≤ op.tensor.toNat)
    (source : Gives (fetchPlain v op.src op.rows op.cols) d xs d1)
    (draws : d1.drawRect v.core 0 (v.seed d1) op.tensor op.row0 op.col0 op.rows op.cols = (us, d2))
    (store : Gives (putF32 v op.dst ((xs.zip (chunksOf op.cols us)).map fun (x, u) =>
      (x.zip u).map fun (x, u) => dropVal op.thr (v.scalar d1 op.scl) x u)) d2 () d3) : Gives (dropoutM op v) d () d3 := by
  unfold dropoutM
  simp only [Nat.not_lt.2 known, if_false]
  refine source.bind (Eq.trans ?_ store)
  rw [get_bind, draws]
  rfl

/-! ### Normalisation backward (R161) -/

/-- A core that ends the pass, on its own sums or on totals that it reads, writes dx and adds to its DGAMMA buffer. -/
theorem normBackM_finish_gives {op : NormBwOp} {rows : List NormRow} {buf : List W32} {sums : List (W32 × W32)}
    (operands : Gives (normIn op v) d (rows, buf) d1)
    (part : (op.part = .whole ∧ sums = rows.map (normPartial op.meanVar) ∧ d2 = d1) ∨
      ∃ w xs, op.part = .finish w ∧ Gives (fetchPlain v w op.rows 2) d1 xs d2 ∧ sums = sumPairs xs)
    (dx : Gives (putF32 v op.dx (normDxRows op rows sums)) d2 () d3)
    (dgamma : Gives (putF32 v op.dgamma [normGamma rows buf]) d3 () d4) : Gives (normBackM op v) d () d4 := by
  have ends : Gives (normFinish op v rows buf sums) d2 () d4 := dx.bind dgamma
  refine operands.bind ?_
  rcases part with ⟨whole, rfl, rfl⟩ | ⟨w, xs, finish, totals, rfl⟩
  · simpa only [whole] using ends
  · simp only [finish]
    exact totals.bind ends

/-- A core that does not end the pass pushes its own sums. -/
theorem normBackM_push_gives {op : NormBwOp} {rows : List NormRow} {buf : List W32} {w : Word} (part : op.part = .push w)
    (operands : Gives (normIn op v) d (rows, buf) d1)
    (push : Gives (putF32 v w (sumRows (rows.map (normPartial op.meanVar)))) d1 () d2) : Gives (normBackM op v) d () d2 := by
  refine operands.bind ?_
  simpa only [part] using push

/-- The lowest core joins the others' sums to its own and writes the totals. -/
theorem normBackM_join_gives {op : NormBwOp} {rows : List NormRow} {buf : List W32} {ws : List Word} {w : Word}
    {ps : List (List (W32 × W32))} (part : op.part = .join ws w) (operands : Gives (normIn op v) d (rows, buf) d1)
    (others : Gives (ws.mapM fun a => return sumPairs (← fetchPlain v a op.rows 2)) d1 ps d2)
    (totals : Gives (putF32 v w (sumRows (normTotals (rows.map (normPartial op.meanVar)) ps))) d2 () d3) :
    Gives (normBackM op v) d () d3 := by
  refine operands.bind ?_
  simp only [part]
  exact others.bind totals

/-! ### The vocabulary head (R164) -/

theorem vocabM_gives {op : VocabOp} {rx rw : TRec} {x w : List (List Elt)} (operands : Gives (vocabIn v op) d (rx, x, rw, w) d1)
    (store : Gives (putF32 v op.lse [x.map fun r => lse (numbered (logits rx rw op.group r w))])
      (d1.flagResults v.c v.core v.learning (x.flatMap fun r => logitSteps rx rw op.group r w)) () d2) :
    Gives (vocabM op v) d () d2 :=
  operands.bind ((Gives.update _ d1).bind store)

theorem vocabBackM_gives {op : VocabBwOp} {rx rw : TRec} {x w : List (List Elt)} {dz : List (List W32)}
    (operands : Gives (vocabBackIn op v) d ((rx, x), (rw, w), dz) d1)
    (dx : Gives (putF32 v op.dx (dz.map fun z => combine op.fwd.dim z (w.map fun r => r.map (Elt.val rw))))
      (d1.flagResults v.c v.core v.learning ((x.flatMap fun r => logitSteps rx rw op.fwd.group r w) ++ dz.flatten)) () d2)
    (dw : Gives (putF32 v op.dw ((List.range op.fwd.vocab).map fun i =>
      combine op.fwd.dim (dz.map fun z => z.getD i 0#32) (x.map fun r => r.map (Elt.val rx)))) d2 () d3) :
    Gives (vocabBackM op v) d () d3 :=
  operands.bind ((Gives.update _ d1).bind (dx.bind dw))

end

/-! ### The commands -/

section
variable {s : State} {core seq c : Nat} {y : Clause} {rsp : TierRsp} {e : Dev}

theorem activationInstruction_next {op : ActOp} (ready : s.dev.Ready core seq c y vectorUnit)
    (parts : Gives (actM op ⟨c, core, seq, y, rsp⟩) (s.dev.issuesOn core seq vectorUnit (ActOp.spans op)) () e) :
    exec (.activationInstruction core seq op rsp) s = .next (s.withDev e) :=
  run_withDev (by simp [Instr.wf, ready.wf]) (Dev.instr_gives _ rsp (actM op) ready parts)

theorem activationBackward_next {op : ActBwOp} (ready : s.dev.Ready core seq c y vectorUnit)
    (parts : Gives (actBackM op ⟨c, core, seq, y, rsp⟩) (s.dev.issuesOn core seq vectorUnit (ActBwOp.spans op)) () e) :
    exec (.activationBackward core seq op rsp) s = .next (s.withDev e) :=
  run_withDev (by simp [Instr.wf, ready.wf]) (Dev.instr_gives _ rsp (actBackM op) ready parts)

theorem normBackward_next {op : NormBwOp} (ready : s.dev.Ready core seq c y vectorUnit)
    (parts : Gives (normBackM op ⟨c, core, seq, y, rsp⟩) (s.dev.issuesOn core seq vectorUnit (NormBwOp.spans op)) () e) :
    exec (.normBackward core seq op rsp) s = .next (s.withDev e) :=
  run_withDev (by simp [Instr.wf, ready.wf]) (Dev.instr_gives _ rsp (normBackM op) ready parts)

end

/-- The masked activations' bits and values, as the model's functions give them. -/
theorem masked_kind {k : ActKind} {keep : W32 → Bool} {f : W32 → W32}
    (h : (k = .relu ∧ keep = (fun x => fgt x 0#32) ∧ f = fun x => if (f32 x).isNan then qnan else if fgt x 0#32 then x else 0#32) ∨
      (∃ a, k = .leaky a ∧ keep = (fun x => fgt x 0#32) ∧ f = fun x => if fgt x 0#32 then x else fmul x a) ∨
      (∃ lo hi, k = .clamp lo hi ∧ keep = (fun x => x != 0x80000000#32 && (fgt x lo && fgt hi x)) ∧
        f = fun x => if (f32 x).isNan then qnan else if fgt x lo && fgt hi x then x else if fgt x lo then hi else lo)) :
    (k = .relu ∨ (∃ a, k = .leaky a) ∨ ∃ lo hi, k = .clamp lo hi) ∧ keep = keepBit k ∧ f = fun x => actVal k x 0#32 := by
  rcases h with ⟨rfl, rfl, rfl⟩ | ⟨a, rfl, rfl, rfl⟩ | ⟨lo, hi, rfl, rfl, rfl⟩
  · exact ⟨.inl rfl, rfl, rfl⟩
  · exact ⟨.inr (.inl ⟨a, rfl⟩), rfl, rfl⟩
  · exact ⟨.inr (.inr ⟨lo, hi, rfl⟩), rfl, rfl⟩

/-- Settles O14: each instruction reads its operands and takes the branch of its kind, whose parts each give their value. -/
theorem learningInstructionsComplete : Obligations.LearningInstructionsComplete := by
  refine ⟨fun s core seq c y op rsp xs keep f d1 d2 d3 ready kind source mask store => ?_,
    fun s core seq c y op rsp xs f d1 d2 d3 ready kind source keep store => ?_,
    fun s core seq c y op rsp xs x2 d1 d2 d3 d4 ready kind source second keep store => ?_,
    fun s core seq c y op rsp xs g meanVar eps rs d1 d2 d3 d4 d5 ready kind source gamma rows roots means store => ?_,
    fun s core seq c y op rsp dy bits drop d1 d2 d3 ready kind source mask store => ?_,
    fun s core seq c y op rsp dy xs grad d1 d2 d3 ready kind source input store => ?_,
    fun s core seq c y op rsp dy xs x2 d1 d2 d3 d4 d5 ready kind source input second first other => ?_,
    fun s core seq c y op rsp xs us d1 d2 d3 ready coords known source draws store => ?_,
    fun s core seq c y op rsp rows buf d1 ready operands => ⟨fun sums d2 d3 d4 part dx dgamma => ?_, fun w d2 part push => ?_,
      fun ws w ps d2 d3 part others totals => ?_⟩,
    fun s core seq c y op rsp rx rw x w d1 d2 ready operands store => ?_,
    fun s core seq c y op rsp rx rw x w dz d1 d2 d3 ready operands dx dw => ?_⟩
  · obtain ⟨masked, kept, value⟩ := masked_kind kind
    exact activationInstruction_next ready (actM_masked_gives masked kept value source mask store)
  · refine activationInstruction_next ready (actM_plain_gives (kind.imp And.left And.left) ?_ source keep store)
    rcases kind with ⟨k, rfl⟩ | ⟨k, rfl⟩ <;> rw [k] <;> rfl
  · exact activationInstruction_next ready (actM_gated_gives kind source second keep (by rw [kind]; exact store))
  · exact activationInstruction_next ready (actM_norm_gives kind source gamma rows roots means store)
  · exact activationBackward_next ready (actBackM_masked_gives kind source mask store)
  · exact activationBackward_next ready (actBackM_smooth_gives kind source input store)
  · exact activationBackward_next ready (actBackM_gated_gives kind source input second first other)
  · exact run_withDev (by simp [Instr.wf, ready.wf, coords])
      (Dev.instr_gives _ rsp (dropoutM op) ready (dropoutM_gives known source draws store))
  · exact normBackward_next ready (normBackM_finish_gives operands part dx dgamma)
  · exact normBackward_next ready (normBackM_push_gives part operands push)
  · exact normBackward_next ready (normBackM_join_gives part operands others totals)
  · exact run_withDev (by simp [Instr.wf, ready.wf]) (Dev.instr_gives _ rsp (vocabM op) ready (vocabM_gives operands store))
  · exact run_withDev (by simp [Instr.wf, ready.wf]) (Dev.instr_gives _ rsp (vocabBackM op) ready (vocabBackM_gives operands dx dw))

end Sys2Proof.Machine
end

section
/-! PROOFS. Update units (chapter 8): the descriptors from their UPD to their completion: O19. -/

namespace Sys2Proof.Machine

/-! ### What the descriptors' bookkeeping leaves of a context -/

/-- An issue changes no context. -/
@[simp] theorem Dev.issues_ctx (d : Dev) (core seq m : Nat) : (d.issues core seq).ctx m = d.ctx m := rfl

/-- The units' statuses stand in registers: to bring them up to date changes no context. -/
@[simp] theorem Dev.showUnits_ctx (d : Dev) (m : Nat) : d.showUnits.ctx m = d.ctx m :=
  Dev.each_induct (·.ctx m = d.ctx m) _ _ _ rfl fun _ _ _ kept => kept

@[simp] theorem Dev.countWatches_ctx (d : Dev) (c m : Nat) : (d.countWatches c).ctx m = d.ctx m := by
  rw [Dev.countWatches, Dev.showUnits_ctx, Dev.put_ctx]

@[simp] theorem Dev.modUpd_watches (d : Dev) (c id : Nat) (f : Upd → Upd) : ((d.modUpd c id f).ctx c).watches = (d.ctx c).watches := by
  rw [Dev.modUpd, Dev.modCtx_ctx]

@[simp] theorem Dev.modUpd_latPend (d : Dev) (c id : Nat) (f : Upd → Upd) : ((d.modUpd c id f).ctx c).latPend = (d.ctx c).latPend := by
  rw [Dev.modUpd, Dev.modCtx_ctx]

/-! ### Runs of a unit's parts -/

/-- A part that gives its value, as a command runs it. -/
theorem Gives.run_ok {α : Type} {m : ClauseM α} {d d1 : Dev} {x : α} (h : Gives m d x d1) : m.run d = .ok x d1 := h

/-! ### The units of a descriptor (R174) -/

/-- Where the units that a descriptor names start: unit `i` of `n` at chunk `i`. -/
def UDesc.starts (u : UDesc) : List (Nat × Nat) := (List.range u.unitList.length).map fun i => (u.unitList.getD i 0, i)

theorem UDesc.starts_units (u : UDesc) : u.starts.map (·.1) = u.unitList := by
  refine List.ext_getElem (by simp [UDesc.starts]) fun i _ named => ?_
  simp [UDesc.starts, List.getElem?_eq_getElem named]

/-! ### A descriptor of a context whose work goes on -/

section
variable {d d1 : Dev} {c id : Nat} {x : Upd}

theorem Dev.withUpd_working (works : d.working c = true) (found : (d.ctx c).upds.find? (fun z => z.id = id) = some x)
    (f : Upd → UDesc → Dev → Dev) : d.withUpd c id f = f x (UDesc.of x.bytes) d := by
  rw [Dev.withUpd, found]
  exact if_pos works

/-- A descriptor of the operation that has not begun begins, and its meaning runs. -/
theorem Dev.begin_working {op : Nat} (works : d.working c = true) (found : (d.ctx c).upds.find? (fun z => z.id = id) = some x)
    (operation : (UDesc.of x.bytes).op = op) (fresh : x.begun = false) (f : Upd → UDesc → Dev → Dev) :
    d.begin c id op f = f x (UDesc.of x.bytes) (d.modUpd c id fun z => { z with begun := true }) := by
  rw [Dev.begin, Dev.withUpd_working works found]
  exact if_pos (by simp [operation, fresh])

/-! ### APPLY (R177, R181) -/

/-- Without PEND UPDATE the descriptor skips. -/
theorem Dev.apply_skips {rsp : TierRsp} (works : d.working c = true) (found : (d.ctx c).upds.find? (fun z => z.id = id) = some x)
    (op : (UDesc.of x.bytes).op = 0) (fresh : x.begun = false) (good : x.status = 0) (pend : (d.ctx c).latPend ≠ 1) :
    d.apply c id rsp = (d.modUpd c id fun z => { z with begun := true }).endEarly c id 0 true := by
  rw [Dev.apply, Dev.begin_working works found op fresh]
  simp only [good, Dev.modUpd_latPend, pend, ne_eq, not_true_eq_false, not_false_eq_true, if_true, if_false]

/-- With PEND UPDATE the counts are read: the region's, or one for each listed row (R186). -/
theorem Dev.apply_reads {rsp : TierRsp} {cs : List (List Byte)} (works : d.working c = true)
    (found : (d.ctx c).upds.find? (fun z => z.id = id) = some x) (op : (UDesc.of x.bytes).op = 0) (fresh : x.begun = false)
    (good : x.status = 0) (pend : (d.ctx c).latPend = 1)
    (counts : Gives (if (UDesc.of x.bytes).emb then x.list.mapM fun r =>
        UEnv.read ⟨c, UDesc.of x.bytes, none, rsp⟩ ((UDesc.of x.bytes).cnt + 4 * r) 4 else do
      let b ← UEnv.read ⟨c, UDesc.of x.bytes, none, rsp⟩ (UDesc.of x.bytes).cnt 4
      pure [b]) (d.modUpd c id fun z => { z with begun := true }) cs d1) :
    d.apply c id rsp = d1.modUpd c id fun z => { z with total := (UDesc.of x.bytes).chunks, counts := cs.map leNat } := by
  rw [Dev.apply, Dev.begin_working works found op fresh]
  simp only [good, Dev.modUpd_latPend, pend, ne_eq, not_true_eq_false, if_false]
  rw [counts.run_ok]

/-! ### WATCH, UNWATCH and REDUCE (R179, R180) -/

/-- A WATCH within both limits arms its range, last among its context's. -/
theorem Dev.watch_arms (works : d.working c = true) (found : (d.ctx c).upds.find? (fun z => z.id = id) = some x)
    (op : (UDesc.of x.bytes).op = 1) (fresh : x.begun = false) (own : (d.ctx c).watches.length < 256)
    (all : ((d.modUpd c id fun z => { z with begun := true }).ctxs.foldl (fun n e => n + e.2.watches.length) 0) < 4096) :
    ((d.watch c id).ctx c).watches = (d.ctx c).watches ++
      [⟨(UDesc.of x.bytes).g, (UDesc.of x.bytes).elems, (UDesc.of x.bytes).grec.fmt, (UDesc.of x.bytes).grec.ts,
        (UDesc.of x.bytes).unitList.headD 0⟩] := by
  have room : (256 ≤ ((d.modUpd c id fun z => { z with begun := true }).ctx c).watches.length ||
      4096 ≤ (d.modUpd c id fun z => { z with begun := true }).ctxs.foldl (fun n e => n + e.2.watches.length) 0 : Bool) = false := by
    simp [own, all]
  rw [Dev.watch, Dev.begin_working works found op fresh]
  simp only [room, Bool.false_eq_true, if_false]
  rw [Dev.countWatches_ctx, Dev.modCtx_ctx, Dev.modUpd_watches]

/-- An UNWATCH disarms the ranges at its G_REF, and no other. -/
theorem Dev.unwatch_disarms (works : d.working c = true) (found : (d.ctx c).upds.find? (fun z => z.id = id) = some x)
    (op : (UDesc.of x.bytes).op = 2) (fresh : x.begun = false) :
    ((d.unwatch c id).ctx c).watches = (d.ctx c).watches.filter fun z => z.addr ≠ (UDesc.of x.bytes).g := by
  rw [Dev.unwatch, Dev.begin_working works found op fresh, Dev.countWatches_ctx, Dev.modCtx_ctx, Dev.modUpd_watches]

theorem Dev.reduce_starts (works : d.working c = true) (found : (d.ctx c).upds.find? (fun z => z.id = id) = some x)
    (op : (UDesc.of x.bytes).op = 3) (fresh : x.begun = false) (good : x.status = 0) :
    d.reduce c id = (d.modUpd c id fun z => { z with begun := true }).modUpd c id fun z =>
      { z with total := (UDesc.of x.bytes).chunks } := by
  rw [Dev.reduce, Dev.begin_working works found op fresh]
  exact if_neg (not_not.2 good)

/-! ### Chunks and passes (R174, R183) -/

/-- A unit whose turn has come to the context runs the descriptor's next chunk there, and counts it. -/
theorem Dev.updChunk_runs {unit k : Nat} {rsp : TierRsp} {x' : Upd} (works : d.working c = true)
    (found : (d.ctx c).upds.find? (fun z => z.id = id) = some x) (next : x.next.find? (fun e => e.1 = unit) = some (unit, k))
    (begun : x.begun = true) (left : k < x.total) (turn : d.unitTurn unit = some c)
    (chunk : Gives (UEnv.chunk ⟨c, UDesc.of x.bytes, some unit, rsp⟩ x (d.ctx c).latFactor k)
      (d.modUnit unit fun y => { y with last := some c }) x' d1) :
    d.updChunk c id unit rsp = (d1.modUpd c id fun _ => { x' with next := x.next.map fun e =>
      if e.1 = unit then (unit, k + (UDesc.of x.bytes).unitList.length) else e }).incMod F.updUnitStat_chunks unit := by
  have runs : (!x.begun || x.total ≤ k || d.unitTurn unit ≠ some c : Bool) = false := by simp [begun, left, turn]
  rw [Dev.updChunk, Dev.withUpd_working works found]
  simp only [next, runs, Bool.false_eq_true, if_false, Dev.modUnit_ctx]
  rw [chunk.run_ok]

/-- FACT, after the last chunk of pass A: the statistics are updated, and every unit starts over in pass B. -/
theorem Dev.factPassB_starts {rs : W32} (works : d.working c = true) (found : (d.ctx c).upds.find? (fun z => z.id = id) = some x)
    (fact : (UDesc.of x.bytes).fact = true) (passA : x.passB = false) (acts : x.skipped = false) (good : x.status = 0)
    (done : x.passDone = true) (stats : Gives (UEnv.factStats ⟨c, UDesc.of x.bytes, none, []⟩ x) d rs d1) :
    d.factPassB c id = d1.modUpd c id fun z => { z with passB := true, rs := rs, next := (UDesc.of x.bytes).starts } := by
  have starts : (!(UDesc.of x.bytes).fact || x.passB || x.skipped || x.status ≠ 0 || !x.passDone : Bool) = false := by
    simp [fact, passA, acts, good, done]
  rw [Dev.factPassB, Dev.withUpd_working works found]
  simp only [starts, Bool.false_eq_true, if_false]
  rw [stats.run_ok]
  rfl

/-! ### Completion (R176, R187) -/

/-- A descriptor without a chain whose last pass has completed leaves its context with the status that the write of its count left. -/
theorem Dev.updComplete_ends {x' : Upd} (works : d.working c = true) (found : (d.ctx c).upds.find? (fun z => z.id = id) = some x)
    (done : x.passDone = true) (last : ((UDesc.of x.bytes).fact && !x.passB && x.status = 0 && !x.skipped) = false)
    (chain : (UDesc.of x.bytes).chain = 0xFFFF) (count : d1 = if x.written then d else d.writeCount c x (UDesc.of x.bytes))
    (found' : (d1.ctx c).upds.find? (fun z => z.id = id) = some x') :
    d.updComplete c id = ((d1.modCtx c fun z => { z with upds := z.upds.filter fun u => u.id ≠ id }).countUpd c x'.status
      x.skipped).showUnits := by
  have ends : (!x.passDone || ((UDesc.of x.bytes).fact && !x.passB && x.status = 0 && !x.skipped) : Bool) = false := by
    rw [done, last]
    rfl
  rw [Dev.updComplete, Dev.withUpd_working works found]
  simp only [ends, chain, ← count, found', Bool.false_eq_true, if_false, if_true, Option.map_some, Option.getD_some]

end

/-! ### UPD (R172, R190) -/

/-- A descriptor as its acceptance records it. -/
def Upd.accepted (id core seq : Nat) (bs : List Byte) (st : Nat) (list srcs : List Nat) : Upd :=
  ⟨id, core, seq, bs, false, (UDesc.of bs).starts, 0, st, false, false, [], [], 0, list, [], srcs, false⟩

/-- The UPD issues, and its descriptor is queued behind those that its context's UPDs queued before. -/
def Dev.acceptUpd (d : Dev) (c core seq : Nat) (bs : List Byte) (st : Nat) (list srcs : List Nat) : Dev :=
  (((d.issues core seq).modCtx c fun z => { z with
    nextId := z.nextId + 1, upds := z.upds ++ [.accepted z.nextId core seq bs st list srcs] }).incMod F.updCtxCnt_issued c).showUnits

theorem Dev.acceptUpd_upds (d : Dev) (c core seq : Nat) (bs : List Byte) (st : Nat) (list srcs : List Nat) :
    ((d.acceptUpd c core seq bs st list srcs).ctx c).upds =
      (d.ctx c).upds ++ [.accepted (d.ctx c).nextId core seq bs st list srcs] := by
  rw [Dev.acceptUpd, Dev.showUnits_ctx, Dev.incMod_eq, Dev.put_ctx, Dev.modCtx_ctx, Dev.issues_ctx]

/-- A UPD of an aligned descriptor that lies in local store, finds room at every unit and passes every check is accepted. -/
theorem Dev.upd_accepts {d d1 : Dev} {core seq off c st : Nat} {y : Clause} {rsp : TierRsp} {list srcs : List Nat}
    (runs : d.Runs core seq c y) (aligned : off % 64 = 0) (inside : off + 192 ≤ storeBytes)
    (room : ∀ k ∈ (UDesc.of (d.lsRead core off 192)).unitList, d.unitQueue k < 256)
    (check : d.updCheck c seq (d.lsRead core off 192) = none)
    (lists : UEnv.lists ⟨c, UDesc.of (d.lsRead core off 192), none, rsp⟩ (d.ctx c).latPend d = (.ok (st, list, srcs), d1)) :
    d.upd core seq off rsp = d1.acceptUpd c core seq (d.lsRead core off 192) st list srcs := by
  have placed : (off % 64 ≠ 0 || storeBytes < off + 192 : Bool) = false := by simp [aligned, inside]
  have queued : ((UDesc.of (d.lsRead core off 192)).unitList.any fun k => 256 ≤ d.unitQueue k) = false := by simpa using room
  rw [Dev.upd, Dev.withClause_runs runs]
  simp only [placed, queued, check, lists, Bool.false_eq_true, if_false]
  rfl

/-! ### The commands -/

/-- Settles O19: each command finds the descriptor that its conditions name and takes the branch that they leave. -/
theorem updateCommandsComplete : Obligations.UpdateCommandsComplete := by
  refine ⟨fun s core seq off c st y rsp list srcs d1 runs aligned inside room check lists => ?_,
    fun s c id rsp x hc works found op fresh good => ⟨fun pend => ?_, fun cs d1 pend counts => ?_⟩,
    fun s c id x hc works found op fresh own all => ?_,
    fun s c id x hc works found op fresh => ?_,
    fun s c id x hc works found op fresh good => ?_,
    fun s c id unit k rsp x x' d1 hc hu works found next begun left turn chunk => ?_,
    fun s c id x rs d1 hc works found fact passA acts good done stats => ?_,
    fun s c id x x' d1 hc works found done last chain count found' => ?_⟩
  · exact ⟨_, _, run_withDev (by simp [Instr.wf, runs.wf]) (Dev.upd_accepts runs aligned inside room check lists),
      Dev.acceptUpd_upds _ _ _ _ _ _ _ _, rfl, rfl, rfl, rfl, rfl, rfl, rfl, UDesc.starts_units _⟩
  · exact run_withDev (decide_eq_true hc) (Dev.apply_skips works found op fresh good pend)
  · exact run_withDev (decide_eq_true hc) (Dev.apply_reads works found op fresh good pend counts)
  · exact ⟨_, run_withDev (decide_eq_true hc) rfl, Dev.watch_arms works found op fresh own all⟩
  · exact ⟨_, run_withDev (decide_eq_true hc) rfl, Dev.unwatch_disarms works found op fresh⟩
  · exact run_withDev (decide_eq_true hc) (Dev.reduce_starts works found op fresh good)
  · exact run_withDev (by simp [Instr.wf, hc, hu]) (Dev.updChunk_runs works found next begun left turn chunk)
  · exact run_withDev (decide_eq_true hc) (Dev.factPassB_starts works found fact passA acts good done stats)
  · exact run_withDev (decide_eq_true hc) (Dev.updComplete_ends works found done last chain count found')

end Sys2Proof.Machine
end

section
/-! PROOFS. The weight publish (chapter 9): its descriptors, and the events of a publish: O20 and O21. -/

namespace Sys2Proof.Machine

/-! ### CREATE and DESTROY (R198, R199) -/

section
variable {d d1 d2 : Dev} {q i c : Nat} {w : Waiter} {bs : List Byte} {rsp : TierRsp}

/-- CREATE past its checks, with a table that can be read and is in order, quota and tables for both banks, a run of frames for each, and
a source that can be read: the set is made from that source. -/
theorem Dev.wsCreate_makes {f0 f1 : Nat} {t img : Got} (stands : d.Stands q i 5 0 c w bs) (form : publishForm bs = true)
    (new : d.flag F.accSetCfg_valid (fieldAt bs 18 2) = false) (source : d.mapped c (fieldAt bs 48 8) (fieldAt bs 32 8) = true)
    (listed : d.mapped c (fieldAt bs 40 8) (8 * fieldAt bs 22 2) = true) (inside : fieldAt bs 24 8 + fieldAt bs 32 8 ≤ 2 ^ 50)
    (unmapped : (d.ctx c).anyLeaf ((granules (fieldAt bs 24 8) (fieldAt bs 32 8)).headD 0)
      (granules (fieldAt bs 24 8) (fieldAt bs 32 8)).length = false)
    (clear : d.deviceMeets c (fieldAt bs 24 8) (fieldAt bs 32 8) = false)
    (table : d.readVa c none rsp (fieldAt bs 40 8) (8 * fieldAt bs 22 2) = (t, d1)) (readable : t.bad = none)
    (ordered : tableOk t.raw (fieldAt bs 22 2) (fieldAt bs 32 8) = true) (quota : d1.quotaOk c 0 (2 * fieldAt bs 32 8) = true)
    (fits : d1.tablesFit c ((granules (fieldAt bs 24 8) (fieldAt bs 32 8)).foldl
      (fun ls g => SMap.set ls g (windowLeaf (fieldAt bs 18 2))) (d.ctx c).leaves) (2 * fieldAt bs 32 8) = true)
    (run0 : d1.bankRun (ceilDiv (fieldAt bs 32 8) pageBytes) = some f0)
    (run1 : (d1.setUsed 0 (SMap.set (d1.used 0) f0 (ceilDiv (fieldAt bs 32 8) pageBytes))).bankRun
      (ceilDiv (fieldAt bs 32 8) pageBytes) = some f1)
    (image : d1.readVa c none rsp (fieldAt bs 48 8) (fieldAt bs 32 8) = (img, d2)) (whole : img.bad = none) :
    d.wsCreate q i rsp =
      (d2.makeSet c (fieldAt bs 18 2) bs img.raw (shardTable t.raw (fieldAt bs 22 2)) f0 f1).complete w Status.ok 0 := by
  have placed : (!d.mapped c (fieldAt bs 48 8) (fieldAt bs 32 8) || !d.mapped c (fieldAt bs 40 8) (8 * fieldAt bs 22 2) ||
      2 ^ 50 < fieldAt bs 24 8 + fieldAt bs 32 8 ||
      (d.ctx c).anyLeaf ((granules (fieldAt bs 24 8) (fieldAt bs 32 8)).headD 0)
        (granules (fieldAt bs 24 8) (fieldAt bs 32 8)).length ||
      d.deviceMeets c (fieldAt bs 24 8) (fieldAt bs 32 8) : Bool) = false := by
    rw [source, listed, unmapped, clear, decide_eq_false (Nat.not_lt.2 inside)]
    rfl
  rw [Dev.wsCreate, Dev.withDesc_stands stands]
  simp only [form, new, placed, table, readable, ordered, quota, fits, run0, run1, image, whole]
  rfl

/-- DESTROY of a set of its context that no pool names ends it, and its AWAITs with INTEGRITY. -/
theorem Dev.wsDestroy_ends (stands : d.Stands q i 5 2 c w bs) (form : publishForm bs = true)
    (own : d.ownsSet c (fieldAt bs 18 2) = true) (unnamed : ∀ x < 256, d.poolNames x (fieldAt bs 18 2) = false) :
    d.wsDestroy q i = (d.endSet (fieldAt bs 18 2) Status.integrity).complete w Status.ok 0 := by
  have idle : ((List.range 256).any fun x => d.poolNames x (fieldAt bs 18 2)) = false := by simpa using unnamed
  rw [Dev.wsDestroy, Dev.withDesc_stands stands]
  simp only [form, own, idle]
  rfl

/-! ### AWAIT (R216) -/

/-- AWAIT on a set of its context is taken in, and waits behind those that wait on the set already. -/
theorem Dev.await_waits (stands : d.Stands q i 5 3 c w bs) (form : publishForm bs = true) (own : d.ownsSet c (fieldAt bs 18 2) = true) :
    d.await q i = (d.accept w).modWset (fieldAt bs 18 2) fun x => { x with awaits := x.awaits ++ [w] } := by
  rw [Dev.await, Dev.withDesc_stands stands]
  simp only [form, own]
  rfl

/-- Taking a descriptor in changes no set. -/
@[simp] theorem Dev.accept_wset (d : Dev) (w : Waiter) (m : Nat) : (d.accept w).wset m = d.wset m := rfl

/-! ### SEND (R201, R207) -/

/-- SEND past its checks, with a list that can be read and names shards of the set at mapped addresses: what of it can be read is sent, as
far as no pause holds its flits. -/
theorem Dev.sendSet_sends {d3 : Dev} {t : Got} {list : List (Nat × Nat)} {st : Option Nat} {shards : List Nat} {fs rest : List AccFlit}
    (stands : d.Stands q i 5 1 c w bs) (form : publishForm bs = true) (own : d.ownsSet c (fieldAt bs 18 2) = true)
    (epoch : fieldAt bs 56 4 ≠ 0xFFFFFFFF) (listed : d.mapped c (fieldAt bs 40 8) (16 * fieldAt bs 22 2) = true)
    (table : d.readVa c none rsp (fieldAt bs 40 8) (16 * fieldAt bs 22 2) = (t, d1)) (readable : t.bad = none)
    (reserved : ∀ k < fieldAt bs 22 2, allZero (slice t.raw (16 * k + 2) 6) = true)
    (entries : list = (List.range (fieldAt bs 22 2)).map fun k => (fieldAt t.raw (16 * k) 2, fieldAt t.raw (16 * k + 8) 8))
    (known : ∀ e ∈ list, e.1 < d1.shardsOf (fieldAt bs 18 2))
    (mapped : ∀ e ∈ list, d1.mapped c e.2 ((((d1.wset (fieldAt bs 18 2)).table[e.1]?).map (·.2)).getD 0) = true)
    (read : d1.readShards c (fieldAt bs 18 2) (fieldAt bs 56 4) rsp list = (st, shards, fs, d2))
    (injected : (d2.accept w).inject (fieldAt bs 18 2) fs = (rest, d3)) :
    d.sendSet q i rsp = { d3 with sends := d3.sends ++ [⟨w, fieldAt bs 18 2, fieldAt bs 56 4, shards, st.getD 0, rest⟩] } := by
  have epochOk : (!d.ownsSet c (fieldAt bs 18 2) ||
      (fieldAt bs 56 4 = 0xFFFFFFFF && d.get F.accEpoch_active (fieldAt bs 18 2) = 0xFFFFFFFF) : Bool) = false := by
    simp [own, epoch]
  have zeros : ((List.range (fieldAt bs 22 2)).any fun k => !allZero (slice t.raw (16 * k + 2) 6)) = false := by simpa using reserved
  have inSet : (list.any fun e => d1.shardsOf (fieldAt bs 18 2) ≤ e.1) = false :=
    List.any_eq_false.2 fun e he => by simpa using known e he
  have allMapped : (list.any fun e => !d1.mapped c e.2 ((((d1.wset (fieldAt bs 18 2)).table[e.1]?).map (·.2)).getD 0)) = false :=
    List.any_eq_false.2 fun e he => by simpa using mapped e he
  subst entries
  rw [Dev.sendSet, Dev.withDesc_stands stands]
  simp only [form, epochOk, listed, table, readable, zeros, inSet, allMapped, read, injected]
  rfl

/-- A SEND none of whose flits waits leaves the SENDs, and completes with its status, its shards and its detached edges. -/
theorem Dev.sendComplete_ends {x : Sending} (found : d.sends.find? (fun x => x.who.q = q && x.who.idx = i) = some x)
    (done : d.stillSending x = false) :
    d.sendComplete q i = ({ d with sends := d.sends.filter fun y => y.who ≠ x.who }).complete x.who x.status
      (x.shards.length + d.edgesCut x % 2 ^ 16 * 2 ^ 32) := by
  simp only [Dev.sendComplete, found, done]
  rfl

end

/-- A completion changes no SEND. -/
@[simp] theorem Dev.complete_sends (d : Dev) (w : Waiter) (status result : Nat) : (d.complete w status result).sends = d.sends := rfl

/-- Settles O20: each descriptor passes the checks that its conditions state, and takes the branch that they leave. -/
theorem publishDescriptorsComplete : Obligations.PublishDescriptorsComplete := by
  refine ⟨fun s q i c f0 f1 w bs rsp t img d1 d2 stands form new source listed inside unmapped clear table readable ordered quota fits
      run0 run1 image whole => ?_,
    fun s q i c w bs rsp t list st shards fs rest d1 d2 d3 stands form own epoch listed table readable reserved entries known mapped
      read injected => ?_,
    fun s q i x hq hi found done awaited => ?_,
    fun s q i c w bs stands form own unnamed => ?_,
    fun s q i c w bs stands form own => ?_⟩
  · exact run_withDev stands.named (Dev.wsCreate_makes stands form new source listed inside unmapped clear table readable ordered
      quota fits run0 run1 image whole)
  · exact run_withDev stands.named (Dev.sendSet_sends stands form own epoch listed table readable reserved entries known mapped
      read injected)
  · refine ⟨_, run_withDev (by simp [Instr.wf, hq, hi]) (Dev.sendComplete_ends found done), Dev.complete_due _ _ awaited,
      fun y hy => ?_⟩
    rw [State.withDev, Dev.complete_sends] at hy
    exact of_decide_eq_true (List.mem_filter.1 hy).2
  · exact run_withDev stands.named (Dev.wsDestroy_ends stands form own unnamed)
  · refine ⟨_, run_withDev stands.named (Dev.await_waits stands form own), ?_⟩
    rw [State.withDev, Dev.modWset_wset, Dev.accept_wset]

/-! ### Arrivals and the release of a bank (R200, R204, R211) -/

section
variable {d : Dev}

/-- A data or END flit goes to every set bound to its group and tag, through the pool of its port's F-die. -/
theorem Dev.accordFlitArrive_lands {f : AccFlit} (port : Nat) (kind : f.kind < 2) :
    d.accordFlitArrive port f =
      (d.each (d.boundSets f.group f.gset) fun w d => d.acceptFlit (if port < 16 then 0 else 1) f w).watchAccord := by
  rw [Dev.accordFlitArrive, if_neg (by omega), if_neg (by omega)]

/-- A DETACH flit abandons its publish. -/
theorem Dev.detachFlitArrive_abandons {f : AccFlit} (kind : f.kind = 2) :
    d.detachFlitArrive f = d.abandonPublish f.group f.gset f.epoch := by
  rw [Dev.detachFlitArrive, if_pos kind]

/-- A HELD set whose inactive bank no step reads any more assembles, and takes the flits held for it in their order. -/
theorem Dev.bankRelease_takes {w : Nat} (valid : d.flag F.accSetCfg_valid w = true) (held : d.get F.accSetStat_state w = setHeld)
    (unread : d.inactiveRead w = false) :
    d.bankRelease w = ((((d.modWset w fun x => { x with held := [] }).put F.accSetStat_state w setAssembling).each (d.wset w).held
      fun h d => d.acceptFlit h.1 h.2 w).watchAccord) := by
  rw [Dev.bankRelease, if_pos (by simp [valid, held, unread])]

/-! ### Shares at their caps (R211) -/

section
variable {g gset epoch since : Nat} {edge : Option Nat}

/-- A share noted longer ago than STALL_US that still stands at its cap passes both checks of SHARE_DETACH. -/
theorem Dev.share_detachable (noted : (g, gset, epoch, edge, since) ∈ d.shares)
    (late : since + 1000 * max 1 (d.get F.accGrpCfg_stall_us g) < d.ns) (atCap : d.shareAtCap g gset epoch edge = true) :
    (!(d.shares.any fun s => s.1 = g && s.2.1 = gset && s.2.2.1 = epoch && s.2.2.2.1 = edge &&
        s.2.2.2.2 + 1000 * max 1 (d.get F.accGrpCfg_stall_us g) < d.ns) || !d.shareAtCap g gset epoch edge : Bool) = false := by
  have stood : (d.shares.any fun s => s.1 = g && s.2.1 = gset && s.2.2.1 = epoch && s.2.2.2.1 = edge &&
      s.2.2.2.2 + 1000 * max 1 (d.get F.accGrpCfg_stall_us g) < d.ns) = true :=
    List.any_eq_true.2 ⟨_, noted, by simpa using late⟩
  rw [stood, atCap]
  rfl

/-- A landing share that has stood at its cap too long: its publish is abandoned here, and the group counts it. -/
theorem Dev.shareDetach_landing (noted : (g, gset, epoch, none, since) ∈ d.shares)
    (late : since + 1000 * max 1 (d.get F.accGrpCfg_stall_us g) < d.ns) (atCap : d.shareAtCap g gset epoch none = true) :
    d.shareDetach g gset epoch none = (d.abandonPublish g gset epoch).incSat F.accGrpStat_detaches g := by
  rw [Dev.shareDetach]
  exact if_neg (ne_true_of_eq_false (Dev.share_detachable noted late atCap))

/-- An edge's share that has stood at its cap too long: the edge is detached, and a DETACH flit goes down it. -/
theorem Dev.shareDetach_edge {p : Nat} (noted : (g, gset, epoch, some p, since) ∈ d.shares)
    (late : since + 1000 * max 1 (d.get F.accGrpCfg_stall_us g) < d.ns) (atCap : d.shareAtCap g gset epoch (some p) = true) :
    d.shareDetach g gset epoch (some p) = (d.detachEdge g gset epoch p).enqueue p
      (flitsOf p 0xFFFF g (.acc ⟨2, g, gset, epoch, 0, 0, 0, (d.detachEdge g gset epoch p).groupRank g, []⟩) 0) := by
  rw [Dev.shareDetach]
  exact if_neg (ne_true_of_eq_false (Dev.share_detachable noted late atCap))

end

/-! ### An assembly that stands still (R212) -/

/-- A set that assembles, or is HELD, and has received no flit of its epoch for ASM_TMO gives the epoch up. -/
theorem Dev.asmTmo_abandons {w : Nat} (valid : d.flag F.accSetCfg_valid w = true) (busy : d.get F.accSetStat_state w ≠ setSteady)
    (still : (d.wset w).asmTime + 10 ^ 6 * (d.wset w).tmoMs ≤ d.ns) :
    d.asmTmo w = (d.abandonEpoch w (d.get F.accSetStat_asm w)).watchAccord := by
  rw [Dev.asmTmo]
  exact if_pos (by simpa [valid, busy] using still)

end

/-- Settles O21: each event finds the flits, the set or the share that its conditions describe, and takes the branch that they leave. -/
theorem publishEventsComplete : Obligations.PublishEventsComplete := by
  refine ⟨fun s port f hport kind => ?_,
    fun s w hw valid held unread => ?_,
    fun s g gset epoch since edge hg hgset hepoch noted late atCap => ⟨?_, ?_⟩,
    fun s f named kind => ?_,
    fun s w hw valid busy still => ?_⟩
  · exact run_withDev (decide_eq_true hport) (Dev.accordFlitArrive_lands port kind)
  · exact run_withDev (decide_eq_true hw) (Dev.bankRelease_takes valid held unread)
  · rintro rfl
    exact run_withDev (by simp [Instr.wf, hg, hgset, hepoch]) (Dev.shareDetach_landing noted late atCap)
  · rintro p rfl hp
    exact run_withDev (by simp [Instr.wf, hg, hgset, hepoch, hp]) (Dev.shareDetach_edge noted late atCap)
  · exact run_withDev named (Dev.detachFlitArrive_abandons kind)
  · exact run_withDev (decide_eq_true hw) (Dev.asmTmo_abandons valid busy still)

end Sys2Proof.Machine
end

section
/-! PROOFS. The sequence of a draw tile (chapter 10): O47. -/

namespace Sys2Proof.Machine

/-! ### Windows of a sequence (R217, R219) -/

/-- The 607 words of a sequence from word `n`. -/
def window (x : Nat → Word) (n : Nat) : List Word := (List.range 607).map fun j => x (n + j)

section
variable {x : Nat → Word}

theorem newest_window (x : Nat → Word) (n : Nat) : newest (window x n) = (x (n + 606)).extractLsb' 32 32 := by
  simp [newest, window, List.range_succ (n := 606)]

theorem window_tail (x : Nat → Word) (n : Nat) : (window x n).tail ++ [x (n + 607)] = window x (n + 1) := by
  have tail : (window x n).tail = (List.range 606).map fun j => x (n + 1 + j) := by
    simp [window, List.range_succ_eq_map (n := 606), Function.comp_def, Nat.add_assoc, Nat.add_comm 1]
  rw [tail]
  simp [window, List.range_succ (n := 606), Nat.add_right_comm n 1]

/-- The window moves on by the sum of its lagged words (R217). -/
theorem advance1_window (lag : ∀ n, 607 ≤ n → x n = x (n - 607) + x (n - 273)) (n : Nat) :
    advance1 (window x n) = window x (n + 1) := by
  have next : x (n + 607) = x n + x (n + 334) := by simpa using lag (n + 607) (Nat.le_add_left _ _)
  have head : (window x n).headD 0#64 = x n := by simp [window, List.range_succ_eq_map (n := 606)]
  have lagged : (window x n).getD 334 0#64 = x (n + 334) := by simp [window]
  rw [advance1, head, lagged, ← next, window_tail]

theorem advance_window (lag : ∀ n, 607 ≤ n → x n = x (n - 607) + x (n - 273)) (m n : Nat) :
    advance m (window x n) = window x (n + m) := by
  induction m generalizing n with
  | zero => rfl
  | succ m ih => rw [advance, advance1_window lag, ih, Nat.add_right_comm, Nat.add_assoc]

/-- The words of R219 are the first of the sequence. -/
theorem tileSeed_window {seed tensor : Word} {row col : Nat}
    (first : x 0 = mix64 (tileHash seed tensor row col + 0x9E3779B97F4A7C15#64) ||| 1#64)
    (others : ∀ j, 1 ≤ j → j < 607 → x j = mix64 (tileHash seed tensor row col + BitVec.ofNat 64 (j + 1) * 0x9E3779B97F4A7C15#64)) :
    tileSeed seed tensor row col = window x 0 := by
  have tail : ∀ j ∈ List.range 606,
      mix64 (tileHash seed tensor row col + BitVec.ofNat 64 (j + 1 + 1) * 0x9E3779B97F4A7C15#64) = x (0 + (j + 1)) := by
    intro j hj
    rw [Nat.zero_add, others (j + 1) (Nat.le_add_left _ _) (Nat.succ_lt_succ (List.mem_range.1 hj))]
  unfold tileSeed window
  rw [List.range_succ_eq_map (n := 606)]
  simp only [List.map_cons, List.map_map, List.headD_cons, List.tail_cons, Function.comp_def]
  rw [List.map_congr_left tail, first]
  simp

end

/-! ### The elements of a tile (R218, R220) -/

/-- A tile has a word for each of its elements. -/
theorem indexOf_lt (a b : Nat) : indexOf a b < 4096 := by
  unfold indexOf
  omega

/-- Two elements of a tile have two words. -/
theorem indexOf_inj {a b a' b' : Nat} (row : a / 64 = a' / 64) (col : b / 64 = b' / 64) (same : indexOf a b = indexOf a' b') :
    a = a' ∧ b = b' := by
  unfold indexOf at same
  omega

/-- Settles O47: the draw of an element is the newest word of its tile's window, moved on to the element's index. -/
theorem draw32IsTheUpperHalfOfItsWord : Obligations.Draw32IsTheUpperHalfOfItsWord := by
  refine ⟨?_, fun a b a' b' row col => ⟨indexOf_lt a b, indexOf_inj row col⟩⟩
  rintro seed tensor h a b x - - rfl first others lag
  rw [draw32, tileSeed_window first others, advance_window lag, newest_window]
  congr 2
  unfold indexOf
  omega

end Sys2Proof.Machine
end

section
/-! PROOFS. What a core's ports draw (chapter 10): O48. -/

namespace Sys2Proof.Machine

/-! ### Ports (R223) -/

/-- A port's words are its tile's sequence, moved on to its index. -/
def GenPort.Sound (g : GenPort) : Prop := g.words = advance g.index (tileSeed g.seed g.tensor g.row g.col)

theorem advance_advance (m n : Nat) (w : List Word) : advance m (advance n w) = advance (n + m) w := by
  induction n generalizing w with
  | zero => rw [Nat.zero_add, advance]
  | succ n ih => rw [advance, ih, Nat.succ_add, advance]

/-- A skip to an index, and the draw there. -/
theorem GenPort.Sound.skip {g : GenPort} (h : g.Sound) {k : Nat} (ahead : g.index ≤ k) :
    advance (k - g.index + 1) g.words = advance (k + 1) (tileSeed g.seed g.tensor g.row g.col) := by
  rw [h, advance_advance]
  congr 1
  omega

/-- A request draws the tile's word and leaves the port sound, whether it goes on from the port's state or reseeds. -/
theorem portDraw_sound {p : Option GenPort} (sound : ∀ g, p = some g → g.Sound) (seed tensor : Word) (a b : Nat) :
    (portDraw p seed tensor a b).value = draw32 seed tensor a b ∧ (portDraw p seed tensor a b).port.Sound := by
  cases p with
  | none => exact ⟨rfl, rfl⟩
  | some g =>
    by_cases same : g.seed = seed ∧ g.tensor = tensor ∧ g.row = a / 64 ∧ g.col = b / 64 ∧ g.index ≤ indexOf a b
    · obtain ⟨rfl, rfl, row, col, ahead⟩ := same
      have skip := (sound g rfl).skip ahead
      simp [portDraw, GenPort.Sound, draw32, row, col, ahead, skip]
    · have reseeds : (decide (g.seed = seed) && decide (g.tensor = tensor) && decide (g.row = a / 64) && decide (g.col = b / 64) &&
          decide (g.index ≤ indexOf a b)) = false := by simpa [and_assoc] using same
      simp [portDraw, GenPort.Sound, draw32, reseeds]

/-- The registers in which an instruction's issue and its draws count (R30, R223). -/
def drawRegs : List Reg := [.coreSeqStat, .coreStallCtr, .rngStat]

/-- What an instruction's issue and the draws of a core change: the registers that they count in, and the core's ports, which stay
sound. -/
structure Dev.DrawsTo (core : Nat) (d e : Dev) : Prop where
  regs : d.KeepsRegs drawRegs e
  stores : ∀ k, (e.core k).store = (d.core k).store
  sound : d.PortsSound core → e.PortsSound core

namespace Dev.DrawsTo
variable {core : Nat} {d d1 e : Dev}

theorem refl (core : Nat) (d : Dev) : d.DrawsTo core d := ⟨.refl _ d, fun _ => rfl, id⟩

theorem trans (h : d.DrawsTo core d1) (h' : d1.DrawsTo core e) : d.DrawsTo core e :=
  ⟨h.regs.trans h'.regs, fun k => (h'.stores k).trans (h.stores k), h'.sound ∘ h.sound⟩

theorem put (h : d.DrawsTo core e) {f : Fld} (counts : f.reg ∈ drawRegs) (i v j : Nat) :
    d.DrawsTo core (e.put f i v j) := ⟨h.regs.put counts i v j, h.stores, h.sound⟩

theorem incMod (h : d.DrawsTo core e) {f : Fld} (counts : f.reg ∈ drawRegs) (i n j : Nat) :
    d.DrawsTo core (e.incMod f i n j) := h.put counts i _ j

theorem incSat (h : d.DrawsTo core e) {f : Fld} (counts : f.reg ∈ drawRegs) (i n j : Nat) :
    d.DrawsTo core (e.incSat f i n j) := h.put counts i _ j

/-- A port of the core gets a sound state. -/
theorem setPort (h : d.DrawsTo core e) (port : Nat) {p : GenPort} (good : p.Sound) :
    d.DrawsTo core (e.modCore core fun x => { x with ports := SMap.set x.ports port p }) where
  regs := h.regs
  stores k := by
    by_cases here : k = core
    · rw [here, Dev.modCore_core, ← h.stores]
    · rw [Dev.modCore_core_ne _ _ _ _ here, h.stores]
  sound old q g := by
    rw [Dev.modCore_core]
    by_cases same : q = port
    · rw [same, SMap.find_set_self]
      rintro ⟨⟩
      exact good
    · rw [SMap.find_set_ne _ _ same]
      exact h.sound old q g

theorem banks (h : d.DrawsTo core e) (bs : List (Nat × Nat)) : d.DrawsTo core { e with banks := bs } := ⟨h.regs, h.stores, h.sound⟩

/-- A count that a condition asks for. -/
theorem ite {p : Prop} [Decidable p] (yes : d.DrawsTo core d1) (no : d.DrawsTo core e) : d.DrawsTo core (if p then d1 else e) := by
  split
  · exact yes
  · exact no

theorem touchBank (h : d.DrawsTo core e) (core' seq unit bank : Nat) : d.DrawsTo core (e.touchBank core' seq unit bank) :=
  ite h ((ite (h.incMod (f := F.coreStallCtr_count) (by decide) _ _ _) h).banks _)

/-- A context has the cores that it had. -/
theorem ownsCore (h : d.DrawsTo core e) (c k : Nat) : e.ownsCore c k = d.ownsCore c k := by
  unfold Dev.ownsCore
  rw [h.regs.get (f := F.coreState_state) (by decide), h.regs.get (f := F.coreState_ctx) (by decide)]

/-- A clause draws under the seed that it had (R224). -/
theorem seed (h : d.DrawsTo core e) (v : Env) : v.seed e = v.seed d := by
  unfold Env.seed
  rw [h.regs .rngSeedLive (by decide)]

theorem issuesOn (d : Dev) (core core' seq : Nat) (units : List Nat) (spans : List (Word × Nat)) :
    d.DrawsTo core (d.issuesOn core' seq units spans) := by
  have issued : d.DrawsTo core (d.issues core' seq) :=
    ((refl core d).put (f := F.coreSeqStat_state) (by decide) _ _ _).put (f := F.coreSeqStat_cause) (by decide) _ _ _
  unfold Dev.issuesOn
  dsimp only
  split
  · exact Dev.each_induct (d.DrawsTo core) _ _ _ issued fun _ _ _ h => h.touchBank _ _ _ _
  · exact issued

end Dev.DrawsTo

/-! ### Draws -/

section
variable {d : Dev} {core : Nat}

/-- A draw at a port whose state is sound answers draw32, whatever the port drew before (R221). -/
theorem Dev.draw_value (sound : d.PortsSound core) (port : Nat) (seed tensor : Word) (a b : Nat) :
    (d.draw core port seed tensor a b).1 = draw32 seed tensor a b := (portDraw_sound (sound port) seed tensor a b).1

/-- A draw leaves the ports sound, and counts its reseed and its skip. -/
theorem Dev.draw_drawsTo (sound : d.PortsSound core) (port : Nat) (seed tensor : Word) (a b : Nat) :
    d.DrawsTo core (d.draw core port seed tensor a b).2 := by
  have drawn := (DrawsTo.refl core d).setPort port (portDraw_sound (sound port) seed tensor a b).2
  have seeded := DrawsTo.ite (p := (portDraw (SMap.find (d.core core).ports port) seed tensor a b).reseeded = true)
    (drawn.incMod (f := F.rngStat_tiles) (by decide) core 1 0) drawn
  exact DrawsTo.ite seeded (seeded.incSat (f := F.rngStat_skip_cyc) (by decide) core _ 0)

/-- Draws answer draw32 of each coordinate, in whatever order they come. -/
theorem Dev.draws_sound (sound : d.PortsSound core) (port : Nat) (seed tensor : Word) (cs : List (Nat × Nat)) :
    (d.draws core port seed tensor cs).1 = cs.map (fun p => draw32 seed tensor p.1 p.2) ∧
      d.DrawsTo core (d.draws core port seed tensor cs).2 := by
  induction cs generalizing d with
  | nil => exact ⟨rfl, .refl core d⟩
  | cons p cs ih =>
    have one := d.draw_drawsTo sound port seed tensor p.1 p.2
    obtain ⟨values, left⟩ := ih (one.sound sound)
    exact ⟨congrArg₂ List.cons (d.draw_value sound port seed tensor p.1 p.2) values, one.trans left⟩

/-! ### The draws of a rectangle -/

/-- The device's order holds the coordinates of the rectangle, and no other (R78). -/
theorem mem_tileOrder {row0 col0 rows cols : Nat} {p : Nat × Nat} :
    p ∈ tileOrder row0 col0 rows cols ↔ row0 ≤ p.1 ∧ p.1 < row0 + rows ∧ col0 ≤ p.2 ∧ p.2 < col0 + cols := by
  obtain ⟨x, y⟩ := p
  simp only [tileOrder, List.mem_flatMap, List.mem_filterMap, List.mem_range]
  constructor
  · rintro ⟨tr, -, tc, -, a, -, b, -, h⟩
    split at h
    next inside =>
      cases h
      simpa [and_assoc] using inside
    next => cases h
  · rintro ⟨hx, hx', hy, hy'⟩
    have row : 64 * (row0 / 64 + (x / 64 - row0 / 64)) + x % 64 = x := by omega
    have col : 64 * (col0 / 64 + (y / 64 - col0 / 64)) + y % 64 = y := by omega
    refine ⟨x / 64 - row0 / 64, ?_, y / 64 - col0 / 64, ?_, x % 64, ?_, y % 64, ?_, ?_⟩
    · unfold ceilDiv
      omega
    · unfold ceilDiv
      omega
    · exact Nat.mod_lt _ (by decide)
    · exact Nat.mod_lt _ (by decide)
    · simp [row, col, hx, hx', hy, hy']

/-- A key of entries that agree, set one after the other, holds what they hold. -/
theorem SMap.get_foldl_set {α β : Type} {key : β → Nat} {val : β → α} {z v : α} {i : Nat} (ps : List β) (m : SMap α)
    (agree : ∀ p ∈ ps, key p = i → val p = v) (there : SMap.get m z i = v ∨ ∃ p ∈ ps, key p = i) :
    SMap.get (ps.foldl (fun m p => SMap.set m (key p) (val p)) m) z i = v := by
  induction ps generalizing m with
  | nil => simpa using there
  | cons p ps ih =>
    refine ih _ (fun q hq => agree q (List.mem_cons_of_mem _ hq)) ?_
    by_cases here : key p = i
    · left
      rw [← here, SMap.get_set_self, agree p List.mem_cons_self here]
    · rw [SMap.get_set_ne _ _ _ (Ne.symm here)]
      simpa [here] using there

/-- The place of a coordinate in row-major order is that of one coordinate of the rectangle alone. -/
theorem rowMajor_eq {row0 col0 rows cols i : Nat} {p : Nat × Nat} (inside : p ∈ tileOrder row0 col0 rows cols) :
    (p.1 - row0) * cols + (p.2 - col0) = i ↔ p = (row0 + i / cols, col0 + i % cols) := by
  obtain ⟨x, y⟩ := p
  obtain ⟨hx, -, hy, hy'⟩ := mem_tileOrder.1 inside
  have place : (x - row0) * cols + (y - col0) = i ↔ i / cols = x - row0 ∧ i % cols = y - col0 := by
    rw [Nat.div_mod_unique (by omega), Nat.mul_comm cols, Nat.add_comm]
    exact (and_iff_left (by omega)).symm
  rw [place, Prod.mk.injEq]
  omega

/-- The draws of a rectangle are answered as draw32 has them, whatever was drawn before and in what order (R221). -/
theorem Dev.drawRect_values (sound : d.PortsSound core) (port : Nat) (seed tensor : Word) (row0 col0 rows cols : Nat) :
    (d.drawRect core port seed tensor row0 col0 rows cols).1 =
      (List.range (rows * cols)).map fun n => draw32 seed tensor (row0 + n / cols) (col0 + n % cols) := by
  refine List.map_congr_left fun i hi => ?_
  rw [(d.draws_sound sound port seed tensor _).1, ← List.map_prod_left_eq_zip, List.foldl_map]
  have small := List.mem_range.1 hi
  have wide : 0 < cols := Nat.pos_of_ne_zero fun h => by simp [h] at small
  have inside : (row0 + i / cols, col0 + i % cols) ∈ tileOrder row0 col0 rows cols :=
    mem_tileOrder.2 ⟨Nat.le_add_right _ _, Nat.add_lt_add_left (Nat.div_lt_of_lt_mul (Nat.mul_comm _ _ ▸ small)) _,
      Nat.le_add_right _ _, Nat.add_lt_add_left (Nat.mod_lt _ wide) _⟩
  refine SMap.get_foldl_set _ _ (fun p hp at_ => ?_) (.inr ⟨_, inside, (rowMajor_eq inside).2 rfl⟩)
  rw [(rowMajor_eq hp).1 at_]

theorem Dev.drawRect_drawsTo (sound : d.PortsSound core) (port : Nat) (seed tensor : Word) (row0 col0 rows cols : Nat) :
    d.DrawsTo core (d.drawRect core port seed tensor row0 col0 rows cols).2 := (d.draws_sound sound port seed tensor _).2

end

/-! ### VECTOR_DRAW (R223) -/

/-- Bytes for the local store of one of the context's cores are written there. -/
theorem putBytes_ls {v : Env} {w : Word} {bs : List Byte} {d : Dev} {k off : Nat} (place : Addr.of w.toNat = .ls k off)
    (owns : d.ownsCore v.c k = true) (fits : off + bs.length ≤ storeBytes) : Gives (putBytes v w bs) d () (d.lsWrite k off bs) := by
  unfold Gives putBytes
  rw [place]
  dsimp only
  rw [get_bind, if_pos (by simp [owns, fits])]
  rfl

/-- A write of a store leaves every core's ports. -/
theorem Dev.lsWrite_ports (d : Dev) (k off : Nat) (bs : List Byte) (core : Nat) :
    ((d.lsWrite k off bs).core core).ports = (d.core core).ports := by
  by_cases here : core = k
  · rw [here, Dev.lsWrite, Dev.modCore_core]
  · rw [Dev.lsWrite, Dev.modCore_core_ne _ _ _ _ here]

/-- Bytes just written read as written. -/
theorem Dev.lsRead_lsWrite {d : Dev} {k : Nat} (off : Nat) (bs : List Byte) (canonical : (d.core k).store.wf = true) :
    (d.lsWrite k off bs).lsRead k off bs.length = bs := by
  rw [Dev.lsRead, Dev.lsWrite, Dev.modCore_core]
  exact Memory.readN_writeN _ _ _ canonical

/-- The bytes of a draw instruction's results, in row-major order. -/
def drawResults (op : DrawOp) (seed : Word) : List Byte :=
  f32Bytes ((List.range (op.rows * op.cols)).map fun n => draw32 seed op.tensor (op.row0 + n / op.cols) (op.col0 + n % op.cols))

theorem drawResults_length (op : DrawOp) (seed : Word) : (drawResults op seed).length = 4 * (op.rows * op.cols) := by
  rw [drawResults, f32Bytes_length, List.length_map, List.length_range]

/-- The instruction draws, which changes counters and ports alone, and then stores its results. -/
theorem Dev.vectorDraw_stores {d : Dev} {core seq c k off : Nat} {y : Clause} {op : DrawOp} (ready : d.Ready core seq c y vectorUnit)
    (known : 2 ^ 40 ≤ op.tensor.toNat) (sound : d.PortsSound core) (place : Addr.of op.dst.toNat = .ls k off)
    (owns : d.ownsCore c k = true) (fits : off + 4 * (op.rows * op.cols) ≤ storeBytes) :
    ∃ e, d.DrawsTo core e ∧ d.vectorDraw core seq op = e.lsWrite k off (drawResults op (Env.seed ⟨c, core, seq, y, []⟩ d)) := by
  have issue := Dev.DrawsTo.issuesOn d core core seq vectorUnit [(op.dst, 4 * (op.rows * op.cols))]
  have drawn := Dev.drawRect_drawsTo (issue.sound sound) 0 (Env.seed ⟨c, core, seq, y, []⟩ d) op.tensor op.row0 op.col0 op.rows op.cols
  have values := Dev.drawRect_values (issue.sound sound) 0 (Env.seed ⟨c, core, seq, y, []⟩ d) op.tensor op.row0 op.col0 op.rows op.cols
  have left := issue.trans drawn
  refine ⟨_, left, Dev.instr_gives _ [] (vectorDrawM op) ready (vectorDrawM_gives known ?_ (putBytes_ls place ?_ ?_))⟩
  · rw [issue.seed]
    exact Prod.ext values rfl
  · exact (left.ownsCore c k).trans owns
  · exact (drawResults_length op _).symm ▸ fits

/-- Settles O48: the instruction draws from ports that are and stay sound, and a read of the store gives back the draws. -/
theorem vectorDrawWritesTheDrawsOfItsCoordinates : Obligations.VectorDrawWritesTheDrawsOfItsCoordinates := by
  rintro s core seq c k off y op seed ready coords known sound place owns fits canonical named
  obtain ⟨e, drawn, ran⟩ := Dev.vectorDraw_stores ready known sound place owns fits
  have inForce : Env.seed ⟨c, core, seq, y, []⟩ s.dev = seed := by
    rw [named]
    cases h : y.gen <;> simp [Env.seed, Env.learning, h]
  rw [inForce] at ran
  refine ⟨_, run_withDev (by simp [Instr.wf, ready.wf, coords]) ran, fun port g at_ => ?_, ?_⟩
  · exact drawn.sound sound port g (e.lsWrite_ports k off _ core ▸ at_)
  · exact (drawResults_length op seed) ▸ Dev.lsRead_lsWrite off (drawResults op seed) ((drawn.stores k).symm ▸ canonical)

end Sys2Proof.Machine
end

section
/-! PROOFS. What a step and a command are, and that well-formed commands never stop the device: O1, O2, O3 and O44. -/

namespace Sys2Proof.Machine

/-- Settles O1: a step takes the front of the queue. -/
theorem stepRunsTheFrontCommand : Obligations.StepRunsTheFrontCommand := fun _ _ _ => rfl

/-- A command stops exactly where its check fails. -/
theorem Shape.stops_iff {i : Instr} (h : Shape i) (s : State) :
    (i.wf = false → exec i s = .fault .noSuchInstance) ∧ (i.wf = true → ∃ t, exec i s = .next t) := by
  obtain ⟨f, e⟩ | ⟨-, f, e⟩ := h
  · rw [e s]
    exact ⟨fun absent => by simp [run, absent], fun wf => ⟨_, run_ok f s wf⟩⟩
  · rw [e s]
    exact ⟨fun absent => by simp [runFlash, absent], fun wf => ⟨_, runFlash_ok f s wf⟩⟩

/-- A command changes the device, and the flash where it uses it, and leaves the queue behind it. -/
theorem Shape.pending_eq {i : Instr} (h : Shape i) {s t : State} (ran : exec i s = .next t) : t.pending = s.pending := by
  obtain ⟨f, e⟩ | ⟨-, f, e⟩ := h
  · obtain ⟨-, rfl⟩ := run_next ((e s).symm.trans ran)
    rfl
  · obtain ⟨-, rfl⟩ := runFlash_next ((e s).symm.trans ran)
    rfl

/-- A command that is not one of the four that use the flash leaves it. -/
theorem Shape.flash_eq {i : Instr} (h : Shape i) (unused : usesFlash i = false) {s t : State} (ran : exec i s = .next t) :
    t.flash = s.flash := by
  obtain ⟨f, e⟩ | ⟨uses, -, -⟩ := h
  · obtain ⟨-, rfl⟩ := run_next ((e s).symm.trans ran)
    rfl
  · exact absurd uses (ne_true_of_eq_false unused)

/-- Settles O2, by the shape that every command has. -/
theorem commandsStopOnlyOnAbsentUnits : Obligations.CommandsStopOnlyOnAbsentUnits := fun i s => (exec_shape i).stops_iff s

/-- Settles O3, by the shape that every command has. -/
theorem commandsKeepTheQueue : Obligations.CommandsKeepTheQueue := fun i _ _ ran => (exec_shape i).pending_eq ran

/-- A step of a well-formed queue answers, and the queue's front is gone. -/
theorem step_wellFormed {s : State} (h : s.WellFormed) : ∃ t, step s = .next t ∧ t.pending = s.pending.tail := by
  obtain ⟨pending, flash, dev⟩ := s
  cases pending with
  | nil => exact ⟨_, rfl, rfl⟩
  | cons i rest =>
    obtain ⟨t, ran⟩ := (commandsStopOnlyOnAbsentUnits i ⟨rest, flash, dev⟩).2 (h i (.head _))
    exact ⟨t, ran, commandsKeepTheQueue i _ t ran⟩

/-- What is left of a well-formed queue is well-formed. -/
theorem State.WellFormed.of_tail {s t : State} (h : s.WellFormed) (e : t.pending = s.pending.tail) : t.WellFormed :=
  fun i hi => h i (List.mem_of_mem_tail (e ▸ hi))

/-- Settles O44, by induction on the steps. -/
theorem wellFormedRunsNeverStop : Obligations.WellFormedRunsNeverStop := by
  intro s n
  induction n generalizing s with
  | zero => exact fun h => ⟨s, rfl, rfl, h⟩
  | succ n ih =>
    intro h
    obtain ⟨t, ran, front⟩ := step_wellFormed h
    obtain ⟨u, runs, gone, wf⟩ := ih t (h.of_tail front)
    refine ⟨u, ?_, ?_, wf⟩
    · rw [steps, ran]
      exact runs
    · rw [gone, front, List.drop_tail]

end Sys2Proof.Machine
end

section
/-! PROOFS. The event log and the security-version counter (chapters 17 and 18): O45, O46 and O55. -/

namespace Sys2Proof.Machine

/-! ### The event log (R387) -/

/-- The registers of the event log. -/
def logRegs : List Reg := [.secEvtHead, .secEvtInfo, .secEvtTime]

theorem Dev.logEvent_keeps (d : Dev) (code arg : Nat) : d.KeepsRegs logRegs (d.logEvent code arg) :=
  (((Dev.KeepsRegs.refl logRegs d).setReg (by decide) _ _ _).setReg (by decide) _ _ _).put (f := F.secEvtHead_total) (by decide) _ _ _

/-- An event changes registers alone. -/
theorem Dev.logEvent_frame (d : Dev) (code arg : Nat) : d.logEvent code arg = { d with regs := (d.logEvent code arg).regs } := rfl

/-! ### Fields of an image -/

theorem slice_length (bs : List Byte) (o n : Nat) : (slice bs o n).length = n := by
  simp only [slice, List.length_append, List.length_replicate, List.length_take]
  omega

theorem leNat_lt (bs : List Byte) : leNat bs < 256 ^ bs.length := by
  induction bs with
  | nil => exact Nat.one_pos
  | cons b bs ih =>
    have := b.isLt
    rw [leNat, List.length_cons, Nat.pow_succ]
    omega

/-- A field fits in its bytes. -/
theorem fieldAt_lt (bs : List Byte) (o n : Nat) : fieldAt bs o n < 256 ^ n := by
  have := leNat_lt (slice bs o n)
  rwa [slice_length] at this

/-! ### What the boot's own steps leave (R395) -/

/-- The registers in which the ROM records its checks of the images. -/
def bootRegs : List Reg := .bootStat :: logRegs

theorem Dev.bootCopy_keeps (d : Dev) (stage : Nat) (p : CopyPick) : d.KeepsRegs bootRegs (d.bootCopy stage p) :=
  ((Dev.KeepsRegs.refl bootRegs d).put (f := F.bootStat_copy) (by decide) _ _ _).put (f := F.bootStat_fallback) (by decide) _ _ _

theorem Dev.logPick_keeps (d : Dev) (stage : Nat) (p : CopyPick) : d.KeepsRegs bootRegs (d.logPick stage p) :=
  (Dev.KeepsRegs.refl bootRegs d).each _ fun _ d => (d.logEvent_keeps _ _).mono (List.subset_cons_self _ _)

/-- The boot stage is as it was; `d.Unbooted e` holds of each device before firmware starts. -/
def Dev.Unbooted (d e : Dev) : Prop := e.get F.secStat_stage 0 = d.get F.secStat_stage 0

theorem Dev.KeepsRegs.unbooted {S : List Reg} {d e : Dev} (h : d.KeepsRegs S e) (out : Reg.secStat ∉ S) : d.Unbooted e := h.get out 0 0

theorem Dev.Unbooted.trans {d d1 e : Dev} (h : d.Unbooted d1) (h' : d1.Unbooted e) : d.Unbooted e := Eq.trans h' h

theorem Dev.unbooted_logEvent (d : Dev) (code arg : Nat) : d.Unbooted (d.logEvent code arg) := (d.logEvent_keeps _ _).unbooted (by decide)

theorem Dev.unbooted_ctrOk (d : Dev) (v : Nat) : d.Unbooted (d.put F.secStat_ctr_ok 0 v) :=
  Dev.get_put_beside _ _ _ _ _ _ rfl (by decide) (by decide)

theorem Dev.unbooted_pufFail (d : Dev) (v : Nat) : d.Unbooted (d.put F.secStat_puf_fail 0 v) :=
  Dev.get_put_beside _ _ _ _ _ _ rfl (by decide) (by decide)

theorem Dev.unbooted_stay (d : Dev) (missing : List Nat) : d.Unbooted (d.stay missing) := rfl

/-- A cold reset holds the device before its boot. -/
theorem Dev.heldInReset_stage (d : Dev) : (d.heldInReset true).get F.secStat_stage 0 = 0 := by
  have other : (d.heldInReset true).reg .secStat 0 0 = (resetWord d.cfg .secStat 0 0).toNat :=
    Dev.reg_setReg_other _ _ _ _ _ _ (by decide)
  have zero : resetWord d.cfg .secStat 0 0 = 0 := rfl
  rw [Dev.get, show F.secStat_stage.reg = .secStat from rfl, other, zero]
  rfl

/-! ### The image that a stage boots (R369, R372) -/

/-- A copy that the ROM takes has no version below the flash counter. -/
theorem Flash.pick_svn {f : Flash} {slot : List Byte} {stage low copy : Nat} {good : List Byte → Bool} {img : List Byte}
    (h : (f.pick slot stage low good).found = some (copy, img)) : low ≤ svnOf img := by
  refine List.foldlRecOn (motive := fun r : CopyPick => ∀ x, r.found = some x → low ≤ svnOf x.2) _ _ (by simp) ?_ _ h
  intro r hr copy _ x
  split
  · exact hr x
  · split
    · split
      · simp
      · split
        · simp
        · rintro ⟨⟩
          exact Nat.le_of_not_lt ‹_›
    · simp

/-! ### Firmware's start (R395) -/

/-- A device that holds the versions of the images in `sec`, with the lowest of them in SEC_SVN.RUN. -/
structure Dev.HoldsVersions (sec : Sec) (d : Dev) : Prop where
  loader : d.sec.svnLoader = sec.svnLoader
  firmware : d.sec.svnFirmware = sec.svnFirmware
  config : d.sec.svnConfig = sec.svnConfig
  run : d.get F.secSvn_run 0 = min sec.svnLoader (min sec.svnFirmware sec.svnConfig) % 2 ^ F.secSvn_run.w

namespace Dev.HoldsVersions
variable {sec : Sec} {d : Dev}

theorem of_sec (h : d.sec = sec) (counter : Nat) :
    ((d.put F.secSvn_ctr 0 counter).put F.secSvn_run 0 (min sec.svnLoader (min sec.svnFirmware sec.svnConfig))).HoldsVersions sec :=
  ⟨congrArg Sec.svnLoader h, congrArg Sec.svnFirmware h, congrArg Sec.svnConfig h, Dev.get_put_self _ _ _ _ _ (by decide)⟩

theorem setReg (h : d.HoldsVersions sec) {r : Reg} (other : Reg.secSvn ≠ r) (i v j : Nat) : (d.setReg r i v j).HoldsVersions sec :=
  ⟨h.loader, h.firmware, h.config, (Dev.get_setReg_ne d _ _ _ _ _ other).trans h.run⟩

theorem put (h : d.HoldsVersions sec) {f : Fld} (other : Reg.secSvn ≠ f.reg) (i v j : Nat) : (d.put f i v j).HoldsVersions sec :=
  h.setReg other i _ j

theorem random (h : d.HoldsVersions sec) (n : Nat) : (d.random n).2.HoldsVersions sec := ⟨h.loader, h.firmware, h.config, h.run⟩

theorem freshNonce (h : d.HoldsVersions sec) (t : Nat) : (d.freshNonce t).HoldsVersions sec := by
  unfold Dev.freshNonce
  split
  · exact h
  · exact Dev.each_induct (Dev.HoldsVersions sec) _ _ _ (h.random 32) fun j _ d h => h.setReg (by decide) _ _ _

theorem setKey (h : d.HoldsVersions sec) (t mode : Nat) (key label : List Byte) : (d.setKey t mode key label).HoldsVersions sec :=
  Dev.HoldsVersions.put (d := { d with sec := { d.sec with keys := SMap.set d.sec.keys t (key, label) } })
    ⟨h.loader, h.firmware, h.config, h.run⟩ (f := F.tenSecStat_mode) (by decide) _ _ _

theorem localKey (h : d.HoldsVersions sec) (t : Nat) : (d.localKey t).HoldsVersions sec := by
  unfold Dev.localKey
  split
  · exact h.put (by decide) _ _ _
  · exact (h.random 64).setKey t 1 _ _

theorem timeStart (h : d.HoldsVersions sec) : d.timeStart.HoldsVersions sec := by
  unfold Dev.timeStart
  split
  · exact h.put (by decide) _ _ _
  · exact h

end Dev.HoldsVersions

/-- A device whose firmware has started runs on the images that it was started from. -/
theorem Dev.startFakin_holdsVersions (d : Dev) (cfg : SignedCfg) (sec : Sec) (counter : Nat) (certified : Bool) :
    (d.startFakin cfg sec counter certified).HoldsVersions sec := by
  unfold Dev.startFakin
  extract_lets d1 run d2 d3 d4 d5 d6
  have kept : d4.sec = sec := by
    refine Dev.each_induct (fun e => e.sec = sec) _ _ _ ?_ fun _ _ _ h => h
    show d3.sec = sec
    unfold d3
    split <;> rfl
  have shown := Dev.HoldsVersions.of_sec kept counter
  have started : d5.HoldsVersions sec := shown.put (f := F.bootStat_cfg_svn) (by decide) _ _ _
  have nonces := Dev.each_induct (Dev.HoldsVersions sec) d5 (List.range 64) (fun t d => d.freshNonce t) started fun t _ d h => h.freshNonce t
  exact ((nonces.localKey 0).timeStart.put (f := F.secStat_stage) (by decide) _ _ _).put (f := F.glbInfo_ready) (by decide) _ _ _

/-! ### How a boot ends (R371, R395) -/

/-- The flash after the ROM: a blank counter key is programmed. -/
def Flash.programmed (f : Flash) (key : List Byte) : Flash := if f.ctrKey.isNone then { f with ctrKey := some key } else f

theorem Flash.counter_programmed (f : Flash) (key : List Byte) : (f.programmed key).counter = f.counter := by
  unfold Flash.programmed
  split <;> rfl

/-- How a boot ends: firmware never starts, or it starts on images none of which is below the counter. -/
def Dev.BootEnds (d e : Dev) (f : Flash) : Prop :=
  d.Unbooted e ∨ ∃ sec : Sec, e.HoldsVersions sec ∧ sec.svnLoader < 2 ^ 32 ∧ f.counter ≤ sec.svnLoader ∧ f.counter ≤ sec.svnFirmware ∧ f.counter ≤ sec.svnConfig

theorem Dev.bootWith_flash (d : Dev) (f : Flash) (slot : List Byte) (cal : CopyPick) (calCopy : Nat) (calImg : List Byte)
    (k : RootKeys) : (d.bootWith f slot cal calCopy calImg k).1 = f.programmed k.ctrKey := by
  unfold Dev.bootWith
  extract_lets held f1 low cfgPick loader firmware cal1 d1 d2 sec3 d3 cert d4
  split
  · split
    · rfl
    · split <;> rfl
  · rfl

theorem Dev.bootWith_ends (d : Dev) (f : Flash) (slot : List Byte) (cal : CopyPick) (calCopy : Nat) (calImg : List Byte)
    (k : RootKeys) : d.BootEnds (d.bootWith f slot cal calCopy calImg k).2 f := by
  unfold Dev.bootWith
  extract_lets held f1 low cfgPick loader firmware cal1 d1 d2 sec3 d3 cert d4
  have quiet : d.Unbooted d3 := by
    have copies : d.KeepsRegs bootRegs d1 :=
      (((d.bootCopy_keeps 1 loader).trans (Dev.bootCopy_keeps _ _ _)).trans (Dev.bootCopy_keeps _ _ _)).trans (Dev.bootCopy_keeps _ _ _)
    have logs : d1.KeepsRegs bootRegs d2 :=
      (((d1.logPick_keeps 4 cal1).trans (Dev.logPick_keeps _ _ _)).trans (Dev.logPick_keeps _ _ _)).trans (Dev.logPick_keeps _ _ _)
    exact (copies.trans logs).unbooted (by decide)
  split
  case _ l fw c cl hl hfw hc hcl =>
    split
    · exact .inl ((quiet.trans (d3.unbooted_logEvent _ _)).trans (Dev.unbooted_stay _ _))
    case _ isHeld =>
      have low_eq : low = f.counter := by
        rw [show low = if held then f1.counter else 0 from rfl, if_pos (by simpa using isHeld)]
        exact f.counter_programmed k.ctrKey
      split
      · refine .inr ⟨_, Dev.startFakin_holdsVersions _ _ _ _ _, fieldAt_lt _ _ 4, ?_, ?_, ?_⟩
        · exact low_eq ▸ Flash.pick_svn hl
        · exact low_eq ▸ Flash.pick_svn hfw
        · exact low_eq ▸ Flash.pick_svn hc
      · exact .inl (quiet.trans (d3.unbooted_stay _))
  · extract_lets missing
    have checked : d3.Unbooted d4 := by
      unfold d4
      split
      · exact (d3.unbooted_ctrOk 1).trans (((Dev.KeepsRegs.refl [.secSvn] _).put (f := F.secSvn_ctr) (by decide) _ _ _).unbooted (by decide))
      · exact d3.unbooted_logEvent _ _
    exact .inl ((quiet.trans checked).trans (d4.unbooted_stay _))

theorem Dev.bootRom_ends (puf : List Byte) (f : Flash) (d : Dev) : d.BootEnds (d.bootRom puf f).2 f := by
  unfold Dev.bootRom
  split
  · exact .inl (d.unbooted_stay _)
  case _ si _ =>
    extract_lets slot d1 cal d2 logged sec2
    have slotShown : d.Unbooted d1 := ((Dev.KeepsRegs.refl bootRegs d).put (f := F.bootStat_slot) (by decide) _ _ _).unbooted (by decide)
    have failed : d.Unbooted ((d1.bootCopy 4 cal).logPick 4 cal) :=
      slotShown.trans (((d1.bootCopy_keeps 4 cal).trans (Dev.logPick_keeps _ _ _)).unbooted (by decide))
    split
    · exact .inl (failed.trans (Dev.unbooted_stay _ _))
    · extract_lets helper key d3
      split
      · obtain quiet | booted := d1.bootWith_ends f slot cal _ _ _
        · exact .inl (slotShown.trans quiet)
        · exact .inr booted
      · have logs : d.Unbooted logged := (failed.trans (Dev.unbooted_pufFail _ 1)).trans (d2.unbooted_logEvent 0x04 0)
        clear_value logged
        have named : logged.Unbooted d3 := (Dev.KeepsRegs.of_regs (d := logged) (e := d3) [] rfl rfl).unbooted (by decide)
        exact .inl ((logs.trans named).trans (d3.unbooted_stay _))

theorem Dev.coldReset_ends (puf : List Byte) (f : Flash) (d : Dev) : (d.heldInReset true).BootEnds (d.coldReset puf f).2 f :=
  Dev.bootRom_ends puf f _

/-- A device that was held before its boot and whose firmware has started runs at the lowest of its images' versions. -/
theorem Dev.BootEnds.versions {d e : Dev} {f : Flash} (h : d.BootEnds e f) (held : d.get F.secStat_stage 0 = 0)
    (started : e.get F.secStat_stage 0 = 3) : e.get F.secSvn_run 0 = min e.sec.svnLoader (min e.sec.svnFirmware e.sec.svnConfig) ∧
      f.counter ≤ e.sec.svnLoader ∧ f.counter ≤ e.sec.svnFirmware ∧ f.counter ≤ e.sec.svnConfig := by
  obtain quiet | ⟨sec, holds, fits, loader, firmware, config⟩ := h
  · exact absurd ((Eq.trans quiet held).symm.trans started) (by decide)
  · rw [holds.run, holds.loader, holds.firmware, holds.config]
    exact ⟨Nat.mod_eq_of_lt (Nat.lt_of_le_of_lt (Nat.min_le_left _ _) fits), loader, firmware, config⟩

/-! ### What the flash keeps (R389, R390) -/

/-- A flash after a boot or a store: its counter as before, a programmed key too, and its array in canonical form. -/
structure Flash.StoresTo (f g : Flash) : Prop where
  wf : f.array.wf = true → g.array.wf = true
  counter : g.counter = f.counter
  key : ∀ k, f.ctrKey = some k → g.ctrKey = some k

theorem Flash.StoresTo.refl (f : Flash) : f.StoresTo f := ⟨id, rfl, fun _ => id⟩

theorem Flash.StoresTo.trans {f g h : Flash} (a : f.StoresTo g) (b : g.StoresTo h) : f.StoresTo h :=
  ⟨b.wf ∘ a.wf, b.counter.trans a.counter, fun k e => b.key k (a.key k e)⟩

theorem Flash.storesTo_programmed (f : Flash) (key : List Byte) : f.StoresTo (f.programmed key) := by
  unfold Flash.programmed
  split
  case _ blank =>
    refine ⟨id, rfl, fun k e => ?_⟩
    rw [e] at blank
    cases blank
  · exact .refl f

theorem Flash.storesTo_store {f g : Flash} {stage copy : Nat} {img : List Byte} (h : f.store stage copy img = some g) :
    f.StoresTo g := by
  unfold Flash.store at h
  split at h
  · cases h
  · obtain ⟨e, -, rfl⟩ := Option.map_eq_some_iff.1 h
    exact ⟨fun wf => Memory.wf_writeN _ _ _ (Memory.wf_writeN _ _ _ wf), rfl, fun _ => id⟩

theorem Dev.bootRom_storesTo (puf : List Byte) (f : Flash) (d : Dev) : f.StoresTo (d.bootRom puf f).1 := by
  unfold Dev.bootRom
  split
  · exact .refl f
  · extract_lets slot d1 cal
    split
    · exact .refl f
    · extract_lets helper key
      split
      · rw [Dev.bootWith_flash]
        exact f.storesTo_programmed _
      · exact .refl f

theorem Dev.coldReset_storesTo (puf : List Byte) (f : Flash) (d : Dev) : f.StoresTo (d.coldReset puf f).1 :=
  Dev.bootRom_storesTo puf f _

theorem Dev.recover_storesTo (image : List Byte) (f : Flash) (d : Dev) : f.StoresTo (d.recover image f).1 := by
  unfold Dev.recover
  extract_lets stage pufFail low failed left
  split
  · split
    · exact .refl f
    · split
      · exact .refl f
      · split
        · exact .refl f
        · extract_lets copy
          split
          · exact .refl f
          case _ g stored =>
            have here := Flash.storesTo_store stored
            split
            · exact here.trans (Dev.bootRom_storesTo _ _ _)
            · exact here
  · exact .refl f

theorem Dev.flashWrite_storesTo (f : Flash) (d : Dev) : f.StoresTo (d.flashWrite f).1 := by
  unfold Dev.flashWrite
  split
  · exact .refl f
  · extract_lets stage len
    split
    · exact .refl f
    · split
      · exact .refl f
      · split
        · exact Flash.storesTo_store ‹_›
        · exact .refl f

/-! ### The counter and its commits (R372) -/

theorem Dev.commitSvn_device (fn : Nat) (ok : Bool) (f : Flash) (d : Dev) :
    (d.commitSvn fn ok f).2 = { d with regs := (d.commitSvn fn ok f).2.regs } ∧
    d.KeepsRegs (.secSvn :: logRegs) (d.commitSvn fn ok f).2 := by
  unfold Dev.commitSvn
  extract_lets run
  split
  · exact ⟨rfl, .refl _ d⟩
  · split
    · refine ⟨rfl, .trans ?_ ((Dev.logEvent_keeps _ _ _).mono (List.subset_cons_self _ _))⟩
      exact (Dev.KeepsRegs.refl (.secSvn :: logRegs) d).put (f := F.secSvn_ctr) (by decide) _ _ _
    · exact ⟨rfl, (d.logEvent_keeps _ _).mono (List.subset_cons_self _ _)⟩

/-- A commit raises the counter to RUN or leaves the flash, and it raises it for tenant 0 alone, where the flash carries it out. -/
theorem Dev.commitSvn_flash (fn : Nat) (ok : Bool) (f : Flash) (d : Dev) : (d.commitSvn fn ok f).1 = f ∨
    fn = 0 ∧ ok = true ∧ (d.commitSvn fn ok f).1 = { f with counter := max f.counter (d.get F.secSvn_run 0) } := by
  unfold Dev.commitSvn
  extract_lets run
  split
  · exact .inl rfl
  case _ allowed =>
    split
    case _ raised =>
      simp only [Bool.and_eq_true] at raised
      simp only [Bool.or_eq_true, Bool.not_eq_true', not_or, Bool.not_eq_false, Bool.and_eq_true, decide_eq_true_eq] at allowed
      obtain ⟨⟨-, tenant0⟩, -⟩ := allowed
      exact .inr ⟨tenant0, raised.1, rfl⟩
    · exact .inl rfl

theorem Dev.commitSvn_raises {f : Flash} {d : Dev} (opened : d.barOpen = true) (above : d.get F.secSvn_ctr 0 < d.get F.secSvn_run 0)
    (key : f.ctrKey = some d.sec.ctrKey) : d.commitSvn 0 true f = ({ f with counter := max f.counter (d.get F.secSvn_run 0) },
      (d.put F.secSvn_ctr 0 (d.get F.secSvn_run 0)).logEvent 0x30 (d.get F.secSvn_run 0 % 256)) := by
  unfold Dev.commitSvn
  rw [if_neg (by simp [opened, above]), if_pos (by simp [key])]

theorem Dev.commitSvn_below {f : Flash} {d : Dev} (fn : Nat) (ok : Bool) (below : d.get F.secSvn_run 0 ≤ d.get F.secSvn_ctr 0) :
    d.commitSvn fn ok f = (f, d) := by
  unfold Dev.commitSvn
  exact if_pos (by simp [below])

theorem runFlash_flash {ok : Bool} {f : Flash → Dev → Flash × Dev} {s t : State} (h : runFlash ok f s = .next t) :
    t.flash = (f s.flash s.dev).1 := congrArg State.flash (runFlash_next h).2

theorem runFlash_dev {ok : Bool} {f : Flash → Dev → Flash × Dev} {s t : State} (h : runFlash ok f s = .next t) :
    t.dev = (f s.flash s.dev).2 := congrArg State.dev (runFlash_next h).2

/-- What a command can do to the flash: only a commit does more than store to it. -/
theorem exec_flash {i : Instr} {s t : State} (ran : exec i s = .next t) : s.flash.StoresTo t.flash ∨
    i = .commitSvn 0 true ∧ t.flash = { s.flash with counter := max s.flash.counter (s.dev.get F.secSvn_run 0) } := by
  cases uses : usesFlash i with
  | false => exact .inl ((exec_shape i).flash_eq uses ran ▸ .refl _)
  | true =>
    unfold usesFlash at uses
    split at uses
    · rw [runFlash_flash (t := t) (exec_coldReset _ _ ▸ ran)]
      exact .inl (Dev.coldReset_storesTo _ _ _)
    · rw [runFlash_flash (t := t) (exec_recover _ _ ▸ ran)]
      exact .inl (Dev.recover_storesTo _ _ _)
    · rw [runFlash_flash (t := t) (exec_flashWrite _ ▸ ran)]
      exact .inl (Dev.flashWrite_storesTo _ _)
    case _ fn ok =>
      rw [runFlash_flash (t := t) (exec_commitSvn _ _ _ ▸ ran)]
      obtain same | ⟨rfl, rfl, raised⟩ := s.dev.commitSvn_flash fn ok s.flash
      · exact .inl (same.symm ▸ .refl _)
      · exact .inr ⟨rfl, raised⟩
    · cases uses

/-- Settles O45: an idle step leaves the flash, and a command does to it what `exec_flash` says. -/
theorem flashOnlyAdvances : Obligations.FlashOnlyAdvances := by
  intro s t stepped
  obtain ⟨pending, flash, dev⟩ := s
  cases pending with
  | nil =>
    obtain rfl := Host.Outcome.next.inj stepped
    exact ⟨id, le_refl _, fun _ => id, fun _ => rfl⟩
  | cons i rest =>
    have unused (h : ∀ j ∈ (i :: rest).head?, usesFlash j = false) : t.flash = flash :=
      (exec_shape i).flash_eq (h i rfl) stepped
    obtain stores | ⟨-, raised⟩ := exec_flash stepped
    · exact ⟨stores.wf, stores.counter.ge, stores.key, unused⟩
    · exact ⟨by rw [raised]; exact id, by rw [raised]; exact le_max_left _ _, by rw [raised]; exact fun _ => id, unused⟩

/-- Settles O46: a commit is the only command that does more to the flash than store to it, and the ROM starts firmware on no image below
the counter. -/
theorem counterFollowsCommitsAlone : Obligations.CounterFollowsCommitsAlone := by
  refine ⟨fun i s t ran => ?_, fun s opened above key notAbove => ?_, fun s fn ok hfn below => ?_, fun s t fn ok ran => ?_,
    fun s t puf ran started => ?_⟩
  · obtain stores | ⟨rfl, raised⟩ := exec_flash ran
    · exact ⟨stores.counter.ge, fun changed => absurd stores.counter changed⟩
    · exact ⟨by rw [raised]; exact le_max_left _ _, fun _ => rfl⟩
  · refine ⟨_, runFlash_ok _ s rfl, ?_, ?_⟩
    · rw [Dev.commitSvn_raises opened above key]
      exact max_eq_right notAbove
    · rw [Dev.commitSvn_raises opened above key]
      refine ((Dev.logEvent_keeps _ _ _).get (f := F.secSvn_ctr) (by decide) 0 0).trans ?_
      rw [Dev.get_put_self _ _ _ _ _ (by decide)]
      exact Nat.mod_eq_of_lt (Dev.get_lt _ F.secSvn_run _ _)
  · refine (runFlash_ok _ s (decide_eq_true hfn)).trans ?_
    rw [Dev.commitSvn_below fn ok below]
  · obtain ⟨-, rfl⟩ := runFlash_next (exec_commitSvn _ _ _ ▸ ran)
    obtain ⟨frame, keeps⟩ := s.dev.commitSvn_device fn ok s.flash
    exact ⟨frame, fun r i j h1 h2 h3 h4 => keeps r (by simp [logRegs, h1, h2, h3, h4]) i j⟩
  · have ends : (s.dev.heldInReset true).BootEnds t.dev s.flash := by
      rw [runFlash_dev (t := t) (exec_coldReset _ _ ▸ ran)]
      exact Dev.coldReset_ends puf s.flash s.dev
    exact ends.versions s.dev.heldInReset_stage started

/-! ### The event log's ring (R387, Table 17.7) -/

theorem Dev.logEvent_total (d : Dev) (code arg : Nat) (room : d.get F.secEvtHead_total 0 + 1 < 2 ^ 32) :
    (d.logEvent code arg).get F.secEvtHead_total 0 = d.get F.secEvtHead_total 0 + 1 :=
  (Dev.get_put_self _ _ _ _ _ (by decide)).trans (Nat.mod_eq_of_lt room)

/-- Entry `j` of the ring holds an event of a time. -/
def Dev.EventAt (d : Dev) (j : Nat) (e : Nat × Nat) (time : Nat) : Prop :=
  d.get F.secEvtInfo_code 0 j = e.1 ∧ d.get F.secEvtInfo_arg 0 j = e.2 % 256 ∧ d.reg .secEvtTime 0 j = time

theorem Dev.logEvent_eventAt_self (d : Dev) {e : Nat × Nat} (fits : e.1 < 256) :
    (d.logEvent e.1 e.2).EventAt (d.get F.secEvtHead_total 0 % 64) e d.ns := by
  have info : (d.logEvent e.1 e.2).reg .secEvtInfo 0 (d.get F.secEvtHead_total 0 % 64) = e.1 + e.2 % 256 * 256 := by
    rw [Dev.logEvent, Dev.reg_put_ne _ _ _ _ _ _ (by decide), Dev.reg_setReg_other _ _ _ _ _ _ (by decide), Dev.reg_setReg_self]
    omega
  refine ⟨?_, ?_, ?_⟩
  · rw [Dev.get, show F.secEvtInfo_code.reg = .secEvtInfo from rfl, info]
    simp only [bitsOf, F.secEvtInfo_code]
    omega
  · rw [Dev.get, show F.secEvtInfo_arg.reg = .secEvtInfo from rfl, info]
    simp only [bitsOf, F.secEvtInfo_arg]
    omega
  · rw [Dev.logEvent, Dev.reg_put_ne _ _ _ _ _ _ (by decide), Dev.reg_setReg_self]
    exact Nat.mod_eq_of_lt (Nat.mod_lt _ (by decide))

theorem Dev.EventAt.logEvent {d : Dev} {j time : Nat} {e : Nat × Nat} (h : d.EventAt j e time) (code arg : Nat)
    (other : j ≠ d.get F.secEvtHead_total 0 % 64) : (d.logEvent code arg).EventAt j e time := by
  have kept (r : Reg) (hr : r ≠ .secEvtHead) : (d.logEvent code arg).reg r 0 j = d.reg r 0 j := by
    rw [Dev.logEvent, Dev.reg_put_ne _ _ _ _ _ _ hr, Dev.reg_setReg_ne _ _ fun same => other same.2.2,
      Dev.reg_setReg_ne _ _ fun same => other same.2.2]
  obtain ⟨code_eq, arg_eq, time_eq⟩ := h
  exact ⟨(congrArg (bitsOf · 0 8) (kept .secEvtInfo (by decide))).trans code_eq,
    (congrArg (bitsOf · 8 8) (kept .secEvtInfo (by decide))).trans arg_eq, (kept .secEvtTime (by decide)).trans time_eq⟩

/-- After a run of events. -/
def Dev.logEvents (d : Dev) (es : List (Nat × Nat)) : Dev := es.foldl (fun d e => d.logEvent e.1 e.2) d

theorem Dev.logEvents_concat (d : Dev) (es : List (Nat × Nat)) (e : Nat × Nat) :
    d.logEvents (es ++ [e]) = (d.logEvents es).logEvent e.1 e.2 := List.foldl_concat _ _ _ _

theorem Dev.logEvents_ns (d : Dev) (es : List (Nat × Nat)) : (d.logEvents es).ns = d.ns :=
  List.foldlRecOn (motive := fun e : Dev => e.ns = d.ns) _ _ rfl fun _ h _ _ => h

theorem Dev.logEvents_total (d : Dev) (es : List (Nat × Nat)) (room : d.get F.secEvtHead_total 0 + es.length < 2 ^ 32) :
    (d.logEvents es).get F.secEvtHead_total 0 = d.get F.secEvtHead_total 0 + es.length := by
  induction es using List.reverseRecOn with
  | nil => rfl
  | append_singleton es e ih =>
    rw [List.length_append, List.length_singleton] at room ⊢
    have before := ih (by omega)
    rw [Dev.logEvents_concat, Dev.logEvent_total _ _ _ (by omega), before, Nat.add_assoc]

/-- Of a run of events, each of the last 64 stands at its number: those after it go to other entries. -/
theorem Dev.logEvents_eventAt (d : Dev) (es : List (Nat × Nat)) (fits : ∀ e ∈ es, e.1 < 256)
    (room : d.get F.secEvtHead_total 0 + es.length < 2 ^ 32) (k : Nat) (e : Nat × Nat) (named : es[k]? = some e)
    (recent : es.length ≤ k + 64) : (d.logEvents es).EventAt ((d.get F.secEvtHead_total 0 + k) % 64) e d.ns := by
  induction es using List.reverseRecOn with
  | nil => cases named
  | append_singleton es last ih =>
    rw [List.length_append, List.length_singleton] at room recent
    have total := d.logEvents_total es (by omega)
    rw [Dev.logEvents_concat]
    rcases Nat.lt_or_ge k es.length with before | isLast
    · rw [List.getElem?_append_left before] at named
      refine (ih (fun e he => fits e (List.mem_append_left _ he)) (by omega) named (by omega)).logEvent _ _ ?_
      rw [total]
      omega
    · have : k = es.length := by
        have := (List.getElem?_eq_some_iff.1 named).1
        rw [List.length_append, List.length_singleton] at this
        omega
      subst this
      rw [List.getElem?_concat_length] at named
      cases named
      exact total ▸ d.logEvents_ns es ▸ Dev.logEvent_eventAt_self _ (fits _ (List.mem_append_right _ (.head _)))

/-- Settles O55: by induction on the run of events, from its last one. -/
theorem securityEventsFillTheirRing : Obligations.SecurityEventsFillTheirRing := by
  refine ⟨fun d d' es fits room run => ?_, fun s => run_withDev rfl rfl⟩
  subst run
  exact ⟨d.logEvents_total es room, d.logEvents_eventAt es fits room⟩

end Sys2Proof.Machine
end

section
/-! PROOFS. What a core reset reaches (R8, R22): O10. -/

namespace Sys2Proof.Machine

theorem Reg.mem_all (r : Reg) : r ∈ Reg.all := List.mem_of_getElem? (Reg.all_ctorIdx r)

/-- A reset of registers of one instance returns those, and leaves every other one. -/
theorem Dev.reg_resetRegs (d : Dev) (rs : List Reg) (i0 : Nat) (r : Reg) (i j : Nat) : (d.resetRegs rs i0).reg r i j =
    if r ∈ rs ∧ i = i0 then (resetWord d.cfg r i j).toNat else d.reg r i j := by
  have chosen : (rs.any fun x => decide (x.ctorIdx = r.ctorIdx) && decide (i = i0)) = decide (r ∈ rs ∧ i = i0) := by
    rw [Bool.eq_iff_iff]
    simp only [List.any_eq_true, Bool.and_eq_true, decide_eq_true_eq]
    constructor
    · rintro ⟨x, hx, same, here⟩
      exact ⟨Reg.ctorIdx_inj same ▸ hx, here⟩
    · rintro ⟨hr, here⟩
      exact ⟨r, hr, rfl, here⟩
  have entries : SMap.get (SMap.get (d.resetRegs rs i0).regs [] r.ctorIdx) [] i =
      if r ∈ rs ∧ i = i0 then [] else SMap.get (SMap.get d.regs [] r.ctorIdx) [] i := by
    rw [SMap.get, Dev.resetRegs, RegFile.find_keep, chosen]
    by_cases h : r ∈ rs ∧ i = i0 <;> simp [h, SMap.get]
  rw [Dev.reg, entries]
  split
  · rfl
  · rfl

theorem Dom.within_core (x : Dom) : Dom.within x .core = true ↔ x = .core := by cases x <;> decide

theorem mem_regsOf_core (r : Reg) : r ∈ regsOf .core .core ↔ (regSpec r).block = .core ∧ (regSpec r).dom = .core := by
  simp [regsOf, Reg.mem_all, Dom.within_core]

/-- A FREE core is reset. -/
theorem Dev.coreReset_free {d : Dev} {k : Nat} (free : d.get F.coreState_state k = CoreSt.free) : d.coreReset k = d.resetCore k := by
  unfold Dev.coreReset
  rw [free]
  rfl

/-- Settles O10: of the register file a core reset drops the core-domain entries of one instance alone. -/
theorem coreResetScope : Obligations.CoreResetScope := by
  intro s k hk free
  have regs (r : Reg) (i j : Nat) := (s.dev.setCore k Core.init).reg_resetRegs (regsOf .core .core) k r i j
  refine ⟨_, run_withDev (decide_eq_true hk) (Dev.coreReset_free free), Dev.setCore_core _ _ _, fun r j block dom => ?_,
    fun r i j other => ?_, fun k' other => Dev.setCore_core_ne _ _ _ _ other, rfl, rfl⟩
  · exact (regs r k j).trans (if_pos ⟨(mem_regsOf_core r).2 ⟨block, dom⟩, rfl⟩)
  · refine (regs r i j).trans (if_neg fun reached => ?_)
    obtain ⟨block, dom⟩ := (mem_regsOf_core r).1 reached.1
    rcases other with h | h | h
    · exact h block
    · exact h dom
    · exact h reached.2

end Sys2Proof.Machine
end

section
/-! PROOFS. Queues (chapter 15): doorbells, QUE_CFG, the taking of descriptors, completions: O32, O33 and O54. -/

namespace Sys2Proof.Machine

/-! ### Doorbells (R334) -/

section
variable {d : Dev} {fn q : Nat}

theorem Dev.queDb_moves {tail : Nat} (own : d.queWritable fn q = true) (run : d.get F.queStat_state q = queRun)
    (inside : tail < d.sqSize q) : d.queDb fn q tail = d.modQueue q fun x => { x with sqTail := tail } := by
  simp only [Dev.queDb, own, run, Bool.true_and, decide_true, if_true, if_neg (Nat.not_le.2 inside)]

theorem Dev.queCqDb_moves {head : Nat} (own : d.queWritable fn q = true) (run : d.get F.queStat_state q = queRun)
    (inside : head < d.cqSize q)
    (written : ringDist (d.cqSize q) (d.queue q).cqHead head ≤ ringDist (d.cqSize q) (d.queue q).cqHead (d.queue q).cqTail) :
    d.queCqDb fn q head = d.modQueue q fun x => { x with cqHead := head } := by
  simp only [Dev.queCqDb, own, run, inside, written, Bool.true_and, decide_true, if_true]

/-! ### QUE_CFG (R333) -/

theorem Dev.queEnable_starts {v : Word} (own : d.queWritable fn q = true) (off : d.flag F.queCfg_enable q = false)
    (on : bitOf v.toNat 0 = true) : d.queEnable fn q v = (d.putQueCfg q v).startQueue q := by
  simp only [Dev.queEnable, own, off, on, Bool.not_false, Bool.and_self, if_true]

theorem Dev.queDisable_ends {v : Word} (own : d.queWritable fn q = true) (off : bitOf v.toNat 0 = false) :
    d.queDisable fn q v = (d.stopQueue q).putQueCfg q v := by
  simp only [Dev.queDisable, own, off, Bool.not_false, Bool.and_self, if_true]

/-! ### A page of another tenant, or of none (R337) -/

/-- Where a function's writes to a queue's page do not take effect, none of the page's commands changes the device. -/
theorem Dev.queCommands_ignored (foreign : d.queWritable fn q = false) (n : Nat) (v : Word) :
    d.queDb fn q n = d ∧ d.queCqDb fn q n = d ∧ d.queEnable fn q v = d ∧ d.queDisable fn q v = d := by
  simp only [Dev.queDb, Dev.queCqDb, Dev.queEnable, Dev.queDisable, foreign, Bool.false_and, Bool.false_eq_true, if_false, and_self]

end

/-! ### Taking descriptors (R334, R335, R355) -/

section
variable {d : Dev} {c q : Nat}

/-- The device reads rings for an ACTIVE context while firmware runs and the host port is attached. -/
theorem Dev.descriptorTake_reads (lost : Bool) (ready : d.flag F.glbInfo_ready 0 = true) (ide : d.flag F.hostStat_ide 0 = true)
    (attached : d.detached = false) (active : d.ctxState c = CtxSt.active) : d.descriptorTake c lost =
      if lost then (match (d.turnOrder c).find? (d.canRead c) with | some q => d.queError q 3 | none => d)
      else (match (d.turnOrder c).find? (d.canTake c) with | some q => d.takeFrom c q | none => d) := by
  simp only [Dev.descriptorTake, ready, ide, attached, active]
  rfl

theorem Dev.descriptorTake_takes (ready : d.flag F.glbInfo_ready 0 = true) (ide : d.flag F.hostStat_ide 0 = true)
    (attached : d.detached = false) (active : d.ctxState c = CtxSt.active) (turn : (d.turnOrder c).find? (d.canTake c) = some q) :
    d.descriptorTake c false = d.takeFrom c q := by
  rw [Dev.descriptorTake_reads false ready ide attached active, turn]
  rfl

theorem Dev.descriptorTake_loses (ready : d.flag F.glbInfo_ready 0 = true) (ide : d.flag F.hostStat_ide 0 = true)
    (attached : d.detached = false) (active : d.ctxState c = CtxSt.active) (turn : (d.turnOrder c).find? (d.canRead c) = some q) :
    d.descriptorTake c true = d.queError q 3 := by
  rw [Dev.descriptorTake_reads true ready ide attached active, turn]
  rfl

end

/-- Settles O32: each command passes the checks that its conditions state. -/
theorem queueCommandsComplete : Obligations.QueueCommandsComplete := by
  refine ⟨fun s fn q tail named own run inside => ?_,
    fun s fn q head named own run inside written => ?_,
    fun s fn q v named own off on => ?_,
    fun s fn q v named own off => ?_,
    fun s c q hc ready ide attached active turn => ?_,
    fun s c q hc ready ide attached active turn => ?_⟩
  · exact run_withDev named (Dev.queDb_moves own run inside)
  · exact run_withDev named (Dev.queCqDb_moves own run inside written)
  · exact run_withDev named (Dev.queEnable_starts own off on)
  · exact run_withDev named (Dev.queDisable_ends own off)
  · exact run_withDev (decide_eq_true hc) (Dev.descriptorTake_takes ready ide attached active turn)
  · exact run_withDev (decide_eq_true hc) (Dev.descriptorTake_loses ready ide attached active turn)

/-! ### Descriptors that the header check refuses (R355) -/

section
variable {d : Dev} {c q : Nat} {bs : List Byte}

theorem Dev.headerCheck_internal (bad : fieldAt bs 0 1 = 0 ∨ 11 < fieldAt bs 0 1 ∨ 1 < fieldAt bs 1 1 ∨ allZero (slice bs 2 14) = false) :
    d.headerCheck c bs = some Status.internal :=
  if_pos (by simpa [or_assoc] using bad)

theorem Dev.headerCheck_integrity (lo : 1 ≤ fieldAt bs 0 1) (hi : fieldAt bs 0 1 ≤ 11) (zero : fieldAt bs 1 1 ≤ 1)
    (zeros : allZero (slice bs 2 14) = true)
    (refused : (fieldAt bs 0 1 = 4 ∧ d.kindOf c = 1) ∨ (fieldAt bs 0 1 = 5 ∧ d.kindOf c = 0) ∨
      (fieldAt bs 0 1 = 11 ∧ d.tenantOf c ≠ 0)) : d.headerCheck c bs = some Status.integrity := by
  have form : (fieldAt bs 0 1 = 0 || 11 < fieldAt bs 0 1 || fieldAt bs 1 1 > 1 || !allZero (slice bs 2 14) : Bool) = false := by
    simp only [zeros, Bool.not_true, Bool.or_false, Bool.or_eq_false_iff, decide_eq_false_iff_not]
    omega
  rw [Dev.headerCheck, if_neg (ne_true_of_eq_false form)]
  exact if_pos (by simpa [or_assoc] using refused)

/-- The device with the descriptor taken, before its header is checked. -/
def Dev.withTaken (d : Dev) (c q : Nat) : Dev :=
  let head := d.get F.queStat_sq_head q
  let taken : Desc := ⟨head, (d.queue q).period, d.ringEntry c q head, false, (d.ctx c).takes, BitVec.ofNat 64 (d.reg .rngSeed c), d.ns⟩
  let e := (d.modCtx c fun y => { y with lastQueue := q, takes := y.takes + 1 }).modQueue q fun x => { x with descs := x.descs ++ [taken] }
  ((e.put F.queStat_sq_head q ((head + 1) % e.sqSize q)).incMod F.queStat_inflight q).incMod F.queCnt_taken q

theorem Dev.withTaken_keeps (d : Dev) (c q : Nat) : d.KeepsRegs [.queStat, .queCnt] (d.withTaken c q) :=
  (((Dev.KeepsRegs.refl _ d).put (f := F.queStat_sq_head) (by decide) _ _ _).put (f := F.queStat_inflight) (by decide) _ _ _).put
    (f := F.queCnt_taken) (by decide) _ _ _

theorem Dev.withTaken_period (d : Dev) (c q : Nat) : ((d.withTaken c q).queue q).period = (d.queue q).period := by
  simp [Dev.withTaken, Dev.incMod_eq]

theorem Dev.takeFrom_eq (d : Dev) (c q : Nat) : d.takeFrom c q =
    if (d.withTaken c q).ctxState c = CtxSt.torn then
      (d.withTaken c q).complete ⟨q, d.get F.queStat_sq_head q, (d.queue q).period⟩ Status.ctxTornDown 0
    else match (d.withTaken c q).headerCheck c (d.ringEntry c q (d.get F.queStat_sq_head q)) with
      | some st => (d.withTaken c q).complete ⟨q, d.get F.queStat_sq_head q, (d.queue q).period⟩ st 0
      | none => d.withTaken c q := rfl

/-- A descriptor of an ACTIVE context that the header check refuses completes with its status; the context continues. -/
theorem Dev.takeFrom_refused {st : Nat} (active : d.ctxState c = CtxSt.active) (enabled : d.flag F.queCfg_enable q = true)
    (refused : d.headerCheck c (d.ringEntry c q (d.get F.queStat_sq_head q)) = some st) :
    (d.takeFrom c q).DueLast ⟨q, d.get F.queStat_sq_head q, (d.queue q).period⟩ st 0 ∧ (d.takeFrom c q).ctxState c = CtxSt.active := by
  have keeps := d.withTaken_keeps c q
  have active' : (d.withTaken c q).ctxState c = CtxSt.active := (keeps.get (f := F.ctxState_state) (by decide) c 0).trans active
  have enabled' : (d.withTaken c q).flag F.queCfg_enable q = true := by
    rw [Dev.flag, keeps.get (f := F.queCfg_enable) (by decide)]
    exact enabled
  have refused' : (d.withTaken c q).headerCheck c (d.ringEntry c q (d.get F.queStat_sq_head q)) = some st := by
    rw [Dev.headerCheck, Dev.kindOf, Dev.tenantOf, keeps.get (f := F.ctxCfg_kind) (by decide), keeps.get (f := F.ctxCfg_tenant) (by decide)]
    exact refused
  have taken : d.takeFrom c q = (d.withTaken c q).complete ⟨q, d.get F.queStat_sq_head q, (d.queue q).period⟩ st 0 := by
    have torn : ¬(d.withTaken c q).ctxState c = CtxSt.torn := by
      rw [active']
      decide
    rw [Dev.takeFrom_eq, if_neg torn, refused']
  rw [taken]
  exact ⟨Dev.complete_due st 0 ⟨enabled', d.withTaken_period c q⟩, active'⟩

end

theorem Dev.canTake_enabled {d : Dev} {c q : Nat} (h : d.canTake c q = true) : d.flag F.queCfg_enable q = true := by
  simp only [Dev.canTake, Bool.and_eq_true] at h
  exact h.1.1.1

/-- Settles O54: the queue whose turn it is is enabled, and its descriptor is refused by the header check. -/
theorem headerCheckRefusals : Obligations.HeaderCheckRefusals := by
  rintro s c q head bs hc ready ide attached active turn rfl rfl
  have enabled := Dev.canTake_enabled (List.find?_some turn)
  have ran := run_withDev (s := s) (decide_eq_true hc) (Dev.descriptorTake_takes ready ide attached active turn)
  exact ⟨fun bad => ⟨_, ran, Dev.takeFrom_refused active enabled (Dev.headerCheck_internal bad)⟩,
    fun lo hi zero zeros refused =>
      ⟨_, ran, Dev.takeFrom_refused active enabled (Dev.headerCheck_integrity lo hi zero zeros refused)⟩⟩

end Sys2Proof.Machine
end

section
/-! PROOFS. Completions, and what the commands of a queue's page and the SPDM requests leave unchanged (chapters 15 and 17): O33 and O59. -/

namespace Sys2Proof.Machine

/-! ### Changes to one queue -/

/-- A device that differs in one queue and its registers alone. -/
structure Dev.OnQueue (q : Nat) (d e : Dev) : Prop where
  rest : ∃ qs rs, e = { d with queues := qs, regs := rs }
  others : ∀ q', q' ≠ q → e.queue q' = d.queue q'
  regs : ∀ (r : Reg) (x j : Nat), ((regSpec r).block ≠ .que ∨ x ≠ q) → e.reg r x j = d.reg r x j

namespace Dev.OnQueue
variable {q : Nat} {d e : Dev}

theorem refl (q : Nat) (d : Dev) : d.OnQueue q d := ⟨⟨_, _, rfl⟩, fun _ _ => rfl, fun _ _ _ _ => rfl⟩

theorem modQueue (h : d.OnQueue q e) (f : Queue → Queue) : d.OnQueue q (e.modQueue q f) where
  rest := by
    obtain ⟨qs, rs, rfl⟩ := h.rest
    exact ⟨_, rs, rfl⟩
  others q' ne := (Dev.modQueue_queue_ne _ _ _ _ ne).trans (h.others q' ne)
  regs := h.regs

theorem setReg (h : d.OnQueue q e) {r : Reg} (page : (regSpec r).block = .que) (v j : Nat) : d.OnQueue q (e.setReg r q v j) where
  rest := by
    obtain ⟨qs, rs, rfl⟩ := h.rest
    exact ⟨qs, _, rfl⟩
  others := h.others
  regs r' x j' outside := by
    refine (Dev.reg_setReg_ne _ _ fun ⟨hr, hx, _⟩ => ?_).trans (h.regs r' x j' outside)
    rcases outside with block | inst
    · exact block (hr ▸ page)
    · exact inst hx

theorem put (h : d.OnQueue q e) {f : Fld} (page : (regSpec f.reg).block = .que) (v j : Nat) : d.OnQueue q (e.put f q v j) :=
  h.setReg page _ j

theorem get (h : d.OnQueue q e) {f : Fld} (page : (regSpec f.reg).block ≠ .que) (i j : Nat) : e.get f i j = d.get f i j :=
  congrArg (bitsOf · f.lo f.w) (h.regs f.reg i j (.inl page))

end Dev.OnQueue

theorem Dev.queError_onQueue (d : Dev) (q cause : Nat) : d.OnQueue q (d.queError q cause) :=
  ((Dev.OnQueue.refl q d).put (f := F.queStat_state) rfl _ _).put (f := F.queStat_cause) rfl _ _

theorem Dev.queDb_onQueue (fn q tail : Nat) (d : Dev) : d.OnQueue q (d.queDb fn q tail) := by
  unfold Dev.queDb
  split
  · split
    · exact d.queError_onQueue q 1
    · exact (Dev.OnQueue.refl q d).modQueue _
  · exact .refl q d

theorem Dev.queCqDb_onQueue (fn q head : Nat) (d : Dev) : d.OnQueue q (d.queCqDb fn q head) := by
  unfold Dev.queCqDb
  dsimp only
  split
  · split
    · exact (Dev.OnQueue.refl q d).modQueue _
    · exact d.queError_onQueue q 2
  · exact .refl q d

theorem Dev.OnQueue.putQueCfg {q : Nat} {d e : Dev} (h : d.OnQueue q e) (v : Word) : d.OnQueue q (e.putQueCfg q v) := h.setReg rfl _ _

theorem Dev.OnQueue.startQueue {q : Nat} {d e : Dev} (h : d.OnQueue q e) : d.OnQueue q (e.startQueue q) := by
  unfold Dev.startQueue
  exact ((((h.modQueue _).put (f := F.queStat_sq_head) rfl _ _).put (f := F.queStat_inflight) rfl _ _).put
    (f := F.queStat_cause) rfl _ _).put (f := F.queStat_state) rfl _ _

theorem Dev.OnQueue.stopQueue {q : Nat} {d e : Dev} (h : d.OnQueue q e) : d.OnQueue q (e.stopQueue q) := by
  unfold Dev.stopQueue
  split
  · exact (((h.modQueue _).put (f := F.queCfg_enable) rfl _ _).put (f := F.queStat_state) rfl _ _).put (f := F.queStat_cause) rfl _ _
  · exact h

theorem Dev.queEnable_onQueue (fn q : Nat) (v : Word) (d : Dev) : d.OnQueue q (d.queEnable fn q v) := by
  unfold Dev.queEnable
  split
  · exact ((Dev.OnQueue.refl q d).putQueCfg v).startQueue
  · exact .refl q d

theorem Dev.queDisable_onQueue (fn q : Nat) (v : Word) (d : Dev) : d.OnQueue q (d.queDisable fn q v) := by
  unfold Dev.queDisable
  split
  · exact (Dev.OnQueue.refl q d).stopQueue.putQueCfg v
  · exact .refl q d

/-! ### Completions (R336) -/

/-- A device with other bytes in host memory. -/
def Dev.withHost (d : Dev) (m : Memory) : Dev := { d with mem := { d.mem with host := m } }

@[simp] theorem Dev.withHost_reg (d : Dev) (m : Memory) (r : Reg) (i j : Nat) : (d.withHost m).reg r i j = d.reg r i j := rfl
@[simp] theorem Dev.withHost_get (d : Dev) (m : Memory) (f : Fld) (i j : Nat) : (d.withHost m).get f i j = d.get f i j := rfl
@[simp] theorem Dev.withHost_queue (d : Dev) (m : Memory) (q : Nat) : (d.withHost m).queue q = d.queue q := rfl

/-- Host memory with a completion entry at the completion tail. -/
def Dev.entryMem (d : Dev) (q c : Nat) (e : Due) : Memory :=
  d.mem.host.writeN (hostKey (d.tenantOf c) (d.get F.queCqBase_base q * 4096 + 16 * (d.queue q).cqTail)) (entryBytes q e (d.queue q).phase)

/-- A queue whose oldest completion has been written: those due after it, and the new tail. -/
def Dev.popDue (d : Dev) (q : Nat) (rest : List Due) (tail : Nat) : Dev :=
  ((d.modQueue q fun x => { x with due := rest, cqTail := tail, phase := if tail = 0 then !x.phase else x.phase }).dec
    F.queStat_inflight q).incMod F.queCnt_done q

/-- A completion entry written at the completion tail, and its queue after it. -/
def Dev.writeEntry (d : Dev) (q c : Nat) (e : Due) (rest : List Due) : Dev :=
  (d.withHost (d.entryMem q c e)).popDue q rest (((d.queue q).cqTail + 1) % d.cqSize q)

/-- The signal of a completion, where the queue's IRQ is set. -/
def Dev.signalEntry (d : Dev) (q fn : Nat) : Dev :=
  if d.flag F.queCfg_irq q then d.emit (.msix fn (d.get F.queCfg_vec q)) else d

section
variable {d : Dev} {q c : Nat} {e : Due} {rest : List Due}

theorem Dev.completionWrite_writes (due : (d.queue q).due = e :: rest) (owner : d.ctxOfQueue q = some c) (attached : d.detached = false)
    (enabled : d.flag F.queCfg_enable q = true)
    (room : ringDist (d.cqSize q) (d.queue q).cqHead (d.queue q).cqTail + 1 ≤ d.cqSize q - 1) :
    d.completionWrite q = (d.writeEntry q c e rest).signalEntry q (d.tenantOf c) := by
  rw [Dev.completionWrite]
  simp only [due, owner, Dev.hostWrite, attached, enabled, room]
  rfl

/-- A completion writes the oldest entry that is due, or nothing. -/
theorem Dev.completionWrite_cases (d : Dev) (q : Nat) : d.completionWrite q = d ∨
    ∃ c e rest, d.completionWrite q = (d.writeEntry q c e rest).signalEntry q (d.tenantOf c) := by
  cases due : (d.queue q).due with
  | nil => exact .inl (by simp only [Dev.completionWrite, due])
  | cons e rest =>
    cases owner : d.ctxOfQueue q with
    | none => exact .inl (by simp only [Dev.completionWrite, due, owner])
    | some c =>
      by_cases goes : d.detached = false ∧ d.flag F.queCfg_enable q = true ∧
          ringDist (d.cqSize q) (d.queue q).cqHead (d.queue q).cqTail + 1 ≤ d.cqSize q - 1
      · obtain ⟨attached, enabled, room⟩ := goes
        exact .inr ⟨c, e, rest, Dev.completionWrite_writes due owner attached enabled room⟩
      · left
        rw [Dev.completionWrite]
        simp only [due, owner]
        exact if_neg (by simpa [and_assoc] using goes)

theorem Dev.popDue_onQueue (d : Dev) (q : Nat) (rest : List Due) (tail : Nat) : d.OnQueue q (d.popDue q rest tail) :=
  (((Dev.OnQueue.refl q d).modQueue _).put (f := F.queStat_inflight) rfl _ _).put (f := F.queCnt_done) rfl _ _

theorem Dev.signalEntry_frame (d : Dev) (q fn : Nat) : ∃ o, d.signalEntry q fn = { d with out := o } := by
  unfold Dev.signalEntry
  split
  · exact ⟨_, rfl⟩
  · exact ⟨d.out, rfl⟩

@[simp] theorem Dev.signalEntry_queue (d : Dev) (q fn m : Nat) : (d.signalEntry q fn).queue m = d.queue m := by
  unfold Dev.signalEntry
  split <;> rfl

@[simp] theorem Dev.signalEntry_reg (d : Dev) (q fn : Nat) (r : Reg) (i j : Nat) : (d.signalEntry q fn).reg r i j = d.reg r i j := by
  unfold Dev.signalEntry
  split <;> rfl

@[simp] theorem Dev.signalEntry_get (d : Dev) (q fn : Nat) (f : Fld) (i j : Nat) : (d.signalEntry q fn).get f i j = d.get f i j :=
  congrArg (bitsOf · f.lo f.w) (d.signalEntry_reg q fn f.reg i j)

@[simp] theorem Dev.signalEntry_mem (d : Dev) (q fn : Nat) : (d.signalEntry q fn).mem = d.mem := by
  unfold Dev.signalEntry
  split <;> rfl

/-- A completion leaves everything but its queue, host memory and the signals sent. -/
theorem Dev.completionWrite_frame (d : Dev) (q : Nat) :
    (∃ qs rs o m, d.completionWrite q = { d with queues := qs, regs := rs, out := o, mem := { d.mem with host := m } }) ∧
    (∀ q', q' ≠ q → (d.completionWrite q).queue q' = d.queue q') ∧
    ∀ (r : Reg) (x j : Nat), ((regSpec r).block ≠ .que ∨ x ≠ q) → (d.completionWrite q).reg r x j = d.reg r x j := by
  obtain same | ⟨c, e, rest, wrote⟩ := d.completionWrite_cases q
  · rw [same]
    exact ⟨⟨_, _, _, _, rfl⟩, fun _ _ => rfl, fun _ _ _ _ => rfl⟩
  · rw [wrote, Dev.writeEntry]
    generalize d.entryMem q c e = m
    generalize ((d.queue q).cqTail + 1) % d.cqSize q = tail
    have entry := (d.withHost m).popDue_onQueue q rest tail
    refine ⟨?_, fun q' ne => ?_, fun r x j outside => ?_⟩
    · obtain ⟨qs, rs, eq⟩ := entry.rest
      obtain ⟨o, sent⟩ := Dev.signalEntry_frame ((d.withHost m).popDue q rest tail) q (d.tenantOf c)
      rw [sent, eq]
      exact ⟨qs, rs, o, m, rfl⟩
    · rw [Dev.signalEntry_queue, entry.others q' ne, Dev.withHost_queue]
    · rw [Dev.signalEntry_reg, entry.regs r x j outside, Dev.withHost_reg]

theorem entryBytes_length (q : Nat) (e : Due) (phase : Bool) : (entryBytes q e phase).length = 16 := by simp [entryBytes]

theorem Dev.popDue_queue (d : Dev) (q : Nat) (rest : List Due) (tail : Nat) : (d.popDue q rest tail).queue q =
    { d.queue q with due := rest, cqTail := tail, phase := if tail = 0 then !(d.queue q).phase else (d.queue q).phase } := by
  simp [Dev.popDue, Dev.incMod_eq, Dev.dec_eq]

theorem Dev.popDue_inflight (d : Dev) (q : Nat) (rest : List Due) (tail : Nat) :
    (d.popDue q rest tail).get F.queStat_inflight q = d.get F.queStat_inflight q - 1 := by
  rw [Dev.popDue, Dev.incMod_eq, Dev.get_put_ne _ _ fun h => absurd h.1 (by decide), Dev.get_dec_self _ _ _ _ _ (by decide)]
  rfl

theorem Dev.popDue_done (d : Dev) (q : Nat) (rest : List Due) (tail : Nat) :
    (d.popDue q rest tail).get F.queCnt_done q = (d.get F.queCnt_done q + 1) % 2 ^ F.queCnt_done.w := by
  rw [Dev.popDue, Dev.incMod_eq, Dev.get_put_self _ _ _ _ _ (by decide), Dev.dec_eq, Dev.get_put_ne _ _ fun h => absurd h.1 (by decide)]
  rfl

theorem Dev.popDue_get (d : Dev) (q : Nat) (rest : List Due) (tail : Nat) {f : Fld} (stat : f.reg ≠ .queStat) (cnt : f.reg ≠ .queCnt) :
    (d.popDue q rest tail).get f q = d.get f q := by
  rw [Dev.popDue, Dev.incMod_eq, Dev.get_put_ne _ _ fun h => cnt h.1, Dev.dec_eq, Dev.get_put_ne _ _ fun h => stat h.1]
  rfl

@[simp] theorem Dev.popDue_out (d : Dev) (q : Nat) (rest : List Due) (tail : Nat) : (d.popDue q rest tail).out = d.out := rfl

@[simp] theorem Dev.popDue_mem (d : Dev) (q : Nat) (rest : List Due) (tail : Nat) : (d.popDue q rest tail).mem = d.mem := rfl

@[simp] theorem Dev.withHost_host (d : Dev) (m : Memory) : (d.withHost m).mem.host = m := rfl

@[simp] theorem Dev.withHost_out (d : Dev) (m : Memory) : (d.withHost m).out = d.out := rfl

theorem Dev.signalEntry_out (d : Dev) (q fn : Nat) :
    (d.signalEntry q fn).out = (if d.flag F.queCfg_irq q then [Out.msix fn (d.get F.queCfg_vec q)] else []) ++ d.out := by
  unfold Dev.signalEntry
  split <;> rfl

end

theorem Dev.writeEntry_host (d : Dev) (q c : Nat) (e : Due) (rest : List Due) :
    (d.writeEntry q c e rest).mem.host = d.entryMem q c e := by
  rw [Dev.writeEntry, Dev.popDue_mem, Dev.withHost_host]

theorem Dev.entryMem_read (d : Dev) (q c : Nat) (e : Due) (canonical : d.mem.host.wf = true) :
    (d.entryMem q c e).readN (hostKey (d.tenantOf c) (d.get F.queCqBase_base q * 4096 + 16 * (d.queue q).cqTail)) 16 =
      entryBytes q e (d.queue q).phase := by
  have stored := Memory.readN_writeN d.mem.host
    (hostKey (d.tenantOf c) (d.get F.queCqBase_base q * 4096 + 16 * (d.queue q).cqTail)) (entryBytes q e (d.queue q).phase) canonical
  rwa [entryBytes_length] at stored

/-- Settles O33: the entry is written at the tail, then the queue moves on, then the signal is sent. -/
theorem completionWriteStoresItsEntry : Obligations.CompletionWriteStoresItsEntry := by
  intro s q c e rest hq owner due attached enabled canonical room
  refine ⟨_, run_withDev (decide_eq_true hq) (Dev.completionWrite_writes due owner attached enabled room), ?_, ?_, ?_, ?_, ?_⟩
  · rw [Dev.hostRead, State.withDev, Dev.signalEntry_mem, Dev.writeEntry_host]
    exact s.dev.entryMem_read q c e canonical
  · rw [State.withDev, Dev.signalEntry_queue, Dev.writeEntry, Dev.popDue_queue, Dev.withHost_queue]
  · rw [State.withDev, Dev.signalEntry_get, Dev.writeEntry, Dev.popDue_inflight, Dev.withHost_get]
  · rw [State.withDev, Dev.signalEntry_get, Dev.writeEntry, Dev.popDue_done, Dev.withHost_get]
  · rw [State.withDev, Dev.signalEntry_out, Dev.flag, Dev.flag, Dev.writeEntry, Dev.popDue_get _ _ _ _ (by decide) (by decide),
      Dev.popDue_get _ _ _ _ (by decide) (by decide), Dev.popDue_out, Dev.withHost_get, Dev.withHost_get, Dev.withHost_out]

/-! ### SPDM requests (R375) -/

/-- A device that differs in the responder, free values drawn, messages sent and HOST_STAT alone. -/
structure Dev.Serves (d e : Dev) : Prop where
  rest : ∃ sp rs o fi, e = { d with spdm := sp, regs := rs, out := o, freeIdx := fi }
  regs : d.KeepsRegs [.hostStat] e

theorem Dev.Serves.refl (d : Dev) : d.Serves d := ⟨⟨_, _, _, _, rfl⟩, .refl _ d⟩

theorem Dev.Serves.trans {d d1 e : Dev} (h : d.Serves d1) (h' : d1.Serves e) : d.Serves e := by
  obtain ⟨⟨sp, rs, o, fi, rfl⟩, regs⟩ := h
  obtain ⟨⟨sp', rs', o', fi', rfl⟩, regs'⟩ := h'
  exact ⟨⟨_, _, _, _, rfl⟩, regs.trans regs'⟩

theorem Dev.serve_serves (d : Dev) (req : List Byte) (ok : Bool) (code : Nat) (payload : List Byte) (f : Spdm → Spdm) :
    d.Serves (d.serve req ok code payload f) := by
  unfold Dev.serve
  split
  · exact .refl d
  · split
    · exact ⟨⟨_, _, _, _, rfl⟩, .refl _ d⟩
    · exact ⟨⟨_, _, _, _, rfl⟩, .refl _ d⟩

theorem Dev.negotiateAlgorithms_serves (req : List Byte) (falcon shake kem : Bool) (d : Dev) :
    d.Serves (d.negotiateAlgorithms req falcon shake kem) := by
  unfold Dev.negotiateAlgorithms
  exact d.serve_serves _ _ _ _ _

theorem Dev.keyExchange_serves (req : List Byte) (kem : Bool) (d : Dev) : d.Serves (d.keyExchange req kem) := by
  unfold Dev.keyExchange
  exact d.serve_serves _ _ _ _ _

theorem Dev.chunkSend_serves (req : List Byte) (handle seqNo : Nat) (last : Bool) (d : Dev) :
    d.Serves (d.chunkSend req handle seqNo last) := by
  unfold Dev.chunkSend
  exact d.serve_serves _ _ _ _ _

theorem Dev.getMeasurements_serves (req : List Byte) (index : Nat) (d : Dev) : d.Serves (d.getMeasurements req index) := by
  unfold Dev.getMeasurements
  dsimp only
  split
  · exact d.serve_serves _ _ _ _ _
  · exact d.serve_serves _ _ _ _ _

theorem Dev.finish_serves (req : List Byte) (session : Nat) (ok : Bool) (d : Dev) : d.Serves (d.finish req session ok) := by
  unfold Dev.finish
  extract_lets opened sp d1
  have closed : d.Serves d1 := by
    unfold d1
    split
    · exact ⟨⟨_, _, _, _, rfl⟩, .refl _ d⟩
    · exact .refl d
  exact closed.trans (d1.serve_serves _ _ _ _ _)

theorem Dev.ideKm_serves (req : List Byte) (session : Nat) (cachemem : Bool) (d : Dev) : d.Serves (d.ideKm req session cachemem) := by
  unfold Dev.ideKm
  extract_lets good d1
  have keyed : d.Serves d1 := d.serve_serves _ _ _ _ _
  split
  · exact keyed.trans ⟨⟨_, _, _, _, rfl⟩, (Dev.KeepsRegs.refl _ d1).put (f := F.hostStat_ide) (by decide) _ _ _⟩
  · exact keyed

theorem run_serves {ok : Bool} {f : Dev → Dev} {s t : State} (ran : run ok f s = .next t) (h : ∀ d : Dev, d.Serves (f d)) :
    t.flash = s.flash ∧ s.dev.Serves t.dev := by
  obtain ⟨-, rfl⟩ := run_next ran
  exact ⟨rfl, h s.dev⟩

/-- Settles O59: each command of a page changes its queue, a completion besides host memory, and each SPDM request is served. -/
theorem queueAndSpdmFrames : Obligations.QueueAndSpdmFrames := by
  refine ⟨fun s t i q ran named => ?_, fun s t q ran => ?_, fun s t i ran named => ?_⟩
  · have onQueue : t.flash = s.flash ∧ s.dev.OnQueue q t.dev := by
      obtain ⟨fn, n, v, rfl | rfl | rfl | rfl⟩ := named
      · obtain ⟨-, rfl⟩ := run_next (exec_queDb _ _ _ _ ▸ ran)
        exact ⟨rfl, Dev.queDb_onQueue fn q n s.dev⟩
      · obtain ⟨-, rfl⟩ := run_next (exec_queCqDb _ _ _ _ ▸ ran)
        exact ⟨rfl, Dev.queCqDb_onQueue fn q n s.dev⟩
      · obtain ⟨-, rfl⟩ := run_next (exec_queEnable _ _ _ _ ▸ ran)
        exact ⟨rfl, Dev.queEnable_onQueue fn q v s.dev⟩
      · obtain ⟨-, rfl⟩ := run_next (exec_queDisable _ _ _ _ ▸ ran)
        exact ⟨rfl, Dev.queDisable_onQueue fn q v s.dev⟩
    obtain ⟨flash, ⟨qs, rs, eq⟩, others, regs⟩ := onQueue
    exact ⟨flash, by rw [eq], others, regs⟩
  · obtain ⟨-, rfl⟩ := run_next (exec_completionWrite _ _ ▸ ran)
    obtain ⟨⟨qs, rs, o, m, eq⟩, others, regs⟩ := s.dev.completionWrite_frame q
    exact ⟨rfl, by rw [eq], others, regs⟩
  · have serves : t.flash = s.flash ∧ s.dev.Serves t.dev := by
      obtain ⟨req, a, b, c, e, f, g, rfl | rfl | rfl | rfl | rfl | rfl | rfl | rfl | rfl | rfl | rfl | rfl | rfl | rfl | rfl⟩ := named
      · rw [exec_getVersion] at ran
        exact run_serves ran fun d => d.serve_serves _ _ _ _ _
      · rw [exec_getCapabilities] at ran
        exact run_serves ran fun d => d.serve_serves _ _ _ _ _
      · rw [exec_negotiateAlgorithms] at ran
        exact run_serves ran (Dev.negotiateAlgorithms_serves _ _ _ _)
      · rw [exec_getDigests] at ran
        exact run_serves ran fun d => d.serve_serves _ _ _ _ _
      · rw [exec_getCertificate] at ran
        exact run_serves ran fun d => d.serve_serves _ _ _ _ _
      · rw [exec_challenge] at ran
        exact run_serves ran fun d => d.serve_serves _ _ _ _ _
      · rw [exec_getMeasurements] at ran
        exact run_serves ran (Dev.getMeasurements_serves _ _)
      · rw [exec_keyExchange] at ran
        exact run_serves ran (Dev.keyExchange_serves _ _)
      · rw [exec_finish] at ran
        exact run_serves ran (Dev.finish_serves _ _ _)
      · rw [exec_endSession] at ran
        exact run_serves ran fun d => d.serve_serves _ _ _ _ _
      · rw [exec_heartbeat] at ran
        exact run_serves ran fun d => d.serve_serves _ _ _ _ _
      · rw [exec_keyUpdate] at ran
        exact run_serves ran fun d => d.serve_serves _ _ _ _ _
      · rw [exec_chunkSend] at ran
        exact run_serves ran (Dev.chunkSend_serves _ _ _ _)
      · rw [exec_chunkGet] at ran
        exact run_serves ran fun d => d.serve_serves _ _ _ _ _
      · rw [exec_ideKm] at ran
        exact run_serves ran (Dev.ideKm_serves _ _ _)
    obtain ⟨flash, ⟨sp, rs, o, fi, eq⟩, regs⟩ := serves
    exact ⟨flash, by rw [eq], fun r x j h => regs r (by simpa using h) x j⟩

end Sys2Proof.Machine
end

section
/-! PROOFS. Who reaches a queue's page (R337): O51. -/

namespace Sys2Proof.Machine

/-! ### Reads of a page -/

section
variable {d : Dev} {fn q c : Nat} {r : Reg}

theorem Dev.readable_que (page : (regSpec r).block = .que) (j : Nat) : d.readable fn ⟨r, q, j⟩ =
    (d.served && (decide (fn = 0) || decide ((d.ctxOfQueue q).map d.tenantOf = some fn))) := by
  simp only [Dev.readable, page]

/-- Two registers of a page are write-only, the doorbells (Table 21.4). -/
theorem que_readable_fields (page : (regSpec r).block = .que) (db : r ≠ .queDb) (cqDb : r ≠ .queCqDb) :
    ∀ f ∈ regFields r, f.acc ≠ .wo := by
  have all : ∀ r ∈ Reg.all, (regSpec r).block = .que → r ≠ .queDb → r ≠ .queCqDb → ∀ f ∈ regFields r, f.acc ≠ .wo := by decide +kernel
  exact all r (Reg.mem_all r) page db cqDb

theorem foldl_wo_of_none {fs : List FldSpec} (h : ∀ f ∈ fs, f.acc ≠ .wo) (v : Nat) :
    fs.foldl (fun v s => if s.acc = .wo then setBits v s.fld.lo s.fld.w 0 else v) v = v := by
  induction fs with
  | nil => rfl
  | cons f fs ih =>
    rw [List.foldl_cons, if_neg (h f (.head _))]
    exact ih fun g hg => h g (.tail _ hg)

theorem Dev.regView_page (served : d.served = true) (owner : d.ctxOfQueue q = some c) (may : fn = d.tenantOf c ∨ fn = 0)
    (page : (regSpec r).block = .que) (db : r ≠ .queDb) (cqDb : r ≠ .queCqDb) (j : Nat) : d.regView fn ⟨r, q, j⟩ = d.reg r q j := by
  have readable : d.readable fn ⟨r, q, j⟩ = true := by
    rw [Dev.readable_que page, served, owner]
    rcases may with rfl | rfl <;> simp
  have notTime : r ≠ .timeNow ∧ r ≠ .timeFrac ∧ r ≠ .timeHostOut := by
    refine ⟨?_, ?_, ?_⟩ <;> (rintro rfl; cases page)
  simp only [Dev.regView, readable, notTime, Bool.not_true, Bool.false_eq_true, if_false]
  exact foldl_wo_of_none (que_readable_fields page db cqDb) _

theorem Dev.regView_foreign (owner : d.ctxOfQueue q = some c) (other : fn ≠ d.tenantOf c) (not0 : fn ≠ 0)
    (page : (regSpec r).block = .que) (j : Nat) : d.regView fn ⟨r, q, j⟩ = 0 := by
  have unreadable : d.readable fn ⟨r, q, j⟩ = false := by
    rw [Dev.readable_que page, owner]
    simp [not0, Ne.symm other]
  rw [Dev.regView, unreadable]
  rfl

/-! ### Where the page of a queue stands (Table 21.4) -/

theorem Dev.queWritable_eq (owner : d.ctxOfQueue q = some c) : d.queWritable fn q = (d.served && decide (d.tenantOf c = fn)) := by
  simp only [Dev.queWritable, owner]

/-- The index that an offset within a page names in a register, if it names one. -/
def pageIndex (r : Reg) (o : Nat) : Option Nat :=
  if (regSpec r).block = .que ∧ (regSpec r).offset ≤ o ∧ (o - (regSpec r).offset) % (regSpec r).stride = 0 ∧
    (o - (regSpec r).offset) / (regSpec r).stride < (regSpec r).count then some ((o - (regSpec r).offset) / (regSpec r).stride) else none

theorem placeIn_page (page : (regSpec r).block = .que) (hq : q < 16384) {o : Nat} (ho : o < 0x1000) :
    placeIn r (0x1000 * q + o) = (pageIndex r o).map fun k => ⟨r, q, k⟩ := by
  have inst : (0x1000 * q + o) / 0x1000 = q := by omega
  have within : (0x1000 * q + o) % 0x1000 = o := by omega
  simp only [placeIn, pageIndex, page, blockPlace, Nat.sub_zero, inst, within]
  by_cases h : (regSpec r).offset ≤ o ∧ (o - (regSpec r).offset) % (regSpec r).stride = 0 ∧
    (o - (regSpec r).offset) / (regSpec r).stride < (regSpec r).count
  · simp [h, hq]
  · rw [if_neg (by simpa [hq, and_assoc] using h), if_neg (by simpa using h)]
    rfl

/-- An offset of a page names the register that the offset within the page names. -/
theorem regAt_page (hq : q < 16384) {o : Nat} (ho : o < 0x1000) : regAt 2 (0x1000 * q + o) =
    (Reg.all.findSome? fun r => (pageIndex r o).map (Prod.mk r)).map fun p => ⟨p.1, q, p.2⟩ := by
  rw [regAt, List.map_findSome?]
  congr 1
  funext r
  by_cases page : (regSpec r).block = .que
  · rw [if_pos (by simp [page]), placeIn_page page hq ho, Function.comp, Option.map_map]
    rfl
  · rw [if_neg (by simp [page]), Function.comp, pageIndex, if_neg fun h => page h.1]
    rfl

theorem regAt_base (hq : q < 16384) (base : r = .queSqBase ∨ r = .queCqBase) :
    regAt 2 ((0x1000 * q + (regSpec r).offset) / 8 * 8) = some ⟨r, q, 0⟩ := by
  rcases base with rfl | rfl
  · have here : (Reg.all.findSome? fun r => (pageIndex r 0x18).map (Prod.mk r)) = some (.queSqBase, 0) := by decide +kernel
    rw [show (0x1000 * q + (regSpec .queSqBase).offset) / 8 * 8 = 0x1000 * q + 0x18 by simp only [regSpec]; omega,
      regAt_page hq (by decide), here]
    rfl
  · have here : (Reg.all.findSome? fun r => (pageIndex r 0x20).map (Prod.mk r)) = some (.queCqBase, 0) := by decide +kernel
    rw [show (0x1000 * q + (regSpec .queCqBase).offset) / 8 * 8 = 0x1000 * q + 0x20 by simp only [regSpec]; omega,
      regAt_page hq (by decide), here]
    rfl

/-! ### Writes to a page -/

theorem Dev.regWritable_page (page : (regSpec r).block = .que) (j : Nat) :
    d.regWritable fn ⟨r, q, j⟩ = (d.queWritable fn q && !d.flag F.queCfg_enable q) := by
  simp only [Dev.regWritable, page]

theorem placeIn_reg {o : Nat} {a : RegAt} (h : placeIn r o = some a) : a.reg = r := by
  unfold placeIn at h
  dsimp only at h
  exact congrArg RegAt.reg (Option.some.inj (Option.ite_none_right_eq_some.1 h).2).symm

/-- An entry in BAR2 is one of a queue's page. -/
theorem regAt_bar2 {o : Nat} {a : RegAt} (h : regAt 2 o = some a) : (regSpec a.reg).block = .que := by
  obtain ⟨r, -, place⟩ := List.exists_of_findSome?_eq_some h
  obtain ⟨page, place⟩ := Option.ite_none_right_eq_some.1 place
  rw [placeIn_reg place]
  simpa using page

/-- A write of another function changes no register of a page. -/
theorem Dev.regWrite_foreign {off : Nat} {a : RegAt} (wide : Bool) (v : Word) (place : off < 0x4000000)
    (hat : regAt 2 (off / 8 * 8) = some a) (foreign : d.queWritable fn a.inst = false) : d.regWrite fn 2 off wide v = d := by
  have refused : d.regWritable fn a = false := by
    rw [Dev.regWritable_page (regAt_bar2 hat), foreign]
    rfl
  have notMsix : (2 = 2 && 0x4000000 ≤ off && off < 0x4008000 : Bool) = false := by
    simp only [Bool.and_eq_false_iff, decide_eq_false_iff_not]
    omega
  rw [Dev.regWrite, if_neg (ne_true_of_eq_false notMsix), hat]
  exact if_neg (by simp [refused])

theorem regFields_base (base : r = .queSqBase ∨ r = .queCqBase) : (regSpec r).block = .que ∧ ownRow r = false ∧
    (regSpec r).offset < 0x1000 ∧ (regSpec r).offset % 8 = 0 ∧ r ≠ .fabPortCfg ∧ r ≠ .mbxCmd ∧ ∀ f ∈ regFields r, f.acc = .rw := by
  rcases base with rfl | rfl <;> decide

/-- While its queue is disabled, a base register takes what its owner writes. -/
theorem Dev.regWrite_base (own : d.queWritable fn q = true) (hq : q < 16384) (base : r = .queSqBase ∨ r = .queCqBase)
    (off : d.flag F.queCfg_enable q = false) (v : Word) : ∃ e, d.regWrite fn 2 (0x1000 * q + (regSpec r).offset) true v = e ∧
      ∀ f ∈ regFields r, e.get f.fld q = bitsOf v.toNat f.fld.lo f.fld.w := by
  obtain ⟨page, row, below, -, notPort, notMbx, rw⟩ := regFields_base base
  have may : d.regWritable fn ⟨r, q, 0⟩ = true := by
    rw [Dev.regWritable_page page, own, off]
    rfl
  refine ⟨_, Dev.regWrite_permitted d true v (.inr (by omega)) (regAt_base hq base) row may, fun f hf => ?_⟩
  refine (Dev.get_writeReg d (a := ⟨r, q, 0⟩) notPort notMbx _ true v.toNat hf).trans ?_
  rw [if_pos (by rfl), FldSpec.after, rw f hf]
  rfl

theorem Dev.startQueue_cfg (d : Dev) (q : Nat) : (d.startQueue q).reg .queCfg q = d.reg .queCfg q := by
  unfold Dev.startQueue
  dsimp only
  rw [Dev.reg_put_ne _ _ _ _ _ _ (by decide), Dev.reg_put_ne _ _ _ _ _ _ (by decide), Dev.reg_put_ne _ _ _ _ _ _ (by decide),
    Dev.reg_put_ne _ _ _ _ _ _ (by decide)]
  rfl

theorem Dev.startQueue_phase (d : Dev) (q : Nat) : ((d.startQueue q).queue q).phase = true := by
  simp [Dev.startQueue]

theorem Dev.putQueCfg_cfg (d : Dev) (q : Nat) (v : Word) : (d.putQueCfg q v).reg .queCfg q = bitsOf v.toNat 0 23 :=
  (Dev.reg_setReg_self _ _ _ _ _).trans (Nat.mod_eq_of_lt (Nat.lt_trans (Nat.mod_lt _ (by decide)) (by decide)))

end

/-- Settles O51: whose page it is decides what is read, and whether a write takes effect. -/
theorem queuePagesBelongToTheirTenant : Obligations.QueuePagesBelongToTheirTenant := by
  intro s fn q c hfn hq served owner
  have writable : s.dev.queWritable fn q = decide (s.dev.tenantOf c = fn) := by
    rw [Dev.queWritable_eq owner, served, Bool.true_and]
  refine ⟨fun may r j page db cqDb => Dev.regView_page served owner may page db cqDb j,
    fun other not0 r j page => Dev.regView_foreign owner other not0 page j, fun tenant => ?_, fun other => ?_⟩
  · have own : s.dev.queWritable fn q = true := writable.trans (decide_eq_true tenant.symm)
    refine ⟨fun tail fits run inside => ?_, fun head fits run inside written => ?_, fun r v base off => ?_, fun v off on => ?_, fun v off => ?_⟩
    · exact ⟨_, run_withDev (by simp [Instr.wf, hfn, hq, fits]) (Dev.queDb_moves own run inside),
        congrArg Queue.sqTail (Dev.modQueue_queue _ _ _)⟩
    · exact ⟨_, run_withDev (by simp [Instr.wf, hfn, hq, fits]) (Dev.queCqDb_moves own run inside written),
        congrArg Queue.cqHead (Dev.modQueue_queue _ _ _)⟩
    · obtain ⟨-, -, below, aligned, -⟩ := regFields_base base
      obtain ⟨e, wrote, fields⟩ := Dev.regWrite_base own hq base off v
      refine ⟨_, run_withDev ?_ wrote, fields⟩
      simp only [Instr.wf, Bool.and_eq_true, Bool.or_eq_true, decide_eq_true_eq]
      exact ⟨⟨⟨⟨hfn, .inr trivial⟩, by omega⟩, by omega⟩, .inr (by omega)⟩
    · exact ⟨_, run_withDev (by simp [Instr.wf, hfn, hq]) (Dev.queEnable_starts own off on),
        (Dev.startQueue_cfg _ _).trans (Dev.putQueCfg_cfg _ _ _), Dev.startQueue_phase _ _⟩
    · exact ⟨_, run_withDev (by simp [Instr.wf, hfn, hq]) (Dev.queDisable_ends own off), Dev.putQueCfg_cfg _ _ _⟩
  · have foreign : s.dev.queWritable fn q = false := writable.trans (decide_eq_false (Ne.symm other))
    refine ⟨fun n fits => ?_, fun v => ?_, fun off wide v a named place hat inst => ?_⟩
    · obtain ⟨db, cqDb, -⟩ := Dev.queCommands_ignored foreign n 0
      exact ⟨run_withDev (by simp [Instr.wf, hfn, hq, fits]) db, run_withDev (by simp [Instr.wf, hfn, hq, fits]) cqDb⟩
    · obtain ⟨-, -, enable, disable⟩ := Dev.queCommands_ignored foreign 0 v
      exact ⟨run_withDev (by simp [Instr.wf, hfn, hq]) enable, run_withDev (by simp [Instr.wf, hfn, hq]) disable⟩
    · exact run_withDev named (Dev.regWrite_foreign wide v place hat (inst ▸ foreign))

end Sys2Proof.Machine
end

section
/-! PROOFS. The events of the time reference (chapter 19): O40. -/

namespace Sys2Proof.Machine

section
variable {d : Dev}

/-! ### Beacons and link delays (R415) -/

theorem Dev.beaconSend_master (master : d.timeState = TimeSt.master) :
    d.beaconSend = d.each (List.range 32) fun p e => e.sendCtrl p (.beacon d.ownRank 0 d.time.now) := if_pos master

/-- The only beacon that a follower knows comes from the selected port. -/
theorem selectedBeacon_singleton (p : Nat) (x : Nat × Nat × Nat) : (selectedBeacon [(p, x)]).map (·.1) = some p := rfl

/-- A follower that holds no beacon of the last 100 µs acts on the one that it receives. -/
theorem Dev.beaconReceive_takes {p hop : Nat} (rank time : Nat) (up : d.portIsUp p = true) (near : hop ≤ 7)
    (follows : d.timeState ≠ TimeSt.master) (stale : ∀ e ∈ d.time.beacons, 100000 < d.ns - e.2.2.2) :
    d.beaconReceive p rank hop time =
      Dev.takeBeacon { d with time := { d.time with beacons := [(p, (hop, rank, d.ns))] } } p rank hop time := by
  have none : (d.time.beacons.filter fun e => d.ns - e.2.2.2 ≤ 100000) = [] :=
    List.filter_eq_nil_iff.2 fun e he => by simpa only [decide_eq_true_eq, Nat.not_le] using stale e he
  rw [Dev.beaconReceive, if_neg (by simp [up, near]), if_neg follows, none]
  exact if_pos (selectedBeacon_singleton p _)

theorem Dev.linkDelayMeasure_up {p : Nat} (ps : Nat) (up : d.portIsUp p = true) : d.linkDelayMeasure p ps =
    { d with time := { d.time with delays := SMap.set d.time.delays p ((ps + 5) / 10 * 10) } } := if_pos up

/-! ### Holdover (R417) -/

theorem Dev.holdover_quiet (locked : d.timeState = TimeSt.locked) (none : d.time.beacons = []) : d.holdover =
    Dev.put { d with time := { d.time with beacons := [] } } F.timeStat_state 0 TimeSt.holdover := by
  rw [Dev.holdover, if_pos (by rw [locked, none]; rfl), none]
  rfl

theorem Dev.timeState_put (d : Dev) {st : Nat} (fits : st < 2 ^ F.timeStat_state.w) : (d.put F.timeStat_state 0 st).timeState = st :=
  (Dev.get_put_self _ _ _ _ _ (by decide)).trans (Nat.mod_eq_of_lt fits)

/-! ### Adjustments (R419, R420) -/

theorem Dev.timeAdj_master (v : Word) (opened : d.barOpen = true) (master : d.timeState = TimeSt.master) :
    d.timeAdj 0 v = d.adjust v := if_pos (by simp [opened, master])

theorem Dev.adjust_forward {v : Word} (h : 0 ≤ v.toInt) :
    d.adjust v = { d with time := { d.time with now := (d.time.now + v.toInt.toNat * 65536) % 2 ^ 80 } } := if_pos h

theorem Dev.adjust_back {v : Word} (h : v.toInt < 0) :
    d.adjust v = { d with time := { d.time with absorb := d.time.absorb + (-v.toInt).toNat * 65536 } } := if_neg (Int.not_le.2 h)

/-- A clock that is more than 1 µs behind its reference steps forward to it. -/
theorem Dev.correct_steps {ref : Nat} (behind : d.time.now + usUnits < ref) :
    d.correct ref = { d with time := { d.time with now := ref % 2 ^ 80, absorb := 0 } } := by
  rw [Dev.correct]
  dsimp only
  rw [if_neg (by omega), if_pos (by omega)]

theorem Dev.tsyncInEdge_aligns {edge : Nat} (fits : edge < 2 ^ 64) (master : d.timeState = TimeSt.master)
    (source : d.flag F.timeCfg_tsync_src 0 = true) (behind : d.time.now + usUnits < edge * 65536) :
    d.tsyncInEdge edge = { d with time := { d.time with now := edge * 65536, absorb := 0, lastTsync := edge } } := by
  have now : edge * 65536 % 2 ^ 80 = edge * 65536 := Nat.mod_eq_of_lt (by omega)
  have ns : edge * 65536 / 65536 % 2 ^ 64 = edge := by omega
  rw [Dev.tsyncInEdge, if_pos (by simp [master, source]), Dev.correct_steps behind]
  simp only [now, Dev.ns, ns]

/-! ### The time pins (R420) -/

theorem Dev.wholeSecond_pps (near : (d.ns + 1) % 10 ^ 9 ≤ 2) (pps : d.flag F.timeCfg_pps_en 0 = true)
    (noTsync : d.flag F.timeCfg_tsync_en 0 = false) : d.wholeSecond = d.emit (.pin "PPS_OUT" 1) := by
  rw [Dev.wholeSecond, if_pos near, if_pos pps]
  exact if_neg (by simpa using noTsync)

/-! ### Reads of device time (R413, R421) -/

/-- A latch of device time, taken for a function. -/
theorem Dev.timeNowRead_whole (fn : Nat) (opened : d.barOpen = true) : d.timeNowRead fn none =
    Dev.emit { d with time := { d.time with fracLatch := SMap.set d.time.fracLatch fn (d.time.now % 65536) } }
      (.readData fn (leBytes 8 d.ns) true) := by
  rw [Dev.timeNowRead]
  exact if_neg (by simp [opened])

theorem Dev.timeNowRead_low (fn : Nat) (opened : d.barOpen = true) : d.timeNowRead fn (some false) =
    Dev.emit { d with time := { d.time with fracLatch := SMap.set d.time.fracLatch fn (d.time.now % 65536),
                                            highLatch := SMap.set d.time.highLatch fn (d.ns / 2 ^ 32) } }
      (.readData fn (leBytes 4 d.ns) true) := by
  rw [Dev.timeNowRead]
  exact if_neg (by simp [opened])

theorem Dev.timeNowRead_high (fn : Nat) (opened : d.barOpen = true) : d.timeNowRead fn (some true) =
    d.emit (.readData fn (leBytes 4 (SMap.get d.time.highLatch 0 fn)) true) := by
  rw [Dev.timeNowRead]
  exact if_neg (by simp [opened])

theorem Dev.timeHostInRead_whole (fn depart : Nat) (opened : d.barOpen = true) : d.timeHostInRead fn true depart =
    Dev.emit { d with time := { d.time with inLatch := SMap.set d.time.inLatch fn d.ns,
                                            outLatch := SMap.set d.time.outLatch fn ((d.ns + depart) % 2 ^ 64) } }
      (.readData fn (leBytes 8 d.ns) true) := by
  rw [Dev.timeHostInRead, if_neg (by decide), if_neg (by simp [opened])]

end

/-- Settles O40: each event meets the conditions that its clause states, and what it sets is read back. -/
theorem timeEventsComplete : Obligations.TimeEventsComplete := by
  refine ⟨fun s master => run_withDev rfl (Dev.beaconSend_master master),
    fun s p rank hop time named up near follows stale =>
      ⟨_, rfl, rfl, run_withDev named (Dev.beaconReceive_takes rank time up near follows stale)⟩,
    fun s p ps hp up => ⟨_, run_withDev (by simp [Instr.wf, hp]) (Dev.linkDelayMeasure_up ps up), SMap.get_set_self _ _ _ _⟩,
    fun s locked none => ⟨_, run_withDev rfl (Dev.holdover_quiet locked none), Dev.timeState_put _ (by decide), rfl⟩,
    fun s v opened master => ⟨fun forward => ?_, fun back => ?_⟩,
    fun s edge fits master source behind => ?_,
    fun s near pps noTsync => run_withDev rfl (Dev.wholeSecond_pps near pps noTsync),
    fun s fn hfn opened => ⟨?_, ?_, fun depart => ?_⟩⟩
  · exact ⟨_, run_withDev rfl ((Dev.timeAdj_master v opened master).trans (Dev.adjust_forward forward)), rfl⟩
  · exact ⟨_, run_withDev rfl ((Dev.timeAdj_master v opened master).trans (Dev.adjust_back back)), rfl, rfl⟩
  · exact ⟨_, run_withDev (by simpa [Instr.wf] using fits) (Dev.tsyncInEdge_aligns fits master source behind), rfl, rfl⟩
  · exact ⟨_, run_withDev (decide_eq_true hfn) (Dev.timeNowRead_whole fn opened), rfl, SMap.get_set_self _ _ _ _⟩
  · refine ⟨_, _, run_withDev (decide_eq_true hfn) (Dev.timeNowRead_low fn opened),
      run_withDev (decide_eq_true hfn) (Dev.timeNowRead_high fn opened), ?_⟩
    exact congrArg (fun x => Out.readData fn (leBytes 4 x) true :: Out.readData fn (leBytes 4 s.dev.ns) true :: s.dev.out)
      (SMap.get_set_self s.dev.time.highLatch 0 fn _)
  · exact ⟨_, run_withDev (by simp [Instr.wf, hfn]) (Dev.timeHostInRead_whole fn depart opened), rfl, SMap.get_set_self _ _ _ _,
      SMap.get_set_self _ _ _ _⟩

end Sys2Proof.Machine
end

section
/-! PROOFS. Self-tests (chapter 20): O41. -/

namespace Sys2Proof.Machine

/-- A descriptor that stands with an operation stands with any. -/
theorem Dev.Stands.anyOp {d : Dev} {q i cls op c : Nat} {w : Waiter} {bs : List Byte} (h : d.Stands q i cls op c w bs) :
    d.Stands q i cls 256 c w bs := by
  obtain ⟨hq, hi, owner, desc, wq, wi, isCls, -⟩ := h
  exact ⟨hq, hi, owner, desc, wq, wi, isCls, .inl rfl⟩

theorem Dev.Stands.op_eq {d : Dev} {q i cls op c : Nat} {w : Waiter} {bs : List Byte} (h : d.Stands q i cls op c w bs)
    (named : op ≠ 256) : fieldAt bs 16 1 = op := by
  obtain ⟨-, -, -, -, -, -, -, any | same⟩ := h
  · exact absurd any named
  · exact same

section
variable {d : Dev} {q i c block index : Nat} {w : Waiter} {bs : List Byte} {r : TestReq}

/-- SELFTEST past its checks joins the requests of its block. -/
theorem Dev.selftest_joins (stands : d.Stands q i 11 0 c w bs) (kind : fieldAt bs 17 1 ≤ 4)
    (range : fieldAt bs 18 2 < testRange (fieldAt bs 17 1)) (level : fieldAt bs 20 1 ≤ 1) (zeros : allZero (slice bs 21 3) = true)
    (tail : allZero (slice bs 28 36) = true) (present : d.noSuchBlock (fieldAt bs 17 1) (fieldAt bs 18 2) = false) :
    d.selftest q i = { d.accept w with tests := d.tests ++
      [⟨fieldAt bs 17 1, fieldAt bs 18 2, fieldAt bs 20 1, some w, d.ns, fieldAt bs 24 4, false⟩] } := by
  rw [Dev.selftest, Dev.withDesc_stands stands.anyOp]
  dsimp only
  rw [if_neg (by simp [stands.op_eq (by decide), zeros, tail, kind, range, level]),
    if_neg (by simp [present])]

theorem Dev.firmwareSelftest_joins (level : Nat) (running : d.running = true) (present : d.noSuchBlock block index = false)
    (free : d.blockHeld block index = false) : d.firmwareSelftest block index level =
      { d with tests := d.tests ++ [⟨block, index, level, none, d.ns, 0, false⟩] } := if_pos (by simp [running, present, free])

/-! ### The first request of a block (R423) -/

theorem Dev.firstTest_on (first : d.firstTest block index = some r) : r.on block index = true :=
  List.find?_some (p := fun t : TestReq => t.on block index) first

/-- A change of the first request that keeps its block is of the first request still. -/
theorem Dev.firstTest_modTest {r' : TestReq} {f : TestReq → Option TestReq} (first : d.firstTest block index = some r)
    (change : f r = some r') (same : r'.on block index = true) : (d.modTest block index f).firstTest block index = some r' := by
  obtain ⟨on, before, after, split, notOn⟩ := List.find?_eq_some_iff_append.1 first
  have here : (!r.on block index) = false := by simpa using on
  rw [Dev.firstTest, Dev.modTest, split, List.takeWhile_append_of_pos notOn, List.dropWhile_append_of_pos notOn]
  simp only [List.takeWhile_cons, List.dropWhile_cons, here]
  rw [List.find?_append, List.find?_append]
  have none : before.find? (fun t => t.on block index) = none := List.find?_eq_none.2 fun t ht => by simpa using notOn t ht
  simp [none, change, same]

theorem Dev.selftestStart_on (first : d.firstTest block index = some r) (waiting : r.running = false)
    (free : d.blockHeld block index = false) (up : d.power.shut = false) (on : d.domOn (testDomain block index) = true) :
    d.selftestStart block index = d.modTest block index fun t => some { t with running := true } := by
  rw [Dev.selftestStart, first]
  dsimp only
  rw [if_neg (by simp [waiting, free, up]), if_pos on]

theorem Dev.selftestDone_ends (part us : Nat) (first : d.firstTest block index = some r) (running : r.running = true)
    (who : r.who = some w) : d.selftestDone block index part us =
      (if part = 0 then d.modTest block index (fun _ => none)
        else (d.modTest block index (fun _ => none)).failBlock block index).complete w Status.ok
          ((if part = 0 then 0 else 1) + part % 256 * 2 ^ 8 + us % 2 ^ 32 * 2 ^ 16) := by
  rw [Dev.selftestDone, first]
  dsimp only
  rw [if_neg (by simp [running]), who]

/-! ### A wait that is over (R422) -/

theorem Dev.selftestWaitExpiry_ends (late : d.tests.find? (fun t => t.on block index && !t.running && 0 < t.waitMs &&
      t.since + t.waitMs * 1000000 ≤ d.ns) = some r) (held : d.blockHeld block index = true) (who : r.who = some w) :
    d.selftestWaitExpiry block index = Dev.complete { d with tests := d.tests.erase r } w Status.deferred 0 := by
  rw [Dev.selftestWaitExpiry]
  dsimp only
  rw [late]
  dsimp only
  rw [if_neg (by simp [held]), who]

end

/-- Settles O41: each command takes the branch that its conditions leave, and the block's first request is read back. -/
theorem selftestsComplete : Obligations.SelftestsComplete := by
  refine ⟨fun s q i c w bs stands kind range level zeros tail present => ?_,
    fun s block index level named running present free => ?_,
    fun s block index r named first waiting free up on => ?_,
    fun s block index part us r w named first running who => ?_,
    fun s block index r w named late held who awaited => ?_⟩
  · exact ⟨_, run_withDev (by simp [Instr.wf, stands.wf]) (Dev.selftest_joins stands kind range level zeros tail present), rfl⟩
  · exact ⟨_, run_withDev named (Dev.firmwareSelftest_joins level running present free), rfl⟩
  · exact ⟨_, run_withDev named (Dev.selftestStart_on first waiting free up on),
      Dev.firstTest_modTest first rfl (show r.on block index = true from Dev.firstTest_on first)⟩
  · exact run_withDev named (Dev.selftestDone_ends part us first running who)
  · exact ⟨_, run_withDev named (Dev.selftestWaitExpiry_ends late held who), rfl, Dev.complete_due _ _ awaited⟩

end Sys2Proof.Machine
end

section
/-! PROOFS. What the commands of the time reference and of power leave unchanged: O58. -/

namespace Sys2Proof.Machine

theorem run_keeps {ok : Bool} {f : Dev → Dev} {s t : State} (P : Dev → Dev → Prop) (ran : run ok f s = .next t)
    (keeps : ∀ d, P d (f d)) : t.flash = s.flash ∧ P s.dev t.dev := by
  rw [(run_next ran).2]
  exact ⟨rfl, keeps s.dev⟩

/-! ### The time pins, reads of device time, adjustments -/

/-- A device that differs in its time, TIME_STAT, answers sent and free values drawn alone. -/
structure Dev.Times (d e : Dev) : Prop where
  rest : ∃ tm rs o fi, e = { d with time := tm, regs := rs, out := o, freeIdx := fi }
  regs : d.KeepsRegs [.timeStat] e

namespace Dev.Times
variable {d e : Dev}

theorem refl (d : Dev) : d.Times d := ⟨⟨_, _, _, _, rfl⟩, .refl _ d⟩

theorem time (h : d.Times e) (tm : TimeBase) : d.Times { e with time := tm } := by
  obtain ⟨⟨_, _, _, _, rfl⟩, regs⟩ := h
  exact ⟨⟨_, _, _, _, rfl⟩, regs⟩

theorem emit (h : d.Times e) (o : Out) : d.Times (e.emit o) := by
  obtain ⟨⟨_, _, _, _, rfl⟩, regs⟩ := h
  exact ⟨⟨_, _, _, _, rfl⟩, regs⟩

theorem freeVal (h : d.Times e) : d.Times e.freeVal.2 := by
  obtain ⟨⟨_, _, _, _, rfl⟩, regs⟩ := h
  exact ⟨⟨_, _, _, _, rfl⟩, regs⟩

theorem put (h : d.Times e) {f : Fld} (stat : f.reg ∈ [Reg.timeStat]) (i v j : Nat) : d.Times (e.put f i v j) := by
  obtain ⟨⟨_, _, _, _, rfl⟩, regs⟩ := h
  exact ⟨⟨_, _, _, _, rfl⟩, regs.put stat i v j⟩

theorem ite {p : Prop} [Decidable p] {e' : Dev} (yes : d.Times e) (no : d.Times e') : d.Times (if p then e else e') := by
  split
  · exact yes
  · exact no

end Dev.Times

theorem Dev.linkDelayMeasure_times (p ps : Nat) (d : Dev) : d.Times (d.linkDelayMeasure p ps) := by
  unfold Dev.linkDelayMeasure
  split
  · exact (Times.refl d).time _
  · exact .refl d

theorem Dev.holdover_times (d : Dev) : d.Times d.holdover := by
  unfold Dev.holdover
  exact .ite (((Times.refl d).time _).put (f := F.timeStat_state) (by decide) _ _ _) (.refl d)

theorem Dev.timeAdj_times (fn : Nat) (v : Word) (d : Dev) : d.Times (d.timeAdj fn v) := by
  unfold Dev.timeAdj Dev.adjust
  dsimp only
  split
  · split <;> exact (Times.refl d).time _
  · exact .refl d

theorem Dev.correct_times (d : Dev) (ref : Nat) : d.Times (d.correct ref) := by
  unfold Dev.correct Dev.trimRate
  dsimp only
  split
  · exact (Times.refl d).time _
  · split
    · exact (Times.refl d).time _
    · split
      · exact .refl d
      · exact (Times.refl d).freeVal.time _

theorem Dev.tsyncInEdge_times (edge : Nat) (d : Dev) : d.Times (d.tsyncInEdge edge) := by
  unfold Dev.tsyncInEdge
  split
  · exact (d.correct_times _).time _
  · exact .refl d

theorem Dev.wholeSecond_times (d : Dev) : d.Times d.wholeSecond := by
  unfold Dev.wholeSecond
  dsimp only
  have pps : d.Times (if d.flag F.timeCfg_pps_en 0 then d.emit (.pin "PPS_OUT" 1) else d) := .ite ((Times.refl d).emit _) (.refl d)
  exact .ite (.ite (pps.emit _) pps) (.refl d)

theorem Dev.timeNowRead_times (fn : Nat) (half : Option Bool) (d : Dev) : d.Times (d.timeNowRead fn half) := by
  unfold Dev.timeNowRead
  dsimp only
  split
  · exact (Times.refl d).emit _
  · split
    · exact ((Times.refl d).time _).emit _
    · exact ((Times.refl d).time _).emit _
    · exact (Times.refl d).emit _

theorem Dev.timeHostInRead_times (fn : Nat) (wide : Bool) (dep : Nat) (d : Dev) : d.Times (d.timeHostInRead fn wide dep) := by
  unfold Dev.timeHostInRead
  split
  · exact (Times.refl d).emit _
  · split
    · exact (Times.refl d).emit _
    · exact ((Times.refl d).time _).emit _

/-! ### Beacons -/

/-- The registers that a beacon reaches. -/
def beaconRegs : List Reg := [.timeStat, .timeOfs, .poolStat]

theorem block_of_beaconRegs : ∀ r ∈ beaconRegs, (regSpec r).block = .time ∨ r = .poolStat := by decide

/-- A device that differs in its time, the registers of beacons, free values drawn and the flits on its ports alone. -/
structure Dev.Beacons (d e : Dev) : Prop where
  rest : ∃ tm rs fi ps, e = { d with time := tm, regs := rs, freeIdx := fi, ports := ps }
  regs : d.KeepsRegs beaconRegs e

namespace Dev.Beacons
variable {d d1 e : Dev}

theorem refl (d : Dev) : d.Beacons d := ⟨⟨_, _, _, _, rfl⟩, .refl _ d⟩

theorem trans (h : d.Beacons d1) (h' : d1.Beacons e) : d.Beacons e := by
  obtain ⟨⟨_, _, _, _, rfl⟩, regs⟩ := h
  obtain ⟨⟨_, _, _, _, rfl⟩, regs'⟩ := h'
  exact ⟨⟨_, _, _, _, rfl⟩, regs.trans regs'⟩

theorem time (h : d.Beacons e) (tm : TimeBase) : d.Beacons { e with time := tm } :=
  h.trans ⟨⟨_, _, _, _, rfl⟩, .refl _ e⟩

theorem modPort (h : d.Beacons e) (p : Nat) (f : Port → Port) : d.Beacons (e.modPort p f) :=
  h.trans ⟨⟨_, _, _, _, rfl⟩, .refl _ e⟩

theorem setReg (h : d.Beacons e) {r : Reg} (hr : r ∈ beaconRegs) (i v j : Nat) : d.Beacons (e.setReg r i v j) :=
  h.trans ⟨⟨_, _, _, _, rfl⟩, (KeepsRegs.refl _ e).setReg hr i v j⟩

theorem put (h : d.Beacons e) {f : Fld} (hf : f.reg ∈ beaconRegs) (i v j : Nat) : d.Beacons (e.put f i v j) := h.setReg hf i _ j

theorem each {α : Type} (h : d.Beacons e) (xs : List α) {f : α → Dev → Dev} (step : ∀ x d, Dev.Beacons d (f x d)) :
    d.Beacons (e.each xs f) :=
  Dev.each_induct d.Beacons e xs f h fun x _ _ h => h.trans (step x _)

theorem ite {p : Prop} [Decidable p] {e' : Dev} (yes : d.Beacons e) (no : d.Beacons e') : d.Beacons (if p then e else e') := by
  split
  · exact yes
  · exact no

end Dev.Beacons

theorem Dev.countPool_beacons (d : Dev) (die : Nat) : d.Beacons (d.countPool die) := by
  unfold Dev.countPool
  dsimp only
  split
  · exact .refl d
  · exact ((Beacons.refl d).put (f := F.poolStat_free) (by decide) _ _ _).put (f := F.poolStat_low) (by decide) _ _ _

theorem Dev.stageEntry_beacons (d : Dev) (p : Nat) (x : Egress) : d.Beacons (d.stageEntry p x) := by
  unfold Dev.stageEntry
  generalize (if d.paused x then 0 else min (x.left - x.staged) (d.flitRoom x.die x.owner)) = n
  dsimp only
  split
  · exact .refl d
  · exact ((Beacons.refl d).modPort p _).trans (Dev.countPool_beacons _ _)

/-- Control flits that wait for a buffer are not counted. -/
theorem Dev.countWait_ctrl (d : Dev) {x : Egress} (ctrl : x.cls = 0) : d.countWait x = d := by
  rw [Dev.countWait, if_neg (by simp [ctrl]), if_neg (by simp [ctrl])]

theorem Dev.enqueue_beacons (d : Dev) (p : Nat) {x : Egress} (ctrl : x.cls = 0) : d.Beacons (d.enqueue p x) := by
  have staged : d.Beacons ((d.modPort p fun y => { y with egress := y.egress ++ [x] }).stageEntry p x) :=
    ((Beacons.refl d).modPort p _).trans (Dev.stageEntry_beacons _ _ _)
  unfold Dev.enqueue
  dsimp only
  split
  · rwa [Dev.countWait_ctrl _ ctrl]
  · exact staged

theorem Dev.sendCtrl_beacons (d : Dev) (p rank hop now : Nat) : d.Beacons (d.sendCtrl p (.beacon rank hop now)) := by
  unfold Dev.sendCtrl
  split
  · exact d.enqueue_beacons p rfl
  · exact .refl d

theorem Dev.beaconSend_beacons (d : Dev) : d.Beacons d.beaconSend := by
  unfold Dev.beaconSend
  dsimp only
  split
  · exact (Beacons.refl d).each _ fun p d => d.sendCtrl_beacons p _ _ _
  · exact .refl d

theorem Dev.correct_beacons (d : Dev) (ref : Nat) : d.Beacons (d.correct ref) := by
  unfold Dev.correct Dev.trimRate
  dsimp only
  split
  · exact (Beacons.refl d).time _
  · split
    · exact (Beacons.refl d).time _
    · split
      · exact .refl d
      · exact ⟨⟨_, _, _, _, rfl⟩, .refl _ d⟩

theorem Dev.timeAdvance_beacons (d : Dev) (off : Int) : d.Beacons (d.timeAdvance off) := by
  have state : ∀ (tm : TimeBase) (st : Nat), d.Beacons (Dev.put { d with time := tm } F.timeStat_state 0 st) := fun tm _ =>
    ((Beacons.refl d).time tm).put (f := F.timeStat_state) (by decide) _ _ _
  unfold Dev.timeAdvance
  exact .ite (state _ _) (.ite (state _ _) (.ite (state _ _) ((Beacons.refl d).time _)))

theorem Dev.takeBeacon_beacons (d : Dev) (port rank hop time : Nat) : d.Beacons (d.takeBeacon port rank hop time) := by
  unfold Dev.takeBeacon
  refine Beacons.each ?_ _ fun p d => d.sendCtrl_beacons p _ _ _
  refine Beacons.trans ?_ (Dev.timeAdvance_beacons _ _)
  refine Beacons.trans ?_ (Dev.correct_beacons _ _)
  exact (((Beacons.refl d).put (f := F.timeStat_hop) (by decide) _ _ _).put (f := F.timeStat_mrank) (by decide) _ _ _).setReg
    (by decide) _ _ _

theorem Dev.beaconReceive_beacons (port rank hop time : Nat) (d : Dev) : d.Beacons (d.beaconReceive port rank hop time) := by
  unfold Dev.beaconReceive
  split
  · exact .refl d
  · split
    · split
      · exact (Beacons.refl d).put (f := F.timeStat_conflict) (by decide) _ _ _
      · exact .refl d
    · dsimp only
      split
      · exact ((Beacons.refl d).time _).trans (Dev.takeBeacon_beacons _ _ _ _ _)
      · exact (Beacons.refl d).time _

/-! ### Power and temperature -/

/-- The registers that wakes, levels and clamps reach. -/
def powerRegs : List Reg := [.pwrWakeStat, .pwrDomOn, .pwrTemp, .pwrStat, .pwrLimit, .pwrCoreThr, .pwrUnitThr]

theorem block_of_powerRegs : ∀ r ∈ powerRegs, (regSpec r).block = .pwr := by decide

/-- A device that differs in its record of power, the registers of power and free values drawn alone. -/
structure Dev.Powers (d e : Dev) : Prop where
  rest : ∃ pw rs fi, e = { d with power := pw, regs := rs, freeIdx := fi }
  regs : d.KeepsRegs powerRegs e

namespace Dev.Powers
variable {d d1 e : Dev}

theorem refl (d : Dev) : d.Powers d := ⟨⟨_, _, _, rfl⟩, .refl _ d⟩

theorem trans (h : d.Powers d1) (h' : d1.Powers e) : d.Powers e := by
  obtain ⟨⟨_, _, _, rfl⟩, regs⟩ := h
  obtain ⟨⟨_, _, _, rfl⟩, regs'⟩ := h'
  exact ⟨⟨_, _, _, rfl⟩, regs.trans regs'⟩

theorem power (h : d.Powers e) (pw : Power) : d.Powers { e with power := pw } := h.trans ⟨⟨_, _, _, rfl⟩, .refl _ e⟩

theorem freeVal (h : d.Powers e) : d.Powers e.freeVal.2 := h.trans ⟨⟨_, _, _, rfl⟩, .refl _ e⟩

theorem setReg (h : d.Powers e) {r : Reg} (hr : r ∈ powerRegs) (i v j : Nat) : d.Powers (e.setReg r i v j) :=
  h.trans ⟨⟨_, _, _, rfl⟩, (KeepsRegs.refl _ e).setReg hr i v j⟩

theorem put (h : d.Powers e) {f : Fld} (hf : f.reg ∈ powerRegs) (i v j : Nat) : d.Powers (e.put f i v j) := h.setReg hf i _ j

theorem each {α : Type} (h : d.Powers e) (xs : List α) {f : α → Dev → Dev} (step : ∀ x d, Dev.Powers d (f x d)) :
    d.Powers (e.each xs f) :=
  Dev.each_induct d.Powers e xs f h fun x _ _ h => h.trans (step x _)

theorem setDom (h : d.Powers e) (n : Nat) (on : Bool) : d.Powers (e.setDom n on) := h.setReg (by decide) _ _ _

/-- The next domain of the queue takes a token. -/
theorem takeToken (h : d.Powers e) (n : Nat) : d.Powers ((e.dec F.pwrWakeStat_tokens 0).setDom n true) :=
  (h.put (f := F.pwrWakeStat_tokens) (by decide) _ _ _).setDom n true

end Dev.Powers

theorem Dev.wakeRequest_powers (n : Nat) (d : Dev) : d.Powers (d.wakeRequest n) := by
  unfold Dev.wakeRequest Dev.askWake
  dsimp only
  split
  · exact .refl d
  · split
    · exact .refl d
    · split
      · exact (Powers.refl d).takeToken n
      · exact ((Powers.refl d).power _).put (f := F.pwrWakeStat_queued) (by decide) _ _ _

theorem Dev.wakeGrant_powers (d : Dev) : d.Powers d.wakeGrant := by
  unfold Dev.wakeGrant
  dsimp only
  split
  · split
    · exact .refl d
    · exact ((((Powers.refl d).takeToken _).power _).put (f := F.pwrWakeStat_queued) (by decide) _ _ _).put
        (f := F.pwrWakeStat_max_wait_ns) (by decide) _ _ _
  · exact .refl d

theorem Dev.tokenRefill_powers (d : Dev) : d.Powers d.tokenRefill :=
  ((Powers.refl d).power _).put (f := F.pwrWakeStat_tokens) (by decide) _ _ _

theorem Dev.domainIdleOff_powers (n : Nat) (d : Dev) : d.Powers (d.domainIdleOff n) := by
  unfold Dev.domainIdleOff
  split
  · exact (Powers.refl d).setDom n false
  · exact .refl d

theorem Dev.showLevel_powers (n : Nat) (d : Dev) : d.Powers (d.showLevel n) := by
  unfold Dev.showLevel
  refine (Powers.refl d).setReg ?_ _ _ _
  split <;> decide

theorem Dev.senseTemp_powers (d : Dev) (n : Nat) (temp : Int) : d.Powers (d.senseTemp n temp) := by
  refine Dev.senseTemp_induct d.Powers d n temp (fun x => (Powers.refl d).power _) fun e f v j sensor h => h.put ?_ _ _ _
  rcases sensor with temp | stat
  · rw [temp]
    decide
  · rw [stat]
    decide

theorem Dev.selfThrottleSample_powers (n : Nat) (temp : Int) (d : Dev) : d.Powers (d.selfThrottleSample n temp) := by
  unfold Dev.selfThrottleSample
  split
  · exact .refl d
  · exact ((d.senseTemp_powers n temp).power _).trans (Dev.showLevel_powers _ _)

theorem Dev.junctionClampStep_powers (n : Nat) (temp : Int) (d : Dev) : d.Powers (d.junctionClampStep n temp) := by
  unfold Dev.junctionClampStep
  split
  · exact .refl d
  · dsimp only
    split
    · exact ((d.senseTemp_powers n temp).power _).trans (Dev.showLevel_powers _ _)
    · exact ((d.senseTemp_powers n temp).freeVal.power _).trans (Dev.showLevel_powers _ _)

theorem Dev.packageFloorSample_powers (ma : Nat) (d : Dev) : d.Powers (d.packageFloorSample ma) := by
  unfold Dev.packageFloorSample
  split
  · exact .refl d
  · refine Powers.each ?_ _ Dev.showLevel_powers
    exact (((Powers.refl d).put (f := F.pwrStat_pkg_w) (by decide) _ _ _).power _).put (f := F.pwrLimit_floor) (by decide) _ _ _

theorem Dev.currentClamp_powers (rail ma : Nat) (d : Dev) : d.Powers (d.currentClamp rail ma) := by
  unfold Dev.currentClamp
  split
  · exact ((Powers.refl d).power _).put (f := F.pwrStat_clamps) (by decide) _ _ _
  · exact .refl d

theorem Dev.currentClampRelease_powers (rail : Nat) (d : Dev) : d.Powers (d.currentClampRelease rail) := (Powers.refl d).power _

/-- Settles O58: each command keeps what its block's relation keeps. -/
theorem timeAndPowerFrames : Obligations.TimeAndPowerFrames := by
  refine ⟨fun s t i ran which => ?_, fun s t i ran which => ?_, fun s t i ran which => ?_⟩
  · have kept : t.flash = s.flash ∧ s.dev.Times t.dev := by
      obtain ⟨p, ps, fn, v, edge, half, wide, dep, rfl | rfl | rfl | rfl | rfl | rfl | rfl⟩ := which
      · rw [exec_linkDelayMeasure] at ran
        exact run_keeps Dev.Times ran (Dev.linkDelayMeasure_times _ _)
      · rw [exec_holdover] at ran
        exact run_keeps Dev.Times ran Dev.holdover_times
      · rw [exec_timeAdj] at ran
        exact run_keeps Dev.Times ran (Dev.timeAdj_times _ _)
      · rw [exec_tsyncInEdge] at ran
        exact run_keeps Dev.Times ran (Dev.tsyncInEdge_times _)
      · rw [exec_wholeSecond] at ran
        exact run_keeps Dev.Times ran Dev.wholeSecond_times
      · rw [exec_timeNowRead] at ran
        exact run_keeps Dev.Times ran (Dev.timeNowRead_times _ _)
      · rw [exec_timeHostInRead] at ran
        exact run_keeps Dev.Times ran (Dev.timeHostInRead_times _ _ _)
    obtain ⟨flash, ⟨tm, rs, o, fi, eq⟩, regs⟩ := kept
    exact ⟨flash, by rw [eq], fun r x j h => regs r (by simpa using h) x j⟩
  · have kept : t.flash = s.flash ∧ s.dev.Beacons t.dev := by
      obtain ⟨p, r, h, n, rfl | rfl⟩ := which
      · rw [exec_beaconSend] at ran
        exact run_keeps Dev.Beacons ran Dev.beaconSend_beacons
      · rw [exec_beaconReceive] at ran
        exact run_keeps Dev.Beacons ran (Dev.beaconReceive_beacons _ _ _ _)
    obtain ⟨flash, ⟨tm, rs, fi, ps, eq⟩, regs⟩ := kept
    exact ⟨flash, by rw [eq], fun r x j time pool => regs r (fun h => (block_of_beaconRegs r h).elim time pool) x j⟩
  · have kept : t.flash = s.flash ∧ s.dev.Powers t.dev := by
      obtain ⟨n, temp, rail, ma, rfl | rfl | rfl | rfl | rfl | rfl | rfl | rfl | rfl⟩ := which
      · rw [exec_wakeRequest] at ran
        exact run_keeps Dev.Powers ran (Dev.wakeRequest_powers _)
      · rw [exec_wakeGrant] at ran
        exact run_keeps Dev.Powers ran Dev.wakeGrant_powers
      · rw [exec_tokenRefill] at ran
        exact run_keeps Dev.Powers ran Dev.tokenRefill_powers
      · rw [exec_domainIdleOff] at ran
        exact run_keeps Dev.Powers ran (Dev.domainIdleOff_powers _)
      · rw [exec_selfThrottleSample] at ran
        exact run_keeps Dev.Powers ran (Dev.selfThrottleSample_powers _ _)
      · rw [exec_junctionClampStep] at ran
        exact run_keeps Dev.Powers ran (Dev.junctionClampStep_powers _ _)
      · rw [exec_packageFloorSample] at ran
        exact run_keeps Dev.Powers ran (Dev.packageFloorSample_powers _)
      · rw [exec_currentClamp] at ran
        exact run_keeps Dev.Powers ran (Dev.currentClamp_powers _ _)
      · rw [exec_currentClampRelease] at ran
        exact run_keeps Dev.Powers ran (Dev.currentClampRelease_powers _)
    obtain ⟨flash, ⟨pw, rs, fi, eq⟩, regs⟩ := kept
    exact ⟨flash, by rw [eq], fun r x j block => regs r (fun h => block (block_of_powerRegs r h)) x j⟩

end Sys2Proof.Machine
end

section
/-! PROOFS. Idle steps are cycles of the time base (R413, R417, R419): O56. -/

namespace Sys2Proof.Machine

/-! ### What a cycle does besides the tick keeps the time base -/

/-- The time base and the count of its cycles. -/
def Dev.clock (d : Dev) : TimeBase × Nat := (d.time, d.cycles)

theorem Dev.each_clock {α : Type} (d : Dev) (xs : List α) {f : α → Dev → Dev} (step : ∀ x e, (f x e).clock = e.clock) :
    (d.each xs f).clock = d.clock :=
  Dev.each_induct (·.clock = d.clock) d xs f rfl fun x _ e h => (step x e).trans h

theorem Dev.freeBytes_clock (d : Dev) (n : Nat) : (d.freeBytes n).2.clock = d.clock := by
  induction n generalizing d with
  | zero => rfl
  | succ n ih => exact ih d.freeVal.2

theorem Dev.claimUnit_clock (d : Dev) (key u : Nat) : (d.claimUnit key u).clock = d.clock := by
  have drawn := d.freeBytes_clock 64
  unfold Dev.claimUnit
  generalize d.freeBytes 64 = r at drawn ⊢
  split
  · exact drawn
  · rfl

theorem Dev.setStore_clock (d : Dev) (tier : Nat) (m : Memory) : (d.setStore tier m).clock = d.clock := by
  unfold Dev.setStore
  split
  · rfl
  · split <;> rfl

theorem Dev.physWrite_clock (d : Dev) (tenant tier a : Nat) (bs : List Byte) : (d.physWrite tenant tier a bs).clock = d.clock := by
  unfold Dev.physWrite
  dsimp only
  split
  · exact d.each_clock _ fun u e => e.claimUnit_clock _ u
  · exact Dev.setStore_clock _ _ _

theorem Dev.ReadsTo.clock {d e : Dev} (h : d.ReadsTo e) : e.clock = d.clock := by
  obtain ⟨⟨_, _, _, _, _, rfl⟩, _, _⟩ := h
  rfl

theorem Dev.countPool_clock (d : Dev) (die : Nat) : (d.countPool die).clock = d.clock := by
  obtain ⟨rs, h⟩ := d.countPool_frame die
  rw [h]
  rfl

theorem Dev.stageEntry_clock (d : Dev) (p : Nat) (x : Egress) : (d.stageEntry p x).clock = d.clock := by
  obtain ⟨ps, rs, h⟩ := d.stageEntry_frame p x
  rw [h]
  rfl

theorem Dev.enqueue_clock (d : Dev) (p : Nat) (x : Egress) : (d.enqueue p x).clock = d.clock := by
  obtain ⟨ps, rs, h⟩ := d.enqueue_frame p x
  rw [h]
  rfl

theorem Dev.drainPort_clock (d : Dev) (p : Nat) : (d.drainPort p).clock = d.clock := by
  have staged : (d.stagePort p).clock = d.clock := d.each_clock _ fun x e => e.stageEntry_clock p x
  unfold Dev.drainPort
  dsimp only
  split
  · rfl
  · split
    · split
      · exact (Dev.countPool_clock _ _).trans staged
      · exact staged
    · exact staged

theorem Dev.endAwaits_clock (d : Dev) (w status result : Nat) : (d.endAwaits w status result).clock = d.clock :=
  Dev.each_clock _ _ fun _ _ => rfl

theorem Dev.abandonEpoch_clock (d : Dev) (w epoch : Nat) : (d.abandonEpoch w epoch).clock = d.clock :=
  Dev.endAwaits_clock _ _ _ _

theorem Dev.putDigest_clock (d : Dev) (w : Nat) (dg : List Byte) : (d.putDigest w dg).clock = d.clock :=
  d.each_clock _ fun _ _ => rfl

theorem Dev.flip_clock (d : Dev) (w : Nat) : (d.flip w).clock = d.clock :=
  (Dev.endAwaits_clock _ _ _ _).trans (Dev.putDigest_clock _ _ _)

theorem Dev.landData_clock (d : Dev) (w : Nat) (f : AccFlit) : (d.landData w f).clock = d.clock := by
  unfold Dev.landData
  dsimp only
  split
  · rfl
  · split
    · split
      · exact d.physWrite_clock _ _ _ _
      · rfl
    · rfl

theorem Dev.landEnd_clock (d : Dev) (w : Nat) (f : AccFlit) : (d.landEnd w f).clock = d.clock := by
  unfold Dev.landEnd
  dsimp only
  split
  · rfl
  · split
    · exact Dev.abandonEpoch_clock _ _ _
    · next o n _ =>
      have read := (d.physRead_readsTo (d.setTenant w) 0 (d.inactiveAddr w + 64 * o) n).clock
      split
      · exact Dev.abandonEpoch_clock _ _ _
      · split
        · exact (Dev.abandonEpoch_clock _ _ _).trans read
        · split
          · exact (Dev.flip_clock _ _).trans read
          · exact read

theorem Dev.takeFlit_clock (d : Dev) (w die : Nat) (f : AccFlit) : (d.takeFlit w die f).clock = d.clock := by
  unfold Dev.takeFlit
  dsimp only
  split
  · rfl
  · split
    · exact Dev.landData_clock _ _ _
    · exact Dev.landEnd_clock _ _ _

theorem Dev.acceptFlit_clock (d : Dev) (die : Nat) (f : AccFlit) (w : Nat) : (d.acceptFlit die f w).clock = d.clock := by
  unfold Dev.acceptFlit Dev.stale
  dsimp only
  split
  · split <;> rfl
  · split
    · exact d.takeFlit_clock _ _ _
    · refine (Dev.takeFlit_clock _ _ _ _).trans ?_
      split <;> rfl

theorem Dev.countPaused_clock (d : Dev) (g : Nat) : (d.countPaused g).clock = d.clock := by
  unfold Dev.countPaused
  dsimp only
  split <;> rfl

theorem Dev.watchAccord_clock (d : Dev) : d.watchAccord.clock = d.clock := by
  unfold Dev.watchAccord
  dsimp only
  refine (Dev.countPool_clock _ _).trans ((Dev.countPool_clock _ _).trans ?_)
  split
  · rfl
  · exact Dev.each_clock _ _ fun g e => e.countPaused_clock g

theorem Dev.watchColl_clock (d : Dev) : d.watchColl.clock = d.clock :=
  d.each_clock _ fun g e => e.each_clock _ fun o e => by
    unfold Dev.watchOp
    dsimp only
    split <;> rfl

theorem Dev.publishFlit_clock (d : Dev) (w : Nat) (f : AccFlit) : (d.publishFlit w f).clock = d.clock := by
  unfold Dev.publishFlit
  split
  · exact d.each_clock _ fun x e => e.acceptFlit_clock 0 f x
  · refine (Dev.each_clock _ _ fun x e => e.acceptFlit_clock 0 f x).trans ?_
    exact d.each_clock _ fun p e => e.enqueue_clock p _

theorem Dev.inject_clock (d : Dev) (w : Nat) (fs : List AccFlit) : (d.inject w fs).2.clock = d.clock := by
  induction fs generalizing d with
  | nil => rfl
  | cons f fs ih =>
    unfold Dev.inject
    split
    · rfl
    · exact (ih _).trans ((Dev.watchAccord_clock _).trans (d.publishFlit_clock w f))

theorem Dev.resumeSends_clock (d : Dev) : d.resumeSends.clock = d.clock :=
  d.each_clock _ fun x e => e.inject_clock x.set x.rest

theorem Dev.idle_clock (d : Dev) : d.idle.clock = (d.time.tick, d.cycles + 1) :=
  (Dev.resumeSends_clock _).trans ((Dev.watchColl_clock _).trans ((Dev.watchAccord_clock _).trans
    (d.tick.each_clock _ fun p e => e.drainPort_clock p)))

/-! ### Ticks -/

/-- A cycle counts the rate, and takes back what it can of the time to be absorbed. -/
theorem mod_sub_min {m now rate back absorb n : Nat} (slower : back ≤ rate) :
    ((now + n * rate - min absorb (n * back)) % m + (rate - min (absorb - n * back) back)) % m =
      (now + (n + 1) * rate - min absorb ((n + 1) * back)) % m := by
  have below : n * back ≤ n * rate := Nat.mul_le_mul_left n slower
  rw [Nat.mod_add_mod, Nat.succ_mul, Nat.succ_mul]
  congr 1
  omega

theorem TimeBase.ticks (t : TimeBase) (n : Nat) (inRange : t.now < 2 ^ 80) :
    TimeBase.tick^[n] t = { t with
      now := (t.now + n * t.rate - min t.absorb (n * (t.rate - t.rate / 2))) % 2 ^ 80,
      absorb := t.absorb - n * (t.rate - t.rate / 2) } := by
  induction n with
  | zero =>
    rw [Nat.zero_mul, Nat.zero_mul, Nat.min_zero, Nat.sub_zero, Nat.sub_zero, Nat.add_zero, Nat.mod_eq_of_lt inRange]
    rfl
  | succ n ih =>
    rw [Function.iterate_succ_apply', ih, TimeBase.tick]
    dsimp only
    rw [mod_sub_min (Nat.sub_le _ _), Nat.succ_mul n (t.rate - t.rate / 2), Nat.sub_add_eq, tsub_min]

theorem Dev.idle_iterate_clock (d : Dev) (n : Nat) : (Dev.idle^[n] d).clock = (TimeBase.tick^[n] d.time, d.cycles + n) := by
  induction n with
  | zero => rfl
  | succ n ih =>
    obtain ⟨time, cycles⟩ := Prod.mk.inj ih
    rw [Function.iterate_succ_apply', Function.iterate_succ_apply', Dev.idle_clock, time, cycles, Nat.add_assoc]

theorem steps_idle (n : Nat) {s : State} (none : s.pending = []) : steps n s = .next (s.withDev (Dev.idle^[n] s.dev)) := by
  induction n generalizing s with
  | zero => rfl
  | succ n ih =>
    have idles : step s = .next (s.withDev s.dev.idle) := by
      unfold step
      split
      · rfl
      · next queued => cases none.symm.trans queued
    rw [steps, idles]
    exact ih none

/-! ### A device at rest -/

theorem SMap.mem_of_find {α : Type} {m : SMap α} {k : Nat} {v : α} (found : SMap.find m k = some v) : (k, v) ∈ m := by
  induction m with
  | nil => cases found
  | cons e rest ih =>
    rw [SMap.find] at found
    split at found
    · next same =>
      obtain rfl := Option.some.inj found
      exact same ▸ List.mem_cons_self
    · exact List.mem_cons_of_mem _ (ih found)

/-- Nothing waits on a port or to land, no share stands at its cap, no operation of a group runs, no SEND is held, and the buffers of the
pool are free. -/
structure Dev.Rests (d : Dev) : Prop where
  waiting : d.waiting = []
  held : ∀ e ∈ d.sets, e.2.held = []
  shares : d.shares = []
  ops : ∀ e ∈ d.groups, e.2.ops = []
  sends : ∀ x ∈ d.sends, x.rest = []
  pool : ∀ die < 2, d.get F.poolStat_free die = sharedBuffers

theorem Dev.each_fix {α : Type} (d : Dev) (xs : List α) {f : α → Dev → Dev} (fix : ∀ x ∈ xs, f x d = d) : d.each xs f = d :=
  Dev.each_induct (· = d) d xs f rfl fun x hx e he => by rw [he, fix x hx]

namespace Dev.Rests
variable {d : Dev}

theorem tick (h : d.Rests) : d.tick.Rests := ⟨h.waiting, h.held, h.shares, h.ops, h.sends, h.pool⟩

theorem port_egress (h : d.Rests) (p : Nat) : (d.port p).egress = [] := by
  have all : ∀ e ∈ d.ports, e.2.egress = [] := List.flatMap_eq_nil_iff.1 h.waiting
  rw [Dev.port, SMap.get]
  cases found : SMap.find d.ports p with
  | none => rfl
  | some y => exact all _ (SMap.mem_of_find found)

theorem drainPort (h : d.Rests) (p : Nat) : d.drainPort p = d := if_pos (by rw [h.port_egress p]; rfl)

theorem landing (h : d.Rests) (die : Nat) : d.landing die = [] := by
  have none : (d.sets.flatMap fun e => (e.2.held.filter fun x => x.1 = die).map fun x => x.2) = [] :=
    List.flatMap_eq_nil_iff.2 fun e he => by rw [h.held e he]; rfl
  rw [Dev.landing, none]
  rfl

theorem countPool (h : d.Rests) {die : Nat} (onDevice : die < 2) : d.countPool die = d := by
  have free : d.sharedFree die = sharedBuffers := by
    rw [Dev.sharedFree, h.waiting, h.landing die]
    rfl
  exact if_pos ((h.pool die onDevice).trans free.symm)

theorem publishesHere (h : d.Rests) : d.publishesHere = [] := by
  have none : (d.sets.flatMap fun e => e.2.held.map fun x => (x.2.group, x.2.gset, x.2.epoch)) = [] :=
    List.flatMap_eq_nil_iff.2 fun e he => by rw [h.held e he]; rfl
  rw [Dev.publishesHere, h.shares, none, h.waiting]
  rfl

theorem watchAccord (h : d.Rests) : d.watchAccord = d := by
  rw [Dev.watchAccord, h.publishesHere]
  rw [List.flatMap_nil, if_pos h.shares.symm, h.countPool (by decide), h.countPool (by decide)]

theorem watchColl (h : d.Rests) : d.watchColl = d :=
  d.each_fix _ fun e he => by rw [h.ops e he]; rfl

theorem resumeSends (h : d.Rests) : d.resumeSends = d := by
  have none : (d.sends.filter fun x => !x.rest.isEmpty) = [] :=
    List.filter_eq_nil_iff.2 fun x hx => by simp [h.sends x hx]
  rw [Dev.resumeSends, none]
  rfl

theorem idle (h : d.Rests) : d.idle = d.tick := by
  rw [Dev.idle, d.tick.each_fix _ fun p _ => h.tick.drainPort p, h.tick.watchAccord, h.tick.watchColl, h.tick.resumeSends]

theorem idle_iterate (h : d.Rests) (n : Nat) : Dev.idle^[n] d =
    { d with time := TimeBase.tick^[n] d.time, cycles := d.cycles + n, banks := if n = 0 then d.banks else [] } := by
  induction n generalizing d with
  | zero => rfl
  | succ n ih =>
    rw [Function.iterate_succ_apply, h.idle, ih h.tick]
    simp only [Dev.tick, Function.iterate_succ_apply, ite_self, Nat.add_assoc, Nat.add_comm 1 n, Nat.succ_ne_zero, if_false]

end Dev.Rests

/-- Settles O56: a cycle besides its tick keeps the time base, and does nothing on a device at rest. -/
theorem idleStepsCountTime : Obligations.IdleStepsCountTime := by
  refine ⟨fun s n back none inRange hback => ?_, fun s t n none waiting held shares ops sends pool ran => ?_⟩
  · obtain ⟨time, cycles⟩ := Prod.mk.inj (s.dev.idle_iterate_clock n)
    subst hback
    exact ⟨_, steps_idle n none, none, rfl, cycles, time.trans (s.dev.time.ticks n inRange)⟩
  · have rests : s.dev.Rests := ⟨waiting, held, shares, ops, sends, pool⟩
    obtain rfl := Host.Outcome.next.inj ((steps_idle n none).symm.trans ran)
    rw [State.withDev, rests.idle_iterate n]

end Sys2Proof.Machine
end

section
/-! PROOFS. Host windows over allocated granules (R246, R349, R350): O57. -/

namespace Sys2Proof.Machine

/-! ### One piece -/

theorem pieces_of_fits {va : Nat} {bs : List Byte} (some : bs ≠ []) (fits : bs.length ≤ pageBytes - va % pageBytes) :
    pieces va bs = [(va, bs)] := by
  cases bs with
  | nil => exact absurd rfl some
  | cons b bs => rw [pieces, piecesGo, List.take_of_length_le fits, List.drop_eq_nil_of_le fits, piecesGo] <;> simp

theorem fits_of_pieces {va : Nat} {bs : List Byte} (one : pieces va bs = [(va, bs)]) :
    bs ≠ [] ∧ bs.length ≤ pageBytes - va % pageBytes := by
  cases bs with
  | nil => cases one
  | cons b bs =>
    rw [pieces, piecesGo] at one
    · have whole := (Prod.mk.inj (List.cons.inj one).1).2
      exact ⟨List.cons_ne_nil _ _, List.take_eq_self_iff _ |>.1 whole⟩
    · exact List.cons_ne_nil _ _

/-- Where bytes make one piece, as many zeros do. -/
theorem pieces_zeros {va : Nat} {bs : List Byte} (one : pieces va bs = [(va, bs)]) :
    pieces va (List.replicate bs.length 0) = [(va, List.replicate bs.length 0)] := by
  obtain ⟨some, fits⟩ := fits_of_pieces one
  exact pieces_of_fits (by simpa using some) (by simpa using fits)

/-! ### Metadata (R245, R246) -/

theorem blockCode_mod (block : List Byte) : blockCode block % 4 ≠ 3 := by
  unfold blockCode
  dsimp only
  split
  · decide
  · split <;> omega

theorem bitsOf_low (e lo : Nat) : bitsOf e lo 2 = bitsOf e lo 16 % 4 := by
  rw [bitsOf, bitsOf, Nat.mod_mod_of_dvd _ (by decide : 4 ∣ 2 ^ 16)]
  rfl

theorem modeBad_setBits (e j k : Nat) (block : List Byte) (good : modeBad e k = false) :
    modeBad (setBits e (16 * j) 16 (blockCode block)) k = false := by
  rw [modeBad, decide_eq_false_iff_not] at good ⊢
  by_cases same : k = j
  · rw [same, bitsOf_low, bitsOf_setBits_self, Nat.mod_mod_of_dvd _ (by decide : 4 ∣ 2 ^ 16)]
    exact blockCode_mod block
  · rcases Nat.lt_or_gt_of_ne same with below | above
    · rwa [bitsOf_setBits_below _ _ _ _ _ _ (by omega)]
    · rwa [bitsOf_setBits_above _ _ _ _ _ _ (by omega)]

section
variable {d : Dev}

@[simp] theorem Dev.metas_setMetas_heart (d : Dev) (m : SMap Nat) : (d.setMetas 1 m).metas 1 = m := rfl

theorem Dev.frameMeta_recode (tier frame off n k : Nat) (heart : tier = 1)
    (good : modeBad (d.frameMeta tier true frame) k = false) :
    modeBad ((d.recode tier frame off n).frameMeta tier true frame) k = false := by
  subst heart
  unfold Dev.recode
  split
  · exact good
  · extract_lets old new key
    have good' : modeBad new k = false :=
      List.foldlRecOn (motive := fun e => modeBad e k = false) _ _ good fun e h j _ => modeBad_setBits e j k _ h
    have stands : Dev.frameMeta (d.setMetas 1 (if new = 0 then SMap.erase (d.metas 1) key else SMap.set (d.metas 1) key new)) 1 true frame
        = new := by
      have same : ∀ m, (d.setMetas 1 m).metaKey 1 frame = key := fun _ => rfl
      rw [Dev.frameMeta, same, Dev.metas_setMetas_heart]
      split
      · next zero => rw [SMap.get, SMap.find_erase, if_pos rfl, zero]; rfl
      · exact SMap.get_set_self _ _ _ _
    rw [stands]
    exact good'


/-! ### A granule that answers -/

/-- An address lies in an allocated granule of the top or the heart note, of its context's own kind, whose requests all bring data. -/
structure Dev.Answers (d : Dev) (c va g : Nat) (l : Leaf) : Prop where
  inSpace : va < 2 ^ 50
  leaf : (d.ctx c).leafAt (va / pageBytes) = some (g, l)
  alloc : l.alloc = true
  sound : l.poison = false
  tier : l.tier < 2
  kind : l.kind ≠ .accord
  mode : d.badMode (va / pageBytes) g l = false

/-- The tier-physical address of an address under its leaf. -/
def physOf (va g : Nat) (l : Leaf) : Nat := l.frame * pageBytes + (va - g * pageBytes)

/-- The device with bytes stored at an address under a leaf, and the metadata of their blocks. -/
def Dev.storeLeaf (d : Dev) (va g : Nat) (l : Leaf) (bs : List Byte) : Dev :=
  let a := d.cellOf l.tier (physOf va g l)
  let e := d.setStore l.tier ((d.store l.tier).writeN a bs)
  if l.tier = 0 || !l.comp then e else e.recode l.tier (physOf va g l / pageBytes) (physOf va g l % pageBytes) bs.length

namespace Dev.Answers
variable {d : Dev} {c va g : Nat} {l : Leaf} {bs : List Byte}

theorem barred (h : d.Answers c va g l) : d.barred l = false := by
  have base : l.tier ≠ 2 := Nat.ne_of_lt h.tier
  simp [Dev.barred, h.sound, base]

theorem request (h : d.Answers c va g l) : d.request c [] (va / pageBytes) = (none, d) := by
  simp only [Dev.request, h.leaf, h.alloc, h.barred, h.mode]
  rfl

theorem placeOf (h : d.Answers c va g l) (reader : Option (Nat × Nat)) : d.placeOf reader g l va = (l.tier, physOf va g l) := by
  unfold Dev.placeOf
  split
  · next accord => exact absurd accord h.kind
  · rfl

theorem physRead (h : d.Answers c va g l) (tenant a n : Nat) :
    d.physRead tenant l.tier a n = ((d.store l.tier).readN (d.cellOf l.tier a) n, d) := if_neg (Nat.ne_of_lt h.tier)

theorem physWrite (h : d.Answers c va g l) (tenant a : Nat) (bs : List Byte) :
    d.physWrite tenant l.tier a bs = d.setStore l.tier ((d.store l.tier).writeN (d.cellOf l.tier a) bs) :=
  if_neg (Nat.ne_of_lt h.tier)

theorem peekVa (h : d.Answers c va g l) (one : pieces va bs = [(va, bs)]) :
    d.peekVa c none va bs.length = ((d.store l.tier).readN (d.cellOf l.tier (physOf va g l)) bs.length, d) := by
  rw [Dev.peekVa, pieces_zeros one]
  simp only [List.foldl_cons, List.foldl_nil, h.leaf, h.barred, h.alloc, h.placeOf, h.physRead, List.length_replicate,
    List.nil_append, if_true, Bool.false_eq_true, if_false]

theorem readVa (h : d.Answers c va g l) (one : pieces va bs = [(va, bs)]) :
    d.readVa c none [] va bs.length = (⟨((d.store l.tier).readN (d.cellOf l.tier (physOf va g l)) bs.length).map some, none⟩, d) := by
  have latch : d.latchRead none l = d := by
    unfold Dev.latchRead
    split
    · next reader => cases reader
    · rfl
  have peek := h.peekVa one
  rw [Dev.readVa, pieces_zeros one]
  simp only [List.foldl_cons, List.foldl_nil, h.leaf, latch, h.request, List.length_replicate, peek, List.nil_append,
    if_neg (Nat.not_le.2 h.inSpace)]

theorem prepWrite (h : d.Answers c va g l) (writable : l.w = true) : d.prepWrite c [] va none = (none, d) := by
  simp only [Dev.prepWrite, h.leaf, writable, h.alloc, if_neg (Nat.not_le.2 h.inSpace), h.request, Bool.not_true, Bool.false_eq_true,
    if_false, if_true]

theorem pokeVa (h : d.Answers c va g l) (one : pieces va bs = [(va, bs)]) : d.pokeVa c va bs = d.storeLeaf va g l bs := by
  rw [Dev.pokeVa, one]
  simp only [Dev.each_cons, Dev.each_nil, h.leaf, h.barred, h.alloc, h.placeOf, h.physWrite, Bool.false_eq_true, if_false, if_true]
  rfl

end Dev.Answers

/-! ### What a store in a granule changes -/

section
variable {d : Dev} {c va g : Nat} {l : Leaf} {bs : List Byte}

theorem Dev.storeLeaf_top (top : l.tier = 0) : d.storeLeaf va g l bs =
    { d with mem := { d.mem with top := d.mem.top.writeN (physOf va g l) bs } } := by
  rw [Dev.storeLeaf, top]
  rfl

theorem Dev.recode_heart (d : Dev) (frame off n : Nat) :
    ∃ m, d.recode 1 frame off n = { d with mem := { d.mem with metaHeart := m } } := by
  unfold Dev.recode
  split
  · exact ⟨d.mem.metaHeart, rfl⟩
  · exact ⟨_, rfl⟩

theorem Dev.storeLeaf_heart (heart : l.tier = 1) : ∃ m, d.storeLeaf va g l bs =
    { d with mem := { d.mem with heart := d.mem.heart.writeN (physOf va g l) bs, metaHeart := m } } := by
  rw [Dev.storeLeaf, heart]
  cases l.comp with
  | false => exact ⟨d.mem.metaHeart, rfl⟩
  | true => exact Dev.recode_heart { d with mem := { d.mem with heart := d.mem.heart.writeN (physOf va g l) bs } } _ _ _

/-- The frame that holds an address is its leaf's frame, moved on by its granule's place in the leaf. -/
theorem physOf_frame (va g : Nat) (l : Leaf) : physOf va g l / pageBytes = l.frame + (va / pageBytes - g) := by
  rw [physOf, pageBytes]
  omega

theorem Dev.badMode_recode {n off k : Nat} (heart : l.tier = 1) (comp : l.comp = true) (good : d.badMode k g l = false) :
    (d.recode 1 (l.frame + (k - g)) off n).badMode k g l = false := by
  unfold Dev.badMode at good ⊢
  rw [heart, comp] at good ⊢
  rcases Bool.and_eq_false_iff.1 good with exempt | readable
  · exact Bool.and_eq_false_iff.2 (.inl exempt)
  · refine Bool.and_eq_false_iff.2 (.inr (List.any_eq_false.2 fun j hj => ?_))
    have block := Bool.eq_false_iff.2 (List.any_eq_false.1 readable j hj)
    exact Bool.eq_false_iff.1 (Dev.frameMeta_recode 1 _ _ _ j rfl block)

/-- A store leaves the metadata of its granule readable. -/
theorem Dev.badMode_storeLeaf (onChip : l.tier < 2) (good : d.badMode (va / pageBytes) g l = false) :
    (d.storeLeaf va g l bs).badMode (va / pageBytes) g l = false := by
  match tier : l.tier with
  | 0 => simp [Dev.badMode, tier]
  | 1 =>
    rw [Dev.storeLeaf, tier, physOf_frame]
    cases comp : l.comp with
    | false => exact good
    | true => exact Dev.badMode_recode tier comp good
  | n + 2 => exact absurd (tier ▸ onChip) (by omega)

theorem Dev.storeLeaf_mem (onChip : l.tier < 2) : ∃ m, d.storeLeaf va g l bs = { d with mem := m } ∧ m.host = d.mem.host := by
  match tier : l.tier with
  | 0 => exact ⟨_, Dev.storeLeaf_top tier, rfl⟩
  | 1 =>
    obtain ⟨m, h⟩ := Dev.storeLeaf_heart (d := d) (va := va) (g := g) (bs := bs) tier
    exact ⟨_, h, rfl⟩
  | n + 2 => exact absurd (tier ▸ onChip) (by omega)

theorem Dev.storeLeaf_store (onChip : l.tier < 2) :
    (d.storeLeaf va g l bs).store l.tier = (d.store l.tier).writeN (physOf va g l) bs := by
  match tier : l.tier with
  | 0 => rw [Dev.storeLeaf_top tier]; rfl
  | 1 =>
    obtain ⟨m, h⟩ := Dev.storeLeaf_heart (d := d) (va := va) (g := g) (bs := bs) tier
    rw [h]
    rfl
  | n + 2 => exact absurd (tier ▸ onChip) (by omega)

theorem Dev.storeLeaf_store_ne {t : Nat} (onChip : l.tier < 2) (other : t ≠ l.tier) :
    (d.storeLeaf va g l bs).store t = d.store t := by
  match tier : l.tier with
  | 0 =>
    have ne : t ≠ 0 := tier ▸ other
    rw [Dev.storeLeaf_top tier]
    exact (if_neg ne).trans (if_neg ne).symm
  | 1 =>
    have ne : t ≠ 1 := tier ▸ other
    obtain ⟨m, h⟩ := Dev.storeLeaf_heart (d := d) (va := va) (g := g) (bs := bs) tier
    rw [h]
    simp only [Dev.store, if_neg ne]
  | n + 2 => exact absurd (tier ▸ onChip) (by omega)

theorem Dev.Answers.storeLeaf (h : d.Answers c va g l) : (d.storeLeaf va g l bs).Answers c va g l := by
  have mode := Dev.badMode_storeLeaf (bs := bs) h.tier h.mode
  obtain ⟨m, e, -⟩ := Dev.storeLeaf_mem (d := d) (va := va) (g := g) (bs := bs) h.tier
  rw [e] at mode ⊢
  exact ⟨h.inSpace, h.leaf, h.alloc, h.sound, h.tier, h.kind, mode⟩

end

/-! ### Host windows (R349, R350) -/

section
variable {d d1 : Dev} {fn a k : Nat} {rsp : TierRsp}

theorem Dev.served_bars (served : d.served = true) : d.barOpen = true ∧ d.flag F.glbInfo_ready 0 = true := by
  simpa [Dev.served] using served

theorem Dev.barOpen_cases (opened : d.barOpen = true) :
    d.flag F.hostStat_ide 0 = true ∧ (d.get F.hostStat_state 0 = 1 ∨ d.get F.hostStat_state 0 = 2) := by
  simpa [Dev.barOpen] using opened

theorem Dev.windowPiece_reads {n : Nat} {g : Got} (bound : d.bindingAt a = some k) (reaches : d.reaches fn k = true)
    (read : d.readVa (d.get F.hostWinCfg_ctx 0 k) none rsp (d.windowVa k a) n = (g, d1)) (good : g.bad = none) :
    d.windowPiece fn rsp a n = (some g.raw, d1) := by
  simp only [Dev.windowPiece, bound, reaches, read, good, Bool.not_true, Bool.false_eq_true, if_false]

/-- A read of one piece of a window that the tiers answer is answered with its bytes. -/
theorem Dev.hostWindowRead_reads {n : Nat} {g : Got} (served : d.served = true)
    (one : pieces a (List.replicate n 0) = [(a, List.replicate n 0)]) (bound : d.bindingAt a = some k) (reaches : d.reaches fn k = true)
    (read : d.readVa (d.get F.hostWinCfg_ctx 0 k) none rsp (d.windowVa k a) n = (g, d1)) (good : g.bad = none) :
    d.hostWindowRead fn a n false rsp = d1.emit (.readData fn g.raw true) := by
  obtain ⟨opened, -⟩ := Dev.served_bars served
  obtain ⟨ide, state⟩ := Dev.barOpen_cases opened
  have up : ¬(d.get F.hostStat_state 0 ≠ 1 && d.get F.hostStat_state 0 ≠ 2) = true := by
    rcases state with h | h <;> simp [h]
  simp only [Dev.hostWindowRead, if_neg up, ide, served, one, List.foldl_cons, List.foldl_nil, List.length_replicate,
    Dev.windowPiece_reads bound reaches read good, Bool.not_true, Bool.false_eq_true, if_false, List.nil_append]

theorem Dev.windowStore_writes {bs : List Byte} (bound : d.bindingAt a = some k) (reaches : d.reaches fn k = true)
    (writable : d.flag F.hostWinCfg_w 0 k = true)
    (ready : d.prepWrite (d.get F.hostWinCfg_ctx 0 k) rsp (d.windowVa k a) none = (none, d1)) :
    d.windowStore fn rsp a bs = (false, d1.land (d.get F.hostWinCfg_ctx 0 k) (d.windowVa k a) bs) := by
  simp only [Dev.windowStore, bound, reaches, writable, ready, Bool.not_true, Bool.false_eq_true, if_false]

/-- A write of one piece of a writable window that its granule accepts lands. -/
theorem Dev.hostWindowWrite_writes {bs : List Byte} (served : d.served = true) (one : pieces a bs = [(a, bs)])
    (bound : d.bindingAt a = some k) (reaches : d.reaches fn k = true) (writable : d.flag F.hostWinCfg_w 0 k = true)
    (ready : d.prepWrite (d.get F.hostWinCfg_ctx 0 k) rsp (d.windowVa k a) none = (none, d1)) :
    d.hostWindowWrite fn a false bs rsp = d1.land (d.get F.hostWinCfg_ctx 0 k) (d.windowVa k a) bs := by
  obtain ⟨opened, -⟩ := Dev.served_bars served
  simp only [Dev.hostWindowWrite, opened, served, one, List.foldl_cons, List.foldl_nil,
    Dev.windowStore_writes bound reaches writable ready, Bool.not_true, Bool.false_eq_true, if_false, Bool.or_self]

end

theorem Dev.land_unwatched {d : Dev} {c va g : Nat} {l : Leaf} {bs : List Byte} (h : d.Answers c va g l)
    (one : pieces va bs = [(va, bs)]) (none : (d.ctx c).watches = []) : d.land c va bs = d.storeLeaf va g l bs := by
  obtain ⟨m, e, -⟩ := Dev.storeLeaf_mem (d := d) (va := va) (g := g) (bs := bs) h.tier
  have watches : ((d.storeLeaf va g l bs).ctx c).watches = [] := by rw [e]; exact none
  rw [Dev.land, h.pokeVa one, Dev.watchLand, watches]
  rfl

/-- Settles O57: the write stores its bytes under the leaf, which still answers, and the read takes the same path. -/
theorem hostWindowWritesStoreTheirBytes : Obligations.HostWindowWritesStoreTheirBytes := by
  intro s fn a w c va g l bs wf served one bound reaches writable hc hva inSpace oneVa leaf lw alloc sound tier kind mode none canonical
  obtain ⟨some, -⟩ := fits_of_pieces oneVa
  have below : va < 2 ^ 50 := by
    have : 0 < bs.length := List.length_pos_iff.2 some
    omega
  have answers : s.dev.Answers c va g l := ⟨below, leaf, alloc, sound, tier, kind, mode⟩
  have after := answers.storeLeaf (bs := bs)
  have store := Dev.storeLeaf_store (d := s.dev) (va := va) (g := g) (bs := bs) tier
  have others := fun t => Dev.storeLeaf_store_ne (d := s.dev) (va := va) (g := g) (bs := bs) (t := t) tier
  have place : s.dev.cellOf l.tier (physOf va g l) = physOf va g l := if_neg (Nat.ne_of_lt tier)
  have bytes : ((s.dev.storeLeaf va g l bs).store l.tier).readN (physOf va g l) bs.length = bs := by
    rw [store, Memory.readN_writeN _ _ _ canonical]
  have write : s.dev.hostWindowWrite fn a false bs [] = s.dev.storeLeaf va g l bs := by
    subst hc hva
    rw [Dev.hostWindowWrite_writes served one bound reaches writable (answers.prepWrite lw), Dev.land_unwatched answers oneVa none]
  obtain ⟨m, e, host⟩ := Dev.storeLeaf_mem (d := s.dev) (va := va) (g := g) (bs := bs) tier
  rw [e] at write after store others bytes
  have read : Dev.hostWindowRead fn a bs.length false [] { s.dev with mem := m } =
      Dev.emit { s.dev with mem := m } (.readData fn bs true) := by
    have got := after.readVa oneVa
    rw [show Dev.cellOf { s.dev with mem := m } l.tier (physOf va g l) = physOf va g l from place, bytes] at got
    subst hc hva
    have h := Dev.hostWindowRead_reads (d := { s.dev with mem := m }) (fn := fn) (a := a) (k := w) served (pieces_zeros one) bound reaches
      got rfl
    rw [h, Got.raw, List.map_map]
    simp
  refine ⟨s.withDev { s.dev with mem := m }, _, physOf va g l, place.symm, run_withDev wf write, rfl, bytes, fun x outside => ?_,
    fun t _ other => others t other, host, run_withDev wf read, rfl⟩
  exact (congrArg (·.read x) store).trans (Memory.read_writeN_outside _ _ _ _ outside)

end

end Sys2Proof.Machine
end

section
/-! PROOFS. The host port (chapter 16): O35 and O34. -/

namespace Sys2Proof.Machine

section
variable {d : Dev}

/-! ### Detach and attach (R361, R362) -/

theorem Dev.linkL0Timeout_detaches (attached : d.get F.hostStat_state 0 = 2) : d.linkL0Timeout = d.detachPort := if_pos attached

theorem Dev.viral_detaches (attached : d.get F.hostStat_state 0 = 2) : d.viral = (d.put F.hostStat_viral 0 1).detachPort := if_pos attached

theorem Dev.ideFailure_detaches (attached : d.get F.hostStat_state 0 = 2) (ide : d.flag F.hostStat_ide 0 = true) :
    d.ideFailure = (d.logEvent 0x12 0).detachPort := by
  have still : (d.logEvent 0x12 0).get F.hostStat_state 0 = 2 := ((d.logEvent_keeps _ _).get (by decide) _ _).trans attached
  rw [Dev.ideFailure, if_pos ide]
  exact if_pos still

theorem Dev.reattach_attaches (opened : d.barOpen = true) (trained : d.get F.hostStat_state 0 = 1) : d.reattach 0 = d.attachPort :=
  if_pos (by simp [opened, trained])

theorem Dev.hostAttach_attaches (opened : d.barOpen = true) (trained : d.get F.hostStat_state 0 = 1)
    (first : d.get F.hostStat_detaches 0 = 0) (up : d.power.shut = false) : d.hostAttach = d.attachPort :=
  if_pos (by simp [(Dev.barOpen_cases opened).1, trained, first, up])

/-! ### The link (R346, R360, R396) -/

theorem Dev.hostLinkTrainingStart_starts (fresh : d.linkStarted = false) (boots : d.sec.stuck = false) (up : d.power.shut = false) :
    d.hostLinkTrainingStart = { d.put F.bootStat_link_ms 0 (min 65535 (d.ns / 1000000)) with linkStarted := true } :=
  if_neg (by simp [fresh, boots, up])

theorem Dev.hostLinkTrained_trains (width rate : Nat) (started : d.linkStarted = true) (up : d.power.shut = false)
    (down : d.get F.hostStat_state 0 = 0 ∨ d.get F.hostStat_state 0 = 3) : d.hostLinkTrained width rate =
      ((d.put F.hostStat_state 0 1).put F.hostStat_width 0 width).put F.hostStat_rate 0 rate :=
  if_pos (by simp [started, up, down])

theorem Dev.configRequest_answers (fn : Nat) (up : d.power.shut = false) (booted : d.get F.secStat_stage 0 = 3)
    (trained : d.get F.hostStat_state 0 = 1) : d.configRequest fn = d.emit (.config fn false) := by
  rw [Dev.configRequest, if_neg (by simp [up]), if_neg (by simp [booted])]
  exact if_pos (by simp [trained])

theorem Dev.flr_function {n : Nat} (some : n ≠ 0) (running : d.running = true) (attached : d.get F.hostStat_state 0 = 2) :
    d.flr (.function n) = d.resetTenant n := by
  rw [Dev.flr, if_neg (by simp [running, attached])]
  exact if_neg some

end

/-- Settles O35: a window's piece goes to its binding's context, and each event takes the branch that its conditions leave. -/
theorem hostEventsComplete : Obligations.HostEventsComplete := by
  refine ⟨fun s fn a n k rsp g d1 named served one bound reaches read good => ?_,
    fun s fn a k bs rsp d1 named served one bound reaches writable ready => ?_,
    fun s attached => ⟨?_, ?_, fun ide => ?_⟩,
    fun s opened trained => ⟨?_, fun first up => ?_⟩,
    fun s fresh boots up => ?_,
    fun s width rate named started up down => ?_,
    fun s fn hfn up booted trained => ?_,
    fun s n hn some running attached => ?_⟩
  · exact run_withDev named (Dev.hostWindowRead_reads served one bound reaches read good)
  · exact run_withDev named (Dev.hostWindowWrite_writes served one bound reaches writable ready)
  · exact run_withDev rfl (Dev.linkL0Timeout_detaches attached)
  · exact run_withDev rfl (Dev.viral_detaches attached)
  · exact run_withDev rfl (Dev.ideFailure_detaches attached ide)
  · exact run_withDev rfl (Dev.reattach_attaches opened trained)
  · exact run_withDev rfl (Dev.hostAttach_attaches opened trained first up)
  · refine ⟨_, run_withDev rfl (Dev.hostLinkTrainingStart_starts fresh boots up), rfl, ?_⟩
    refine (Dev.get_put_self s.dev F.bootStat_link_ms 0 _ 0 (by decide)).trans (Nat.mod_eq_of_lt ?_)
    exact Nat.lt_of_le_of_lt (Nat.min_le_left _ _) (by decide)
  · have fits : (((width = 1 ∨ width = 4) ∨ width = 8) ∨ width = 16) ∧ rate < 3 := by simpa [Instr.wf] using named
    refine ⟨_, run_withDev named (Dev.hostLinkTrained_trains width rate started up down), ?_, ?_, ?_⟩
    · rw [State.withDev, Dev.get_put_apart _ _ _ _ _ _ (by decide), Dev.get_put_apart _ _ _ _ _ _ (by decide),
        Dev.get_put_self _ _ _ _ _ (by decide)]
      rfl
    · rw [State.withDev, Dev.get_put_apart _ _ _ _ _ _ (by decide), Dev.get_put_self _ _ _ _ _ (by decide)]
      exact Nat.mod_eq_of_lt (Nat.lt_of_le_of_lt (by omega : width ≤ 16) (by decide))
    · rw [State.withDev, Dev.get_put_self _ _ _ _ _ (by decide)]
      exact Nat.mod_eq_of_lt (Nat.lt_of_lt_of_le fits.2 (by decide))
  · exact run_withDev (by simp [Instr.wf, hfn]) (Dev.configRequest_answers fn up booted trained)
  · exact run_withDev (by simp [Instr.wf, wfFlr, hn]) (Dev.flr_function some running attached)

@[simp] theorem Dev.complete_get (d : Dev) (w : Waiter) (status result : Nat) (f : Fld) (i j : Nat) :
    (d.complete w status result).get f i j = d.get f i j := rfl

theorem Dev.awaited_setReg {d : Dev} {w : Waiter} {r : Reg} {i v j : Nat} (h : Reg.queCfg ≠ r) :
    (d.setReg r i v j).Awaited w ↔ d.Awaited w := by
  simp only [Dev.Awaited, Dev.flag, Dev.setReg_queue, Dev.get_setReg_ne d (f := F.queCfg_enable) _ _ _ _ _ h]

/-! ### ENV (R353, R356 to R359, R410) -/

section
variable {d d1 : Dev} {q i c : Nat} {w : Waiter} {bs : List Byte} {rsp : TierRsp} {g : Got}

theorem Dev.withEnv0_stands {op : Nat} (stands : d.Stands q i 10 op c w bs) (tenant : d.tenantOf c = 0)
    (f : Nat → Waiter → List Byte → Dev → Dev) : d.withEnv0 q i op f = f c w bs d := by
  rw [Dev.withEnv0, Dev.withDesc_stands stands]
  exact if_pos tenant

/-- The contents of FAB_TOPO that a TOPO table names. -/
def topoWord (t : List Byte) : Nat :=
  fieldAt t 0 1 + fieldAt t 1 1 * 2 ^ 4 + fieldAt t 2 1 * 2 ^ 8 + fieldAt t 3 1 * 2 ^ 16 + fieldAt t 4 1 * 2 ^ 20 + 2 ^ 24

theorem Dev.topo_names (stands : d.Stands q i 10 1 c w bs) (tenant : d.tenantOf c = 0) (zeros : allZero (slice bs 17 7) = true)
    (tail : allZero (slice bs 32 32) = true) (aligned : fieldAt bs 24 8 % 64 = 0)
    (read : d.readVa c none rsp (fieldAt bs 24 8) 256 = (g, d1)) (good : g.bad = none) (form : topoForm g.raw = true)
    (free : ∀ k < 64, d1.flag F.fabGrpCfg_valid k = false) :
    d.topo q i rsp = ((d1.setReg .fabTopo 0 (topoWord g.raw)).each (List.range 32) fun p e =>
      e.namePort (decide (d1.reg .fabTopo 0 % 2 ^ 24 ≠ topoWord g.raw % 2 ^ 24)) p (bitsOf (fieldAt g.raw (64 + 4 * p) 4) 0 16)
        (bitsOf (fieldAt g.raw (64 + 4 * p) 4) 16 2)).complete w Status.ok 0 := by
  have none : (List.range 64).any (fun k => d1.flag F.fabGrpCfg_valid k) = false :=
    List.any_eq_false.2 fun k hk => by simp [free k (List.mem_range.1 hk)]
  rw [Dev.topo, Dev.withEnv0_stands stands tenant]
  dsimp only
  rw [if_neg (by simp [zeros, tail, aligned]), read]
  dsimp only
  rw [if_neg (by simp [good]), if_neg (by simp [form]), if_neg (by simp [none])]
  rfl

theorem Dev.base_sets (stands : d.Stands q i 10 2 c w bs) (tenant : d.tenantOf c = 0) (zeros : allZero (slice bs 17 1) = true)
    (pid : fieldAt bs 18 2 < 4096) (zeros' : allZero (slice bs 20 4) = true) (tail : allZero (slice bs 40 24) = true)
    (start : fieldAt bs 24 8 % 2 ^ 21 = 0) (size : fieldAt bs 32 8 % 2 ^ 21 = 0) (some : fieldAt bs 32 8 ≠ 0)
    (unused : d.mem.usedBase = []) (noAreas : ∀ k < 256, (d.ctx k).areas = []) :
    d.base q i = ((((Dev.setReg { d with mem := { d.mem with retired := d.mem.retired.filter fun e => e.1 ≠ 2 } } .hostBase 0
      (fieldAt bs 18 2 + 2 ^ 12 + fieldAt bs 32 8)).setReg .hostBaseDpa 0 (fieldAt bs 24 8)).put F.tierCap_frames 0
        (usableFrames (fieldAt bs 32 8 / pageBytes)) 2).complete w Status.ok 0) := by
  have none : (List.range 256).any (fun k => !(d.ctx k).areas.isEmpty) = false :=
    List.any_eq_false.2 fun k hk => by simp [noAreas k (List.mem_range.1 hk)]
  rw [Dev.base, Dev.withEnv0_stands stands tenant]
  dsimp only
  rw [if_neg (by simp [-Nat.reducePow, zeros, zeros', tail, pid, start, size]), if_neg (by simp [unused, none]), if_neg some, if_neg some]

theorem Dev.win_binds (stands : d.Stands q i 10 3 c w bs) (flags : fieldAt bs 17 1 ≤ 1) (range : fieldAt bs 18 1 < 64)
    (zeros : allZero (slice bs 19 1) = true) (tail : allZero (slice bs 40 24) = true) (start : fieldAt bs 24 8 % 2 ^ 30 = 0)
    (address : fieldAt bs 32 8 % 2 ^ 30 = 0) (inSpace : fieldAt bs 32 8 < 2 ^ 50)
    (own : d.flag F.hostWinCfg_valid 0 (fieldAt bs 18 1) = true → d.get F.hostWinCfg_ctx 0 (fieldAt bs 18 1) = c)
    (some : fieldAt bs 20 4 ≠ 0)
    (apart : ∀ j < 64, j = fieldAt bs 18 1 ∨ d.flag F.hostWinCfg_valid 0 j = false ∨
      (d.get F.hostWinCfg_ap 0 j + d.get F.hostWinCfg_len 0 j) * 2 ^ 30 ≤ fieldAt bs 24 8 ∨
      fieldAt bs 24 8 + fieldAt bs 20 4 * 2 ^ 30 ≤ d.get F.hostWinCfg_ap 0 j * 2 ^ 30)
    (inside : fieldAt bs 24 8 + fieldAt bs 20 4 * 2 ^ 30 ≤ d.aperture) :
    d.win q i = ((d.setReg .hostWinCfg 0 (1 + fieldAt bs 17 1 * 2 + c * 2 ^ 8 + fieldAt bs 20 4 * 2 ^ 16 +
      fieldAt bs 24 8 / 2 ^ 30 * 2 ^ 32) (fieldAt bs 18 1)).setReg .hostWinVa 0 (fieldAt bs 32 8) (fieldAt bs 18 1)).complete w
        Status.ok 0 := by
  rw [Dev.win, Dev.withDesc_stands stands]
  extract_lets wr n len ap va meets
  have none : (List.range 64).any meets = false := List.any_eq_false.2 fun j hj => by
    rcases apart j (List.mem_range.1 hj) with same | unbound | before | after
    · simp [meets, n, same]
    · simp [meets, unbound]
    · simp only [meets, ap, Bool.and_eq_true, decide_eq_true_eq]
      omega
    · simp only [meets, ap, len, Bool.and_eq_true, decide_eq_true_eq]
      omega
  rw [if_neg (by simp [-Nat.reducePow, wr, n, ap, va, flags, range, zeros, tail, start, address, inSpace]), if_neg (by simpa [n] using own), if_neg some,
    if_neg (by simp [-Nat.reducePow, none, ap, len, inside])]

theorem Dev.envPower_sets (stands : d.Stands q i 10 0x10 c w bs) (tenant : d.tenantOf c = 0) (zeros : allZero (slice bs 17 3) = true)
    (tail : allZero (slice bs 22 42) = true) : d.envPower q i =
      ((d.put F.hostEnv_limit_w 0 (fieldAt bs 20 2)).put F.pwrLimit_target_w 0
        (if fieldAt bs 20 2 = 0 then d.cfg.pkgMaxW else min d.cfg.pkgMaxW (fieldAt bs 20 2))).complete w Status.ok 0 := by
  rw [Dev.envPower, Dev.withEnv0_stands stands tenant]
  exact if_neg (by simp [zeros, tail])

theorem Dev.thermal_sets (stands : d.Stands q i 10 0x11 c w bs) (tenant : d.tenantOf c = 0) (zeros : allZero (slice bs 17 3) = true)
    (tail : allZero (slice bs 24 40) = true) (ambient : thermalOk (fieldAt bs 20 2) = true)
    (coolant : thermalOk (fieldAt bs 22 2) = true) : d.thermal q i =
      (((d.freeVal.2.put F.hostEnv_ambient 0 (fieldAt bs 20 2)).put F.hostEnv_coolant 0 (fieldAt bs 22 2)).put F.pwrCfg_thr_t 0
        (d.freeVal.1.toNat % 2 ^ 16)).complete w Status.ok 0 := by
  rw [Dev.thermal, Dev.withEnv0_stands stands tenant]
  exact if_neg (by simp [zeros, tail, ambient, coolant])

theorem Dev.detach_sets (stands : d.Stands q i 10 0x12 c w bs) (policy : fieldAt bs 17 1 ≤ 1) (tail : allZero (slice bs 18 46) = true) :
    d.detach q i = (d.modCtx c fun x => { x with fabricOnly := fieldAt bs 17 1 = 1 }).complete w Status.ok 0 := by
  rw [Dev.detach, Dev.withDesc_stands stands]
  exact if_neg (by simp [policy, tail])

end

/-- Settles O34: each descriptor passes the checks that its conditions state. -/
theorem envDescriptorsComplete : Obligations.EnvDescriptorsComplete := by
  refine ⟨fun s q i c v w bs rsp g d1 stands tenant zeros tail aligned read good form hv free => ?_,
    fun s q i c w bs stands tenant zeros pid zeros' tail start size some unused noAreas dpa whole => ?_,
    fun s q i c n w bs stands hn flags range zeros tail start address inSpace own some apart inside => ?_,
    fun s q i c w bs stands tenant zeros tail => ?_,
    fun s q i c w bs stands tenant zeros tail ambient coolant => ?_,
    fun s q i c w bs stands policy tail => ?_⟩
  · subst hv
    exact run_withDev stands.named (Dev.topo_names stands tenant zeros tail aligned read good form free)
  · refine ⟨_, run_withDev stands.named (Dev.base_sets stands tenant zeros pid zeros' tail start size some unused noAreas), ?_, ?_,
      fun awaited => ?_⟩
    · rw [State.withDev, Dev.complete_reg, Dev.reg_put_ne _ _ _ _ _ _ (by decide), Dev.reg_setReg_other _ _ _ _ _ _ (by decide),
        Dev.reg_setReg_self, Nat.mod_eq_of_lt whole]
    · rw [State.withDev, Dev.complete_reg, Dev.reg_put_ne _ _ _ _ _ _ (by decide), Dev.reg_setReg_self, Nat.mod_eq_of_lt dpa]
    · refine Dev.complete_due _ _ ((Dev.awaited_put (by decide)).2 ?_)
      exact (Dev.awaited_setReg (by decide)).2 ((Dev.awaited_setReg (by decide)).2 awaited)
  · subst hn
    exact run_withDev stands.named (Dev.win_binds stands flags range zeros tail start address inSpace own some apart inside)
  · exact run_withDev stands.named (Dev.envPower_sets stands tenant zeros tail)
  · refine ⟨_, run_withDev stands.named (Dev.thermal_sets stands tenant zeros tail ambient coolant), ?_, ?_, fun awaited => ?_⟩
    · rw [State.withDev, Dev.complete_get, Dev.get_put_apart _ _ _ _ _ _ (by decide), Dev.get_put_apart _ _ _ _ _ _ (by decide),
        Dev.get_put_self _ _ _ _ _ (by decide)]
      exact Nat.mod_eq_of_lt (fieldAt_lt bs 20 2)
    · rw [State.withDev, Dev.complete_get, Dev.get_put_apart _ _ _ _ _ _ (by decide), Dev.get_put_self _ _ _ _ _ (by decide)]
      exact Nat.mod_eq_of_lt (fieldAt_lt bs 22 2)
    · exact Dev.complete_due _ _ ((Dev.awaited_put (by decide)).2 ((Dev.awaited_put (by decide)).2 ((Dev.awaited_put (by decide)).2 awaited)))
  · exact run_withDev stands.named (Dev.detach_sets stands policy tail)

end Sys2Proof.Machine
end

section
/-! PROOFS. Trust (chapter 17): O36 and O37. -/

namespace Sys2Proof.Machine

/-! ### Tenant keys (R382, R383) -/

section
variable {d : Dev} {tn : Nat} {a : Word}

theorem Dev.freshNonce_keeps (d : Dev) (tn : Nat) : d.KeepsRegs [.tenKeyNonce] (d.freshNonce tn) := by
  unfold Dev.freshNonce
  split
  · exact .refl _ d
  · refine KeepsRegs.each (.of_regs _ rfl rfl) _ fun j e => ?_
    exact (KeepsRegs.refl _ e).setReg (by decide) _ _ _

theorem Dev.freshNonce_keys (d : Dev) (tn : Nat) : (d.freshNonce tn).sec.keys = d.sec.keys := by
  unfold Dev.freshNonce
  split
  · rfl
  · exact Dev.each_induct (·.sec.keys = d.sec.keys) _ _ _ rfl fun _ _ _ h => h

theorem Dev.tenKeyLoad_opens {key label : List Byte} (served : d.served = true) (none : d.ctxsOf tn = [])
    (cert : d.flag F.secStat_cert_fail 0 = false) (attached : d.detached = false)
    (opens : d.openBlob tn (d.hostRead tn (a.toNat / 64 * 64) blobBytes) = .ok (key, label)) :
    d.tenKeyLoad tn tn a =
      (((d.setKey tn 2 key label).incSat F.tenSecStat_loads tn).put F.tenSecStat_kstatus tn Status.ok).freshNonce tn := by
  rw [Dev.tenKeyLoad, if_pos (by simp [served]), if_neg (by simp [none])]
  dsimp only
  rw [if_neg (by simp [cert]), if_neg (by simp [attached]), opens]

theorem Dev.tenKeyLoad_fails {st : Nat} (served : d.served = true) (none : d.ctxsOf tn = [])
    (cert : d.flag F.secStat_cert_fail 0 = false) (attached : d.detached = false)
    (fails : d.openBlob tn (d.hostRead tn (a.toNat / 64 * 64) blobBytes) = .error st) :
    d.tenKeyLoad tn tn a = ((d.put F.tenSecStat_kstatus tn st).logEvent 0x20 tn).freshNonce tn := by
  rw [Dev.tenKeyLoad, if_pos (by simp [served]), if_neg (by simp [none])]
  dsimp only
  rw [if_neg (by simp [cert]), if_neg (by simp [attached]), fails]

theorem Dev.freshNonce_get (d : Dev) (tn : Nat) {f : Fld} (stat : f.reg = .tenSecStat) (i j : Nat) :
    (d.freshNonce tn).get f i j = d.get f i j := (d.freshNonce_keeps tn).get (by rw [stat]; decide) i j

theorem Dev.setKey_keeps (d : Dev) (tn mode : Nat) (key label : List Byte) : d.KeepsRegs [.tenSecStat] (d.setKey tn mode key label) :=
  KeepsRegs.put (e := { d with sec := { d.sec with keys := SMap.set d.sec.keys tn (key, label) } }) (.of_regs _ rfl rfl)
    (f := F.tenSecStat_mode) (by decide) _ _ _

theorem Dev.setKey_mode (d : Dev) (tn mode : Nat) (key label : List Byte) :
    (d.setKey tn mode key label).get F.tenSecStat_mode tn = mode % 4 := Dev.get_put_self _ _ _ _ _ (by decide)

theorem Dev.setKey_loads (d : Dev) (tn mode : Nat) (key label : List Byte) :
    (d.setKey tn mode key label).get F.tenSecStat_loads tn = d.get F.tenSecStat_loads tn := by
  rw [Dev.setKey, Dev.get_put_apart _ _ _ _ _ _ (by decide)]
  rfl

theorem Dev.tenRpt_writes (served : d.served = true) (cert : d.flag F.secStat_cert_fail 0 = false)
    (noise : d.flag F.secStat_noise_fail 0 = false) (attached : d.detached = false) :
    d.tenRpt tn tn a = ((d.random 0).2.hostWrite tn (a.toNat / 4096 * 4096)
      (d.reportHead tn (17344 + (d.sec.idCert ++ d.sec.aliasCert).length) (d.hostRead tn (a.toNat / 4096 * 4096) 32) ++
        fit 1280 (Sys2Proof.Config.falconSign d.sec.aliasPriv (shake256 (d.reportHead tn (17344 + (d.sec.idCert ++ d.sec.aliasCert).length)
          (d.hostRead tn (a.toNat / 4096 * 4096) 32)) 64) d.sec.randReqs) ++ (d.sec.idCert ++ d.sec.aliasCert))).put
        F.tenSecStat_rstatus tn Status.ok := by
  rw [Dev.tenRpt, if_pos (by simp [served]), if_neg (by simp [cert]), if_neg (by simp [noise]), if_neg (by simp [attached])]

theorem Dev.erase_erases (served : d.served = true) (none : d.ctxsOf tn = []) : d.erase 0 tn = d.eraseKey tn :=
  if_pos (by simp [served, none])

theorem Dev.logEvent_get (d : Dev) (code arg : Nat) {f : Fld} (other : f.reg ∉ logRegs) (i j : Nat) :
    (d.logEvent code arg).get f i j = d.get f i j := (d.logEvent_keeps code arg).get other i j

end

/-- Settles O36: each command takes the branch that its conditions leave; a nonce and the log keep the fields that are read. -/
theorem trustCommandsComplete : Obligations.TrustCommandsComplete := by
  refine ⟨fun s tn a htn served none cert attached => ?_, fun s tn a htn served cert noise attached => ?_,
    fun s tn htn served none => ?_, fun s opened ahead paired => ?_, fun s => ?_⟩
  · refine ⟨_, run_withDev (by simp [Instr.wf, htn]) rfl, fun key label opens => ?_, fun st fails => ?_⟩
    · rw [State.withDev, Dev.tenKeyLoad_opens served none cert attached opens]
      refine ⟨?_, ?_, ?_, ?_⟩
      · rw [Dev.freshNonce_keys]
        exact SMap.find_set_self _ _ _
      · rw [Dev.freshNonce_get _ _ rfl, Dev.get_put_apart _ _ _ _ _ _ (by decide), Dev.incSat_eq,
          Dev.get_put_apart _ _ _ _ _ _ (by decide), Dev.setKey_mode]
      · rw [Dev.freshNonce_get _ _ rfl, Dev.get_put_self _ _ _ _ _ (by decide)]
        rfl
      · rw [Dev.freshNonce_get _ _ rfl, Dev.get_put_apart _ _ _ _ _ _ (by decide), Dev.get_incSat_self _ _ _ _ _ (by decide),
          Dev.setKey_loads]
    · rw [State.withDev, Dev.tenKeyLoad_fails served none cert attached fails]
      refine ⟨?_, ?_, ?_⟩
      · rw [Dev.freshNonce_keys]
        rfl
      · rw [Dev.freshNonce_get _ _ rfl, Dev.logEvent_get _ _ _ (by decide), Dev.get_put_self _ _ _ _ _ (by decide)]
        rfl
      · rw [Dev.freshNonce_get _ _ rfl, Dev.logEvent_get _ _ _ (by decide), Dev.get_put_apart _ _ _ _ _ _ (by decide)]
  · exact ⟨_, _, _, _, run_withDev (by simp [Instr.wf, htn]) (Dev.tenRpt_writes served cert noise attached), rfl, rfl, rfl, rfl⟩
  · refine ⟨_, run_withDev (by simp [Instr.wf, htn]) (Dev.erase_erases served none), ?_, Dev.get_put_self _ _ _ _ _ (by decide)⟩
    exact (SMap.find_erase _ _ _).trans (if_pos rfl)
  · have raised := runFlash_ok (ok := Instr.wf (.commitSvn 0 true)) (Dev.commitSvn 0 true) s rfl
    rw [Dev.commitSvn_raises opened ahead paired] at raised
    refine ⟨_, raised, rfl, ?_⟩
    refine (Dev.logEvent_get _ _ _ (by decide) _ _).trans ((Dev.get_put_self _ _ _ _ _ (by decide)).trans (Nat.mod_eq_of_lt ?_))
    exact Dev.get_lt _ _ _ _
  · refine ⟨_, run_withDev rfl rfl, ?_⟩
    have set : (s.dev.put F.secStat_noise_fail 0 1).get F.secStat_noise_fail 0 = 1 := Dev.get_put_self _ _ _ _ _ (by decide)
    exact decide_eq_true (((Dev.logEvent_get _ _ _ (by decide) _ _).trans set).symm ▸ (by decide : (1 : Nat) ≠ 0))

/-! ### SPDM (R373, R375, R376, R380) -/

section
variable {d : Dev} {req payload : List Byte} {code n k : Nat} {ok : Bool} {f : Spdm → Spdm}

/-- The device after a request that is served: the responder's state, and the response. -/
def Dev.answered (d : Dev) (req : List Byte) (code : Nat) (payload : List Byte) (f : Spdm → Spdm) : Dev :=
  ({ d with spdm := f d.spdm }).respond req code payload

theorem Dev.answered_out : (d.answered req code payload f).out =
    .spdm code (payload ++ Sys2Proof.Config.spdmResponse code req d.freeIdx) :: d.out := rfl

theorem Dev.answered_spdm : (d.answered req code payload f).spdm = f d.spdm := rfl

/-- Once the boot chain is complete, a request whose condition holds is answered. -/
theorem Dev.serve_answers (booted : 3 ≤ d.get F.secStat_stage 0) (up : d.power.shut = false) (good : ok = true) :
    d.serve req ok code payload f = d.answered req code payload f := by
  rw [Dev.serve, if_neg (by simp [up, booted]), if_pos good]
  rfl

theorem Dev.negotiateAlgorithms_all : d.negotiateAlgorithms req true true true =
    d.serve req d.spdm.capsOk 0x63 (leBytes 1 7) fun s => { s with algsOk := true } := rfl

theorem Dev.keyExchange_kem : d.keyExchange req true =
    d.serve req (d.spdm.algsOk && true && !d.flag F.secStat_noise_fail 0 && !d.flag F.secStat_cert_fail 0) 0x64
      (leBytes 2 d.spdm.nextSession ++ d.aliasSign req)
      fun s => { s with sessions := SMap.set s.sessions d.spdm.nextSession (false, 0), nextSession := d.spdm.nextSession + 1 } := rfl

/-- The first chunk of a request that no chunk has begun joins it. -/
theorem Dev.chunkSend_first {h : Nat} (fresh : ∀ x ∈ d.spdm.chunkIn, x.1 ≠ h) : d.chunkSend req h 0 false =
    d.serve req d.spdm.capsOk 0x05 [] fun s => { s with chunkIn := s.chunkIn ++ [(h, 0, req)] } := by
  have none : (d.spdm.chunkIn.filter fun x => x.1 = h) = [] := List.filter_eq_nil_iff.2 fun x hx => by simpa using fresh x hx
  rw [Dev.chunkSend, none]
  simp

theorem Dev.getMeasurements_one {bs : List Byte} (one : k ≠ 0xFF) (measured : d.measurement k = some bs) :
    d.getMeasurements req k = d.serve req d.spdm.algsOk 0x60 (bs ++ d.aliasSign (req ++ bs)) id := by
  rw [Dev.getMeasurements, if_neg one, measured]

theorem Dev.finish_opened (opened : SMap.find d.spdm.sessions n = some (false, 0)) : d.finish req n true =
    d.serve req true 0x65 [] fun s => { s with sessions := SMap.set s.sessions n (true, 0) } := by
  have same : (SMap.find d.spdm.sessions n == some (false, 0)) = true := by rw [opened]; rfl
  rw [Dev.finish, same]
  rfl

theorem Dev.inSession_of (established : SMap.find d.spdm.sessions n = some (true, k)) : d.inSession n = true := by
  rw [Dev.inSession, established]

theorem Dev.ideKm_mem (booted : 3 ≤ d.get F.secStat_stage 0) (up : d.power.shut = false) (inSession : d.inSession n = true)
    (noise : d.flag F.secStat_noise_fail 0 = false) : (d.ideKm req n true).spdm.ideMem = true := by
  unfold Dev.ideKm
  dsimp only
  rw [Dev.serve_answers booted up (by simp [inSession, noise])]
  exact (apply_ite (fun e : Dev => e.spdm.ideMem) _ _ _).trans (ite_self true)

end

/-- Settles O37: each request is served under its condition; what it reads of the responder's state is what its answer set. -/
theorem spdmRequestsComplete : Obligations.SpdmRequestsComplete := by
  intro s req booted up
  refine ⟨?_, fun version => ?_, fun caps => ?_, fun algs => ?_, fun algs cert => ⟨fun offset len => ?_, ?_⟩, fun k bs algs one measured => ?_,
    fun algs noise cert => ?_, fun n opened => ?_, fun n k established => ?_, fun caps => ⟨fun h fresh => ?_, fun h => ?_⟩⟩
  · exact ⟨_, run_withDev rfl (Dev.serve_answers booted up rfl), rfl, _, rfl⟩
  · exact ⟨_, run_withDev rfl (Dev.serve_answers booted up version), rfl, _, rfl⟩
  · exact ⟨_, run_withDev rfl (Dev.negotiateAlgorithms_all.trans (Dev.serve_answers booted up caps)), rfl, _, rfl⟩
  · exact ⟨_, _, run_withDev rfl (Dev.serve_answers booted up algs), rfl⟩
  · exact ⟨_, _, run_withDev rfl (Dev.serve_answers booted up (by simp [algs, cert])), rfl⟩
  · exact ⟨_, _, run_withDev rfl (Dev.serve_answers booted up (by simp [algs, cert])), rfl⟩
  · exact ⟨_, _, run_withDev rfl ((Dev.getMeasurements_one one measured).trans (Dev.serve_answers booted up algs)), rfl⟩
  · exact ⟨_, run_withDev rfl (Dev.keyExchange_kem.trans (Dev.serve_answers booted up (by simp [algs, noise, cert]))), SMap.find_set_self _ _ _⟩
  · exact ⟨_, run_withDev rfl ((Dev.finish_opened opened).trans (Dev.serve_answers booted up rfl)), SMap.find_set_self _ _ _⟩
  · have inSession := Dev.inSession_of established
    refine ⟨?_, ?_, ?_, fun noise => ?_⟩
    · exact ⟨_, run_withDev rfl (Dev.serve_answers booted up inSession), (SMap.find_erase _ _ _).trans (if_pos rfl)⟩
    · exact ⟨_, _, run_withDev rfl (Dev.serve_answers booted up inSession), rfl⟩
    · refine ⟨_, run_withDev rfl (Dev.serve_answers booted up inSession), (SMap.find_set_self _ _ _).trans ?_⟩
      rw [SMap.get, established]
      rfl
    · exact ⟨_, run_withDev rfl rfl, Dev.ideKm_mem booted up inSession noise⟩
  · exact ⟨_, run_withDev rfl ((Dev.chunkSend_first fresh).trans (Dev.serve_answers booted up caps)), rfl⟩
  · exact ⟨_, _, run_withDev rfl (Dev.serve_answers booted up (by simp [caps])), rfl, rfl⟩

end Sys2Proof.Machine
end

section
/-! PROOFS. Boot, recovery, the mailbox and warm resets (chapter 18): O38. -/

namespace Sys2Proof.Machine

theorem runFlash_both {ok : Bool} (f : Flash → Dev → Flash × Dev) (s : State) (h : ok = true) :
    ∃ t, runFlash ok f s = .next t ∧ (t.flash, t.dev) = f s.flash s.dev := ⟨_, runFlash_ok f s h, rfl⟩

section
variable {d : Dev} {f : Flash}

/-! ### Recovery (R398) -/

section
variable {img : List Byte} {stage si : Nat} (named : stage = fieldAt img 4 1) (stuck : d.sec.stuck = true)
  (used : f.usedSlot = some si) (one : stage ≠ 0) (general : stage ≠ 3) (missing : d.sec.missing.contains stage = true)
include named stuck used one general missing

theorem Dev.recover_refuses (bad : imageOk stage img = false) : d.recover img f = (f, d.logEvent 0x01 stage) := by
  subst named
  rw [Dev.recover]
  simp only [stuck, used]
  rw [if_neg (by rw [missing]; simp [one]), if_pos (by simp [bad])]

theorem Dev.recover_stores {f' : Flash} (good : imageOk stage img = true) (level : d.get F.secSvn_ctr 0 ≤ svnOf img)
    (puf : d.flag F.secStat_puf_fail 0 = false) (more : d.sec.missing.filter (· ≠ stage) ≠ [])
    (stored : f.store stage (prefOf (f.slot si) stage) img = some f') :
    d.recover img f = (f', { d with sec := { d.sec with missing := d.sec.missing.filter (· ≠ stage) } }) := by
  subst named
  have low : (if d.flag F.secStat_ctr_ok 0 then d.get F.secSvn_ctr 0 else 0) ≤ svnOf img := by
    split
    · exact level
    · exact Nat.zero_le _
  rw [Dev.recover]
  simp only [stuck, used]
  rw [if_neg (by rw [missing]; simp [one]), if_neg (by simp [good, general]), if_neg (Nat.not_lt.2 low), if_neg (by simp [puf]), stored]
  dsimp only
  rw [if_neg (by simpa using more)]

end

/-! ### The mailbox (R401) -/

theorem Dev.withMbx_runs {cmd : Nat} (running : d.running = true) (busy : d.flag F.mbxStat_busy 0 = true) (written : d.mailboxCmd = cmd)
    (g : Dev → Dev) : d.withMbx cmd g = g d := if_pos (by simp [running, busy, written])

theorem Dev.endMbx_get (d : Dev) (status : Nat) {g : Fld} (other : g.reg ≠ .mbxStat) (i j : Nat) :
    (d.endMbx status).get g i j = d.get g i j := by
  have ended : ∀ h : Fld, h.reg = .mbxStat → ¬(g.reg = h.reg ∧ i = 0 ∧ j = 0) := fun h stat same => other (same.1.trans stat)
  exact (Dev.get_put_ne _ _ (ended F.mbxStat_busy rfl)).trans (Dev.get_put_ne _ _ (ended F.mbxStat_status rfl))

theorem Dev.endMbx_reg (d : Dev) (status : Nat) {r : Reg} (other : r ≠ .mbxStat) (i j : Nat) :
    (d.endMbx status).reg r i j = d.reg r i j :=
  (Dev.reg_put_ne (f := F.mbxStat_busy) _ _ _ _ _ _ other).trans (Dev.reg_put_ne (f := F.mbxStat_status) _ _ _ _ _ _ other)

theorem Dev.endMbx_idle (d : Dev) (status : Nat) : (d.endMbx status).flag F.mbxStat_busy 0 = false := by
  have idle : (d.endMbx status).get F.mbxStat_busy 0 = 0 :=
    Dev.get_put_self (d.put F.mbxStat_status 0 status) F.mbxStat_busy 0 0 0 (by decide)
  rw [Dev.flag, idle]
  rfl

section
variable {stage len copy : Nat} {img : List Byte} (running : d.running = true) (busy : d.flag F.mbxStat_busy 0 = true)
  (written : d.mailboxCmd = 2) (hstage : stage = d.reg .mbxArg 0 0) (hlen : len = d.reg .mbxArg 0 2) (low : 1 ≤ stage) (high : stage ≤ 4)
  (fits : len ≤ stageCap stage) (attached : d.detached = false)
  (himg : img = d.hostRead 0 (d.reg .mbxArg 0 1) len)
include running busy written hstage hlen low high fits attached himg

theorem Dev.flashWrite_refuses (bad : imageOk stage img = false) : d.flashWrite f = (f, d.endMbx Status.integrity) := by
  subst hstage hlen himg
  rw [Dev.flashWrite, if_neg (by simp [running, busy, written])]
  dsimp only
  rw [if_neg (by simp [attached, fits, high, Nat.pos_iff_ne_zero.1 low]), if_pos (by simp [bad])]

theorem Dev.flashWrite_stores {f' : Flash} (general : stage ≠ 3) (good : imageOk stage img = true)
    (level : d.get F.secSvn_ctr 0 ≤ svnOf img) (hcopy : copy = 1 - bitsOf (d.get F.bootStat_copy 0) (stage - 1) 1)
    (stored : f.store stage copy img = some f') : d.flashWrite f = (f', d.endMbx Status.ok) := by
  subst hstage hlen himg hcopy
  rw [Dev.flashWrite, if_neg (by simp [running, busy, written])]
  dsimp only
  rw [if_neg (by simp [attached, fits, high, Nat.pos_iff_ne_zero.1 low]), if_neg (by simp [good, level, general]), stored]

end

theorem Dev.removeCoreCmd_removes {k : Nat} (running : d.running = true) (busy : d.flag F.mbxStat_busy 0 = true)
    (written : d.mailboxCmd = 3) (hk : k = d.reg .mbxArg 0 0) (range : k < 256) (free : d.get F.coreState_state k = CoreSt.free)
    (removable : d.removable k = true) : d.removeCoreCmd = (d.removeCore k).endMbx Status.ok := by
  subst hk
  rw [Dev.removeCoreCmd, Dev.withMbx_runs running busy written]
  dsimp only
  rw [if_neg (by simp [free, range]; decide), if_pos removable]

theorem Dev.timeRole_master (running : d.running = true) (busy : d.flag F.mbxStat_busy 0 = true) (written : d.mailboxCmd = 4)
    (follower : d.get F.timeCfg_master 0 = 0) (asked : bitsOf (d.reg .mbxArg 0 0) 0 1 = 1) :
    d.timeRole = ((d.put F.timeCfg_master 0 1).put F.timeStat_state 0 TimeSt.master).endMbx Status.ok := by
  rw [Dev.timeRole, Dev.withMbx_runs running busy written]
  dsimp only
  rw [asked, follower]
  rfl

theorem Dev.logRead_reads (running : d.running = true) (busy : d.flag F.mbxStat_busy 0 = true) (written : d.mailboxCmd = 5) :
    d.logRead = ((d.freeVal.2.hostWrite 0 (d.reg .mbxArg 0 0) ((List.range (d.freeVal.1.toNat % (d.reg .mbxArg 0 1 + 1))).map
      Sys2Proof.Config.fwLogByte)).setReg .mbxRes 0 (d.freeVal.1.toNat % (d.reg .mbxArg 0 1 + 1)) 0).endMbx Status.ok := by
  rw [Dev.logRead, Dev.withMbx_runs running busy written]
  rfl

end

/-- Settles O38: the mailbox's command runs while it is busy; recovery and FLASH_WRITE store what passes its checks. -/
theorem firmwareCommandsComplete : Obligations.FirmwareCommandsComplete := by
  refine ⟨fun s puf => ?_, fun s img stage si named stuck used one general missing level puf more => ?_, fun s running => ?_,
    fun s running busy => ⟨fun written => ?_, fun stage len img copy written hstage hlen low high general fits attached himg level hcopy => ?_,
      fun k written hk range free removable => ?_, fun written follower asked => ?_, fun written bound => ?_, fun written => ?_⟩⟩
  · exact runFlash_both (ok := Instr.wf (.coldReset puf)) (Dev.coldReset puf) s rfl
  · refine ⟨_, runFlash_ok (ok := Instr.wf (.recover img)) (Dev.recover img) s rfl, fun good f stored => ?_, fun bad => ?_⟩
    · have recovered := Dev.recover_stores named stuck used one general missing good level puf more stored
      exact ⟨congrArg Prod.fst recovered, congrArg (·.2.sec.missing) recovered⟩
    · have refused := Dev.recover_refuses named stuck used one general missing bad
      exact ⟨congrArg Prod.fst refused, congrArg Prod.snd refused⟩
  · exact run_withDev rfl (if_pos running)
  · exact run_withDev rfl (Dev.withMbx_runs running busy written _)
  · refine ⟨_, runFlash_ok (ok := Instr.wf .flashWrite) Dev.flashWrite s rfl, fun good f stored => ?_, fun bad => ?_⟩
    · have wrote := Dev.flashWrite_stores running busy written hstage hlen low high fits attached himg general good level hcopy stored
      exact ⟨congrArg Prod.fst wrote, congrArg Prod.snd wrote⟩
    · have refused := Dev.flashWrite_refuses (f := s.flash) running busy written hstage hlen low high fits attached himg bad
      exact ⟨congrArg Prod.fst refused, congrArg Prod.snd refused⟩
  · exact run_withDev rfl (Dev.removeCoreCmd_removes running busy written hk range free removable)
  · refine ⟨_, run_withDev rfl (Dev.timeRole_master running busy written follower asked), ?_, ?_, Dev.endMbx_idle _ _⟩
    · rw [State.withDev, Dev.endMbx_get _ _ (by decide), Dev.get_put_ne _ _ (fun h => absurd h.1 (by decide)),
        Dev.get_put_self _ _ _ _ _ (by decide)]
      rfl
    · rw [State.withDev, Dev.timeState, Dev.endMbx_get _ _ (by decide)]
      exact Dev.timeState_put _ (by decide)
  · refine ⟨_, s.dev.freeVal.1.toNat % (s.dev.reg .mbxArg 0 1 + 1), run_withDev rfl (Dev.logRead_reads running busy written),
      Nat.lt_succ_iff.1 (Nat.mod_lt _ (Nat.succ_pos _)), ?_, Dev.endMbx_idle _ _⟩
    rw [State.withDev, Dev.endMbx_reg _ _ (by decide), Dev.reg_setReg_self]
    refine Nat.mod_eq_of_lt (Nat.lt_of_lt_of_le (Nat.mod_lt _ (Nat.succ_pos _)) ?_)
    omega
  · exact run_withDev rfl (Dev.withMbx_runs running busy written _)

end Sys2Proof.Machine
end

section
/-! PROOFS. Tenants, contexts and core sets (chapter 15): O31. -/

namespace Sys2Proof.Machine

theorem bitsOf_lt (v lo w : Nat) : bitsOf v lo w < 2 ^ w := Nat.mod_lt _ (Nat.two_pow_pos w)

theorem bitsOf_one {v : Nat} (set : bitOf v 0 = true) : bitsOf v 0 1 = 1 := of_decide_eq_true set

section
variable {d : Dev} {c : Nat}

/-! ### Counts and names -/

/-- Naming the cores that stop changes no register. -/
theorem Dev.nameStopping_regs (d : Dev) (S : List Reg) : d.KeepsRegs S d.nameStopping :=
  (KeepsRegs.refl S d).each _ fun _ e => .ite (.refl S e) ((KeepsRegs.refl S e).modCtx _ _)

theorem Dev.nameStopping_queue (d : Dev) (q : Nat) : d.nameStopping.queue q = d.queue q :=
  Dev.each_induct (·.queue q = d.queue q) _ _ _ rfl fun _ _ e h => by
    dsimp only
    split
    · exact h
    · exact h

/-- Naming the cores that stop changes no request. -/
theorem Dev.nameStopping_coresReq (d : Dev) (c : Nat) : (d.nameStopping.ctx c).coresReq = (d.ctx c).coresReq :=
  Dev.each_induct (fun e => (e.ctx c).coresReq = (d.ctx c).coresReq) _ _ _ rfl fun x _ e h => by
    dsimp only
    split
    · exact h
    · by_cases same : c = x
      · subst same
        rw [Dev.modCtx_ctx]
        exact h
      · rw [Dev.modCtx_ctx_ne _ _ _ _ same]
        exact h

theorem Dev.countTenant_get (d : Dev) (t : Nat) {f : Fld} (other : f.reg ≠ .tenStat) (i j : Nat) :
    (d.countTenant t).get f i j = d.get f i j := by
  unfold Dev.countTenant
  dsimp only
  rw [Dev.get_put_ne _ _ fun h => other h.1, Dev.get_put_ne _ _ fun h => other h.1, Dev.get_put_ne _ _ fun h => other h.1]

/-- The counts of a context reach no field of its state but the cores held. -/
theorem Dev.countCores_get (d : Dev) (c : Nat) {f : Fld} (gens : f.Apart F.ctxState_gen_held) (lrns : f.Apart F.ctxState_lrn_held)
    (cores : f.reg ≠ .ctxCores) (tenant : f.reg ≠ .tenStat) (i j : Nat) : (d.countCores c).get f i j = d.get f i j := by
  unfold Dev.countCores
  dsimp only
  refine (Dev.countTenant_get _ _ tenant _ _).trans ?_
  refine Dev.each_induct (·.get f i j = d.get f i j) _ _ _ ?_ fun k _ e h => (Dev.get_put_ne _ _ fun h => cores h.1).trans h
  rw [Dev.get_put_apart _ _ _ _ _ _ lrns, Dev.get_put_apart _ _ _ _ _ _ gens]

/-! ### Creation (R328) -/

/-- The registers that limits reach. -/
def limitRegs : List Reg := [.tierStat, .tierQuota, .tierCap]

theorem Dev.defaultLimits_keeps (d : Dev) (c : Nat) : d.KeepsRegs limitRegs (d.defaultLimits c) := by
  unfold Dev.defaultLimits Dev.countAssigned
  refine KeepsRegs.each ?_ _ fun t e => (KeepsRegs.refl _ e).put (f := F.tierCap_assigned) (by decide) _ _ _
  refine (KeepsRegs.refl _ d).each _ fun t e => KeepsRegs.put ?_ (f := F.tierQuota_limit) (by decide) _ _ _
  exact .ite ((KeepsRegs.refl _ e).put (f := F.tierStat_qwr_rej) (by decide) _ _ _) (.refl _ e)

theorem Dev.makeCtx_active (d : Dev) (tn kind gen lrn nq c q : Nat) : (d.makeCtx tn kind gen lrn nq c q).ctxState c = CtxSt.active := by
  unfold Dev.makeCtx
  dsimp only
  refine ((Dev.nameStopping_regs _ []).get (by decide) _ _).trans ?_
  refine (Dev.countCores_get _ _ (by decide) (by decide) (by decide) (by decide) _ _).trans ?_
  rw [Dev.incMod_eq]
  refine (Dev.get_put_ne _ _ fun h => absurd h.1 (by decide)).trans ?_
  refine ((Dev.defaultLimits_keeps _ _).get (by decide) _ _).trans ?_
  exact Dev.get_put_self _ _ _ _ _ (by decide)

theorem Dev.tenCreate_makes {tn kind gen lrn nq q : Nat} {v : Word} (served : d.served = true) (hkind : kind = bitsOf v.toNat 0 2)
    (hgen : gen = bitsOf v.toNat 8 9) (hlrn : lrn = bitsOf v.toNat 24 9) (hnq : nq = bitsOf v.toNat 40 13)
    (passes : d.createCheck tn kind gen lrn nq = none)
    (context : (List.range 256).find? (fun c => !d.flag F.ctxCfg_valid c) = some c) (queues : d.queueRun nq = some q)
    (tested : (d.freeCores.take (gen + lrn)).any d.underTest = false) : d.tenCreate tn tn v =
      (d.makeCtx tn kind gen lrn nq c q).setReg .tenCreateRes tn (c * 2 ^ 8 + q * 2 ^ 32) := by
  subst hkind hgen hlrn hnq
  rw [Dev.tenCreate, if_pos (by simp [served])]
  dsimp only
  rw [passes, context, queues]
  dsimp only
  rw [if_neg (by simp [tested])]

theorem Dev.queueRun_le {n q : Nat} (run : d.queueRun n = some q) : q ≤ 16384 := by
  unfold Dev.queueRun at run
  extract_lets runs q' at run
  split at run
  · obtain rfl := Option.some.inj run
    omega
  · cases run

/-! ### Reset, destruction and teardown (R329, R338, R340) -/

theorem Dev.ctxReset_resets {fn : Nat} (writable : d.ctxWritable0 fn c = true) (whole : d.ctxState c ≠ CtxSt.tearing) :
    d.ctxReset fn c = d.resetCtx c := by
  rw [Dev.ctxReset, if_pos writable, if_neg whole]

theorem Dev.ctxDestroy_destroys {fn : Nat} (writable : d.ctxWritable0 fn c = true) (whole : d.ctxState c ≠ CtxSt.tearing) :
    d.ctxDestroy fn c = d.destroyCtx c := by
  rw [Dev.ctxDestroy, if_pos writable, if_neg whole]

theorem Dev.tenantReset_resets {fn tn : Nat} (served : d.served = true) (who : fn = tn ∨ fn = 0) :
    d.tenantReset fn tn = d.resetTenant tn := if_pos (by simp [served, who])

/-! ### Budgets (R324) -/

/-- A tenant's budget and its ENABLE as a word of TEN_CFG names them. -/
def Dev.setBudget (d : Dev) (tn v : Nat) : Dev :=
  (((d.put F.tenCfg_enable tn (bitsOf v 0 1)).put F.tenCfg_max_ctx tn (bitsOf v 8 9)).put F.tenCfg_max_cores tn (bitsOf v 24 9)).put
    F.tenCfg_max_queues tn (bitsOf v 48 15)

theorem Dev.tenCfgWrite_sets {tn : Nat} {v : Word} (served : d.served = true) (enabled : d.flag F.tenCfg_enable tn = true)
    (stays : bitOf v.toNat 0 = true) : d.tenCfgWrite 0 tn v = d.setBudget tn v.toNat := by
  rw [Dev.tenCfgWrite, if_pos (by simp [served])]
  dsimp only
  rw [if_neg (by simp [stays]), if_neg (by simp [enabled])]
  rfl

theorem Dev.setBudget_gets (d : Dev) (tn v : Nat) : (d.setBudget tn v).get F.tenCfg_max_ctx tn = bitsOf v 8 9 ∧
    (d.setBudget tn v).get F.tenCfg_max_cores tn = bitsOf v 24 9 ∧ (d.setBudget tn v).get F.tenCfg_max_queues tn = bitsOf v 48 15 ∧
    (d.setBudget tn v).get F.tenCfg_enable tn = bitsOf v 0 1 := by
  unfold Dev.setBudget
  refine ⟨?_, ?_, ?_, ?_⟩
  · rw [Dev.get_put_apart _ _ _ _ _ _ (by decide), Dev.get_put_apart _ _ _ _ _ _ (by decide), Dev.get_put_self _ _ _ _ _ (by decide)]
    exact Nat.mod_eq_of_lt (bitsOf_lt v 8 9)
  · rw [Dev.get_put_apart _ _ _ _ _ _ (by decide), Dev.get_put_self _ _ _ _ _ (by decide)]
    exact Nat.mod_eq_of_lt (bitsOf_lt v 24 9)
  · rw [Dev.get_put_self _ _ _ _ _ (by decide)]
    exact Nat.mod_eq_of_lt (bitsOf_lt v 48 15)
  · rw [Dev.get_put_apart _ _ _ _ _ _ (by decide), Dev.get_put_apart _ _ _ _ _ _ (by decide), Dev.get_put_apart _ _ _ _ _ _ (by decide),
      Dev.get_put_self _ _ _ _ _ (by decide)]
    exact Nat.mod_eq_of_lt (bitsOf_lt v 0 1)

/-! ### CORES (R330, R331) -/

/-- A context's targets and its pending request. -/
def Dev.setTargets (d : Dev) (c gen lrn : Nat) : Dev :=
  ((d.put F.ctxState_gen_tgt c gen).put F.ctxState_lrn_tgt c lrn).put F.ctxState_pending c 1

theorem Dev.setTargets_gets (d : Dev) (c : Nat) {gen lrn : Nat} (hgen : gen ≤ 256) (hlrn : lrn ≤ 256) :
    (d.setTargets c gen lrn).get F.ctxState_gen_tgt c = gen ∧ (d.setTargets c gen lrn).get F.ctxState_lrn_tgt c = lrn ∧
      (d.setTargets c gen lrn).get F.ctxState_pending c = 1 := by
  have fits : ∀ n, n ≤ 256 → n % 2 ^ 9 = n := fun n hn => Nat.mod_eq_of_lt (Nat.lt_of_le_of_lt hn (by decide))
  unfold Dev.setTargets
  refine ⟨?_, ?_, ?_⟩
  · rw [Dev.get_put_apart _ _ _ _ _ _ (by decide), Dev.get_put_apart _ _ _ _ _ _ (by decide), Dev.get_put_self _ _ _ _ _ (by decide)]
    exact fits gen hgen
  · rw [Dev.get_put_apart _ _ _ _ _ _ (by decide), Dev.get_put_self _ _ _ _ _ (by decide)]
    exact fits lrn hlrn
  · rw [Dev.get_put_self _ _ _ _ _ (by decide)]
    rfl

theorem Dev.coresRequest_pends {q i : Nat} {w : Waiter} {bs : List Byte} (stands : d.Stands q i 10 0x20 c w bs)
    (noDonor : fieldAt bs 17 1 = 0) (gen : fieldAt bs 18 2 ≤ 256) (lrn : fieldAt bs 20 2 ≤ 256) (tail : allZero (slice bs 23 41) = true)
    (genKind : d.kindOf c = 1 → fieldAt bs 18 2 = 0) (lrnKind : d.kindOf c = 0 → fieldAt bs 20 2 = 0) (idle : (d.ctx c).coresReq = none)
    (budget : d.get F.tenStat_cores (d.tenantOf c) + fieldAt bs 18 2 + fieldAt bs 20 2 ≤
      d.get F.tenCfg_max_cores (d.tenantOf c) + (d.coresOf c).length)
    (free : fieldAt bs 18 2 + fieldAt bs 20 2 - (d.coresOf c).length ≤ d.freeCores.length) :
    d.coresRequest q i = ((((d.accept w).modCtx c fun x => { x with coresReq := some ⟨w, none⟩ }).setTargets c (fieldAt bs 18 2)
      (fieldAt bs 20 2)).nameStopping) := by
  have kinds : ¬((0 < fieldAt bs 18 2 && d.kindOf c = 1) || (0 < fieldAt bs 20 2 && d.kindOf c = 0) || false) = true := by
    simp only [Bool.or_false, Bool.or_eq_true, Bool.and_eq_true, decide_eq_true_eq]
    omega
  rw [Dev.coresRequest, Dev.withDesc_stands stands]
  dsimp only
  rw [noDonor, show bitOf 0 0 = false from rfl, if_neg (by simp [gen, lrn, tail]), Bool.false_and, if_neg kinds,
    if_neg (by simp [idle]), if_neg (by simp only [Bool.false_eq_true, if_false, Bool.or_eq_true, decide_eq_true_eq]; omega)]
  rfl

/-- What a pending request's change of cores comes to, where no context gives. -/
def Dev.movedCores (d : Dev) (c : Nat) (p : CorePlan) : Dev :=
  (((d.changeRoles c p).releaseCores c p).joinCores c p).countCores c

theorem Dev.coresApply_ends {req : CoresReq} (pending : (d.ctx c).coresReq = some req) (working : d.working c = true)
    (noDonor : req.donor = none)
    (gens : (d.movedCores c (d.corePlan c)).get F.ctxState_gen_held c = (d.movedCores c (d.corePlan c)).get F.ctxState_gen_tgt c)
    (lrns : (d.movedCores c (d.corePlan c)).get F.ctxState_lrn_held c = (d.movedCores c (d.corePlan c)).get F.ctxState_lrn_tgt c) :
    d.coresApply c = (((((d.movedCores c (d.corePlan c)).put F.ctxState_pending c 0).modCtx c fun x => { x with coresReq := none }).complete
      req.who Status.ok ((d.movedCores c (d.corePlan c)).get F.ctxState_gen_held c +
        (d.movedCores c (d.corePlan c)).get F.ctxState_lrn_held c * 2 ^ 16)).nameStopping) := by
  rw [Dev.coresApply, pending]
  dsimp only
  rw [if_pos working, noDonor]
  exact congrArg Dev.nameStopping (if_pos (by simpa using ⟨gens, lrns⟩))

theorem Dev.DueLast.nameStopping {w : Waiter} {status result : Nat} (due : d.DueLast w status result) :
    d.nameStopping.DueLast w status result := by
  obtain ⟨earlier, h⟩ := due
  exact ⟨earlier, by rw [Dev.nameStopping_queue, h]⟩

end

/-- Settles O31: each command passes its checks; what follows a change (counts and names) keeps the fields that are read. -/
theorem tenantCommandsComplete : Obligations.TenantCommandsComplete := by
  refine ⟨fun s tn kind gen lrn nq c q v htn served hkind hgen hlrn hnq passes context queues tested => ?_,
    fun s fn c named writable whole => ⟨?_, ?_⟩,
    fun s c hc tearing => ?_,
    fun s fn tn named served who => ?_,
    fun s tn v htn served enabled stays => ?_,
    fun s q i c w bs stands noDonor gen lrn tail genKind lrnKind idle budget free => ?_,
    fun s c g l req p d0 d1 hc pending working hp noDonor hd0 hd1 hg hl gens lrns => ?_⟩
  · refine ⟨_, run_withDev (by simp [Instr.wf, htn])
      (Dev.tenCreate_makes served hkind hgen hlrn hnq passes context queues tested), rfl, ?_, ?_⟩
    · have range : c < 256 := List.mem_range.1 (List.mem_of_find?_eq_some context)
      have run := Dev.queueRun_le queues
      rw [State.withDev, Dev.reg_setReg_self]
      exact Nat.mod_eq_of_lt (by omega)
    · rw [State.withDev, Dev.ctxState, Dev.get_setReg_ne _ _ _ _ _ _ (by decide)]
      exact Dev.makeCtx_active _ _ _ _ _ _ _ _
  · exact run_withDev named (Dev.ctxReset_resets writable whole)
  · exact run_withDev named (Dev.ctxDestroy_destroys writable whole)
  · exact ⟨_, _, rfl, rfl, run_withDev (by simp [Instr.wf, hc]) (if_pos tearing)⟩
  · exact run_withDev named (Dev.tenantReset_resets served who)
  · obtain ⟨contexts, cores, queues, enable⟩ := s.dev.setBudget_gets tn v.toNat
    refine ⟨_, run_withDev (by simp [Instr.wf, htn]) (Dev.tenCfgWrite_sets served enabled stays), contexts, cores, queues, ?_⟩
    rw [State.withDev, Dev.flag, enable, bitsOf_one stays]
    rfl
  · obtain ⟨gens, lrns, pend⟩ :=
      Dev.setTargets_gets ((s.dev.accept w).modCtx c fun x => { x with coresReq := some ⟨w, none⟩ }) c gen lrn
    have names := Dev.nameStopping_regs
      (((s.dev.accept w).modCtx c fun x => { x with coresReq := some ⟨w, none⟩ }).setTargets c (fieldAt bs 18 2) (fieldAt bs 20 2)) []
    refine ⟨_, run_withDev stands.named
      (Dev.coresRequest_pends stands noDonor gen lrn tail genKind lrnKind idle budget free), ?_, ?_, ?_⟩
    · exact (names.get (by decide) _ _).trans gens
    · exact (names.get (by decide) _ _).trans lrns
    · rw [State.withDev, Dev.flag, names.get (by decide), pend]
      rfl
  · subst hp hd0
    have moved : d1 = s.dev.movedCores c (s.dev.corePlan c) := hd1
    subst moved hg hl
    refine ⟨_, run_withDev (by simp [Instr.wf, hc]) (Dev.coresApply_ends pending working noDonor gens lrns), ?_, fun awaited => ?_⟩
    · rw [State.withDev, Dev.nameStopping_coresReq, Dev.complete_ctx, Dev.modCtx_ctx]
    · refine Dev.DueLast.nameStopping (Dev.complete_due _ _ ?_)
      exact Dev.awaited_modCtx.2 ((Dev.awaited_put (by decide)).2 awaited)

end Sys2Proof.Machine
end

section
/-! PROOFS. The tiers (chapter 11): O22 and O23. -/

namespace Sys2Proof.Machine

/-! ### MIGRATE (R235 to R238) -/

section
variable {d d1 : Dev} {q i c op : Nat} {w : Waiter} {bs : List Byte}

/-- MIGRATE past its form, on a range where no move or earlier operation stands. -/
theorem Dev.withMigrate_map (stands : d.Stands q i 7 0 c w bs) (form : migrateForm bs true = true)
    (free : d.moveHolds c (Migrate.of bs).g0 (Migrate.of bs).gn = false) (first : d.migrateAhead c q i (Migrate.of bs) = false)
    (f : Nat → Waiter → Migrate → Dev → Dev) : d.withMigrate q i 0 f = f c w (Migrate.of bs) d := by
  rw [Dev.withMigrate, Dev.withDesc_stands stands]
  dsimp only
  rw [if_neg (by simp [form]), if_neg (by simp [free, first]), if_neg (by simp), if_neg (by simp)]

/-- An operation other than MAP, past its form, on mapped leaves that it names whole. -/
theorem Dev.withMigrate_leaves (other : op ≠ 0) (stands : d.Stands q i 7 op c w bs) (form : migrateForm bs false = true)
    (free : d.moveHolds c (Migrate.of bs).g0 (Migrate.of bs).gn = false) (first : d.migrateAhead c q i (Migrate.of bs) = false)
    (mapped : d.allMapped c (Migrate.of bs).g0 (Migrate.of bs).gn = true)
    (whole : cutsLeaf ((d.ctx c).leavesIn (Migrate.of bs).g0 (Migrate.of bs).gn) (Migrate.of bs).g0 (Migrate.of bs).gn = false)
    (f : Nat → Waiter → Migrate → Dev → Dev) : d.withMigrate q i op f = f c w (Migrate.of bs) d := by
  rw [Dev.withMigrate, Dev.withDesc_stands stands]
  dsimp only
  rw [if_neg (by simp [form, other]), if_neg (by simp [free, first]), if_neg (by simp [mapped]), if_neg (by simp [whole])]

theorem Dev.map_lazy (stands : d.Stands q i 7 0 c w bs) (form : migrateForm bs true = true)
    (free : d.moveHolds c (Migrate.of bs).g0 (Migrate.of bs).gn = false) (first : d.migrateAhead c q i (Migrate.of bs) = false)
    (inSpace : (Migrate.of bs).va + (Migrate.of bs).len ≤ 2 ^ 50)
    (unmapped : (d.ctx c).anyLeaf (Migrate.of bs).g0 (Migrate.of bs).gn = false)
    (apart : d.deviceMeets c (Migrate.of bs).va (Migrate.of bs).len = false) (isLazy : (Migrate.of bs).lazy = true)
    (heart : d.noHeart (Migrate.of bs).tier = false) : d.map q i =
      (d.setLeaves c ((Migrate.of bs).starts.foldl (fun ls k => SMap.set ls k (Migrate.of bs).leaf) (d.ctx c).leaves)).complete w
        Status.ok (Migrate.of bs).starts.length := by
  rw [Dev.map, Dev.withMigrate_map stands form free first]
  dsimp only
  rw [if_neg (by simp [-Nat.reducePow, inSpace, unmapped, apart]), if_pos isLazy, if_neg (by simp [heart])]

/-- No leaf of another kind stands among a MAP's own. -/
theorem leaves_any_kind {ls : List (Nat × Leaf)} {p : LeafKind → Bool} (plain : ∀ e ∈ ls, e.2.kind = .map) (not : p .map = false) :
    (ls.any fun e => p e.2.kind) = false :=
  List.any_eq_false.2 fun e he => by simp [plain e he, not]

section
variable (form : migrateForm bs false = true) (free : d.moveHolds c (Migrate.of bs).g0 (Migrate.of bs).gn = false)
  (first : d.migrateAhead c q i (Migrate.of bs) = false) (mapped : d.allMapped c (Migrate.of bs).g0 (Migrate.of bs).gn = true)
  (whole : cutsLeaf ((d.ctx c).leavesIn (Migrate.of bs).g0 (Migrate.of bs).gn) (Migrate.of bs).g0 (Migrate.of bs).gn = false)
  (plain : ∀ e ∈ (d.ctx c).leavesIn (Migrate.of bs).g0 (Migrate.of bs).gn, e.2.kind = .map)
include form free first mapped whole plain

theorem Dev.unmap_drops (stands : d.Stands q i 7 1 c w bs) (apart : d.deviceMeets c (Migrate.of bs).va (Migrate.of bs).len = false) :
    d.unmap q i = (d.dropLeaves c (((d.ctx c).leavesIn (Migrate.of bs).g0 (Migrate.of bs).gn).map (·.1))).complete w Status.ok
      ((d.ctx c).leavesIn (Migrate.of bs).g0 (Migrate.of bs).gn).length := by
  rw [Dev.unmap, Dev.withMigrate_leaves (by decide) stands form free first mapped whole]
  dsimp only
  rw [if_neg (by rw [apart, leaves_any_kind (p := fun k => k ≠ .map) plain (by decide)]; decide)]

theorem Dev.hint_prefers (stands : d.Stands q i 7 3 c w bs) (heart : d.noHeart (Migrate.of bs).tier = false) :
    d.hint q i = (d.each ((d.ctx c).leavesIn (Migrate.of bs).g0 (Migrate.of bs).gn) fun e x =>
      x.setLeaf c e.1 { e.2 with pref := (Migrate.of bs).tier, fallback := (Migrate.of bs).fallback }).complete w Status.ok
        ((d.ctx c).leavesIn (Migrate.of bs).g0 (Migrate.of bs).gn).length := by
  rw [Dev.hint, Dev.withMigrate_leaves (by decide) stands form free first mapped whole]
  dsimp only
  rw [if_neg (by rw [leaves_any_kind (p := fun k => k = .accord) plain (by decide)]; decide), if_neg (by simp [heart])]

theorem Dev.move_begins {left : List (Nat × Nat × Nat)} (stands : d.Stands q i 7 2 c w bs) (noRollouts : (d.ctx c).rollouts = [])
    (exact' : (Migrate.of bs).fallback = false) (heart : d.noHeart (Migrate.of bs).tier = false)
    (reserved : d.reserveAll c (Migrate.of bs).tier [(Migrate.of bs).tier] ((d.ctx c).leavesIn (Migrate.of bs).g0 (Migrate.of bs).gn) [] =
      (some left, d1)) :
    d.move q i = ((d1.accept w).retierRings c (Migrate.of bs).va (Migrate.of bs).len (Migrate.of bs).tier).startMove c (.desc w)
      (Migrate.of bs).g0 (Migrate.of bs).gn (Migrate.of bs).tier left := by
  rw [Dev.move, Dev.withMigrate_leaves (by decide) stands form free first mapped whole]
  dsimp only
  rw [if_neg (by
      rw [leaves_any_kind (p := fun k => k = .accord || k = .area) plain (by decide),
        leaves_any_kind (p := fun k => k = .kv) plain (by decide), noRollouts]
      simp), if_neg (by simp [heart]), if_neg (by simp [exact']), reserved]

end

end

/-- Settles O22: each operation passes the checks that all four share, then its own. -/
theorem migrateDescriptorsComplete : Obligations.MigrateDescriptorsComplete := by
  refine ⟨fun s q i c w bs m stands hm form free first inSpace unmapped apart isLazy heart => ?_,
    fun s q i c w bs m stands hm form free first mapped whole apart plain => ?_,
    fun s q i c w bs m left d1 stands hm form free first mapped whole plain noRollouts exact' heart reserved => ?_,
    fun s q i c w bs m stands hm form free first mapped whole plain heart => ?_⟩ <;> subst hm
  · exact run_withDev stands.named (Dev.map_lazy stands form free first inSpace unmapped apart isLazy heart)
  · exact run_withDev stands.named (Dev.unmap_drops form free first mapped whole plain stands apart)
  · exact run_withDev stands.named (Dev.move_begins form free first mapped whole plain stands noRollouts exact' heart reserved)
  · exact run_withDev stands.named (Dev.hint_prefers form free first mapped whole plain stands heart)

/-! ### Movers, failed requests, scrub, quotas, the probe (R231, R237, R243, R247 to R250) -/

section
variable {d d1 : Dev} {c id k t f : Nat} {rsp : TierRsp} {m : Move} {rest : List (Nat × Nat × Nat)} {l : Leaf}

theorem Dev.moveGranule_moves (working : d.working c = true) (found : (d.ctx c).moves.find? (fun x => x.id = id) = some m)
    (left : m.left = (k, t, f) :: rest) (leaf : SMap.find (d.ctx c).leaves k = some l) (meets : d.moveMeets c k l t f rsp = (none, d1)) :
    d.moveGranule c id rsp = (d1.switchLeaf c k l t f).turnMove c
      { m with left := rest, moved := m.moved + 1, below := m.below + if t = m.dest then 0 else 1 } := by
  rw [Dev.moveGranule, found]
  dsimp only
  rw [left]
  dsimp only
  rw [leaf]
  dsimp only
  rw [if_pos working, meets]

theorem Dev.tierTimeoutExpiry_move {va tier : Nat} (found : (d.ctx c).moves.find? (fun x => x.id = id) = some m)
    (place : d.tierAt c va = some tier) (lower : tier ≠ 0) (late : m.since + d.tierTmo tier ≤ d.ns) :
    d.tierTimeoutExpiry (.move c id) va = d.moveGranule c id [(va, true)] := by
  have since : d.requestSince (.move c id) = some (c, m.since) := by
    rw [Dev.requestSince, found]
    rfl
  rw [Dev.tierTimeoutExpiry, since]
  dsimp only
  rw [place]
  exact if_pos (by simp [lower, late])

theorem Dev.patrolScrub_top (frame n : Nat) : d.patrolScrub 0 frame n false true =
    (d.incSat F.tierStat_corrected 0 n).incMod F.tierScrub_top_passes 0 := rfl

theorem Dev.tierQuotaWrite_sets {tier limit : Nat} (served : d.served = true) (valid : d.flag F.ctxCfg_valid c = true)
    (fits : d.limits tier (some c) + limit ≤ d.get F.tierCap_frames 0 tier) :
    d.tierQuotaWrite 0 c tier limit = (d.put F.tierQuota_limit c limit tier).countAssigned := by
  rw [Dev.tierQuotaWrite, if_pos (by simp [served, valid]), if_neg (Nat.not_lt.2 fits)]

theorem Dev.tierProbe_shows {fn va : Nat} (writable : d.ctxWritable0 fn c = true)
    (leaf : (d.ctx c).leafAt (va / pageBytes) = some (k, l)) :
    d.tierProbe fn c va = d.setReg .tierProbeRes c (d.leafWord k l) := by
  rw [Dev.tierProbe, if_pos writable, leaf]

theorem Dev.get_incMod_self (d : Dev) (f : Fld) (i n j : Nat) (h : f.lo + f.w ≤ 64) :
    (d.incMod f i n j).get f i j = (d.get f i j + n) % 2 ^ f.w := by
  rw [Dev.incMod_eq, Dev.get_put_self _ _ _ _ _ h]

end

/-- Settles O23: each event takes the branch that its conditions leave. -/
theorem tierEventsComplete : Obligations.TierEventsComplete := by
  refine ⟨fun s c id k t f rsp m rest l d1 hc working found left leaf meets => ?_,
    fun s c id va hc => ?_,
    fun s c id va tier m hc found place lower late => ?_,
    fun s frame n named => ?_,
    fun s c tier limit named served valid fits => ?_,
    fun s fn c va k l named writable leaf => ?_⟩
  · exact run_withDev (by simp [Instr.wf, hc]) (Dev.moveGranule_moves working found left leaf meets)
  · exact run_withDev (by simp [Instr.wf, wfReq, hc]) (if_pos rfl)
  · exact run_withDev (by simp [Instr.wf, wfReq, hc]) (Dev.tierTimeoutExpiry_move found place lower late)
  · refine ⟨_, run_withDev named (Dev.patrolScrub_top frame n), ?_, ?_⟩
    · rw [State.withDev, Dev.incMod_eq, Dev.get_put_ne _ _ fun h => absurd h.1 (by decide),
        Dev.get_incSat_self _ _ _ _ _ (by decide)]
    · rw [State.withDev, Dev.get_incMod_self _ _ _ _ _ (by decide), Dev.incSat_eq, Dev.get_put_ne _ _ fun h => absurd h.1 (by decide)]
  · exact run_withDev named (Dev.tierQuotaWrite_sets served valid fits)
  · exact run_withDev named (Dev.tierProbe_shows writable leaf)

end Sys2Proof.Machine
end

section
/-! PROOFS. Data movement (chapter 12): O24 and O25. -/

namespace Sys2Proof.Machine

section
variable {d : Dev} {core seq ch off c n path : Nat} {next : Bool} {y : Clause}

/-! ### Instructions (R253, R261) -/

theorem Dev.withChannel_runs (runs : d.Runs core seq c y) (owned : d.ownsChannel core seq ch = true) (f : Nat → Clause → Dev → Dev) :
    d.withChannel core seq ch f = f c y d := by
  rw [Dev.withChannel, Dev.withClause_runs runs]
  exact if_pos owned

/-- The transfer that DMA adds on a channel that is not halted. -/
def Dev.issuedXfer (d : Dev) (core seq ch off c : Nat) (next : Bool) : Xfer :=
  { seq := seq, path := ch, num := (d.core core).xferNo, record := d.lsRead core off 64, since := d.ns, moved := 0, ended := none,
    retryAt := 0, retries := 0, sent := false, lines := [], answer := 0, next := next, held := next && d.holdsNext c }

theorem Dev.dma_issues (runs : d.Runs core seq c y) (owned : d.ownsChannel core seq ch = true) (aligned : off % 64 = 0)
    (inStore : off + 64 ≤ storeBytes) (legal : d.xrecOk c (d.lsRead core off 64) = true)
    (whole : (XRec.of (d.lsRead core off 64)).part = false) (free : d.slotFree core ch = true) (runsOn : d.pathHalted core ch = false) :
    d.dma core seq ch off next = ((d.issues core seq).modCore core fun k =>
      { k with xfers := k.xfers ++ [d.issuedXfer core seq ch off c next], xferNo := k.xferNo + 1 }).countQueued core ch := by
  rw [Dev.dma, Dev.withChannel_runs runs owned]
  dsimp only
  rw [whole]
  simp only [Bool.false_eq_true, if_false]
  rw [if_neg (by simp [aligned, inStore, legal]), if_neg (by simp [free]), runsOn]
  simp only [Bool.false_eq_true, if_false, Bool.not_false, Bool.and_true]
  rfl

theorem Dev.countQueued_core (d : Dev) (core path k : Nat) : (d.countQueued core path).core k = d.core k := by
  unfold Dev.countQueued
  dsimp only
  split <;> rfl

@[simp] theorem Dev.issues_core (d : Dev) (core seq k : Nat) : (d.issues core seq).core k = d.core k := rfl

@[simp] theorem Dev.issues_out (d : Dev) (core seq : Nat) : (d.issues core seq).out = d.out := rfl

theorem Dev.waitPath_met (few : (d.onPath core path).length ≤ n) : d.waitPath core seq path n = d.issues core seq := by
  unfold Dev.waitPath
  split
  · rfl
  · next x xs held =>
    rw [held] at few
    exact if_pos few

theorem Dev.statPath_out (d : Dev) (core seq path : Nat) : (d.statPath core seq path).out =
    .toClause core seq (SMap.get (d.core core).firstBad 0 path) :: d.out := rfl

theorem Dev.statPath_firstBad (d : Dev) (core seq path : Nat) :
    ((d.statPath core seq path).core core).firstBad = SMap.erase (d.core core).firstBad path := by
  rw [Dev.statPath, Dev.emit_core, Dev.modCore_core, Dev.issues_core]

theorem Dev.setHalt_channel (d : Dev) (core : Nat) (channel : ch < 8) :
    (d.setHalt core ch 0).get F.dmaChCtl_halted core ch = 0 := by
  rw [Dev.setHalt, if_pos channel, Dev.get_put_self _ _ _ _ _ (by decide)]
  rfl

theorem Dev.setHalt_particle (d : Dev) (core seq : Nat) : (d.setHalt core (8 + seq) 0).get F.dmaPtStat_halted core seq = 0 := by
  rw [Dev.setHalt, if_neg (by omega), Nat.add_sub_cancel_left, Dev.get_put_self _ _ _ _ _ (by decide)]
  rfl

end

/-- Settles O24: each instruction runs on a channel or path of its own sequencer. -/
theorem transferInstructionsComplete : Obligations.TransferInstructionsComplete := by
  refine ⟨fun s core seq ch off c next y runs hch hoff owned aligned inStore legal whole free runsOn => ?_,
    fun s core seq ch n c y runs named owned few => ?_, fun s core seq ch c y runs hch owned => ?_,
    fun s core seq ch c y runs hch owned => ?_, fun s core seq n c y runs named few => ?_, fun s core seq c y runs => ?_,
    fun s core seq c y runs => ?_⟩
  · refine ⟨_, s.dev.issuedXfer core seq ch off c next, run_withDev (by simp [Instr.wf, runs.wf, hch])
      (Dev.dma_issues runs owned aligned inStore legal whole free runsOn), ?_, rfl, rfl, rfl, rfl, rfl, rfl, rfl, rfl⟩
    rw [State.withDev, Dev.countQueued_core, Dev.modCore_core, Dev.issues_core]
  · exact run_withDev named ((Dev.withChannel_runs runs owned _).trans (Dev.waitPath_met few))
  · exact ⟨_, run_withDev (by simp [Instr.wf, runs.wf, hch]) (Dev.withChannel_runs runs owned _), Dev.statPath_out _ _ _ _,
      Dev.statPath_firstBad _ _ _ _⟩
  · exact ⟨_, run_withDev (by simp [Instr.wf, runs.wf, hch]) (Dev.withChannel_runs runs owned _), Dev.setHalt_channel _ _ hch⟩
  · exact run_withDev named ((Dev.withClause_runs runs _).trans (Dev.waitPath_met few))
  · exact ⟨_, run_withDev (by simp [Instr.wf, runs.wf]) (Dev.withClause_runs runs _), Dev.statPath_out _ _ _ _,
      Dev.statPath_firstBad _ _ _ _⟩
  · exact ⟨_, run_withDev (by simp [Instr.wf, runs.wf]) (Dev.withClause_runs runs _), Dev.setHalt_particle _ _ _⟩

/-! ### Transfers (R255, R257, R260, R262, R265) -/

section
variable {d d1 d2 : Dev} {core path n : Nat} {rsp : TierRsp} {x : Xfer}

theorem Dev.dmaTransfer_moves (oldest : (d.core core).xfers.find? (·.idle path) = some x) (released : x.held = false)
    (held : d.get F.coreState_state core = CoreSt.held) (working : d.working (d.get F.coreState_ctx core) = true)
    (here : (XRec.of x.record).remote = false)
    (moved : d.moveAll (d.get F.coreState_ctx core) (d.readerOf core x.seq x.next) rsp true (XRec.of x.record)
      (XRec.of x.record).size = (none, n, d1)) :
    d.dmaTransfer core path rsp =
      (d1.modXfer core x.num fun x => { x with ended := some Status.ok, moved := n }).countMoved core x.path n none := by
  rw [Dev.dmaTransfer, oldest]
  dsimp only
  rw [if_neg (by simp [released, held, working]), if_neg (by simp [here]), Dev.runLocal, moved]

theorem Dev.dmaTransferComplete_ok (channel : path < 8) (oldest : (d.core core).xfers.find? (fun x => x.path = path) = some x)
    (ended : x.ended = some 0) : d.dmaTransferComplete core path =
      ((((d.modCore core fun k => { k with xfers := k.xfers.erase x, firstBad := k.firstBad }).countQueued core path).put
        F.dmaChStat_last core 0 path).incMod F.dmaChStat_done core 1 path) := by
  rw [Dev.dmaTransferComplete, oldest]
  dsimp only
  rw [ended]
  exact if_pos channel

theorem Dev.dmaRetry_retries {k used : Nat} {addr : Word} (channel : path < 8)
    (oldest : (d.core core).xfers.find? (fun x => x.path = path && x.ended.isNone && !x.held) = some x) (here : x.sent = false)
    (hits : (XRec.of x.record).hits addr.toNat = some k) (hused : used = (if x.retryAt = addr.toNat / 256 then x.retries else 0))
    (more : used < d.get F.dmaChCtl_retry core path) : d.dmaRetry core path addr =
      (d.modXfer core x.num fun x => { x with retryAt := addr.toNat / 256, retries := used + 1 }).incSat F.dmaChErr_retries core 1 path := by
  have onPath : x.path = path := by
    have accepted := List.find?_some (p := fun x : Xfer => x.path = path && x.ended.isNone && !x.held) oldest
    simp only [Bool.and_eq_true, decide_eq_true_eq] at accepted
    exact accepted.1.1
  subst hused
  have limit : d.retryLimit core x.path = d.get F.dmaChCtl_retry core path := by
    rw [onPath, Dev.retryLimit, if_pos channel]
  rw [Dev.dmaRetry, oldest]
  dsimp only
  rw [Dev.busError]
  dsimp only
  rw [hits]
  dsimp only
  rw [limit, if_pos more, if_neg (by simp [here]), onPath, if_pos channel]

/-- The status that an acknowledgement carries. -/
def ackStatus (e : Option (Nat × Nat)) : Nat := match e with | some b => b.1 | none => 0

theorem Dev.remoteWriteArrive_lands {g rank a : Nat} {tag : WriteTag} {dst : Word} {data : List Byte} {m : Nat × Nat}
    {e : Option (Nat × Nat)} (member : d.member g rank = some m) (group : d.inGroup (d.get F.fabGrpCfg_ctx g) g = true)
    (working : d.working (d.get F.fabGrpCfg_ctx g) = true) (other : m.1 ≠ d.ownRank) (address : Addr.of dst.toNat = .va a)
    (put : d.putPieces (d.get F.fabGrpCfg_ctx g) rsp true (requestsOf a data) 0 = (e, n, d1)) :
    d.remoteWriteArrive g rank tag dst data rsp =
      d1.send m.1 g (.dmaAck g (d1.groupRank g) tag (ackStatus e)) 0 := by
  rw [Dev.remoteWriteArrive]
  dsimp only
  rw [member]
  dsimp only
  rw [if_neg (by simp [group, working, other]), address]
  dsimp only
  rw [put]
  rfl

theorem Dev.dmaCopy_copies {q i c errs : Nat} {addr : Word} {w : Waiter} {bs : List Byte} {g : Got}
    (stands : d.Stands q i 2 256 c w bs) (op : fieldAt bs 16 1 = 0) (zeros : allZero (slice bs 17 7) = true)
    (tail : allZero (slice bs 32 32) = true) (aligned : fieldAt bs 24 8 % 64 = 0)
    (read : d.readVa c none rsp (fieldAt bs 24 8) 64 = (g, d1)) (good : g.bad = none) (plain : (XRec.of g.raw).trans = false)
    (here : (XRec.of g.raw).remote = false) (whole : (XRec.of g.raw).part = false) (dst : bitOf (XRec.of g.raw).dst 63 = false)
    (src : (XRec.of g.raw).zero = false → bitOf (XRec.of g.raw).src 63 = false) (form : (XRec.of g.raw).zeros g.raw = true)
    (shapes : (XRec.of g.raw).shapes = true)
    (moved : d1.moveAll c none rsp false (XRec.of g.raw)
      ((if 3 < errs then (XRec.of g.raw).hits addr.toNat else none).getD (XRec.of g.raw).size) = (none, n, d2)) :
    d.dmaCopy q i rsp errs addr = d2.complete w
      (if (if 3 < errs then (XRec.of g.raw).hits addr.toNat else none).isSome then Status.dmaHalt else Status.ok) n := by
  have virtual : (!(XRec.of g.raw).zero && bitOf (XRec.of g.raw).src 63) = false := by
    cases zero : (XRec.of g.raw).zero with
    | true => rfl
    | false => exact src zero
  rw [Dev.dmaCopy, Dev.withDesc_stands stands]
  dsimp only
  rw [if_neg (by simp [op, zeros, tail, aligned]), read]
  dsimp only
  rw [good]
  dsimp only
  rw [if_neg (by simp [plain, here, whole, dst, virtual]), if_neg (by simp [form, shapes]), moved]

end

/-- Settles O25: each part of a transfer's life takes the branch that its conditions leave. -/
theorem transfersComplete : Obligations.TransfersComplete := by
  refine ⟨fun s core path n rsp x d1 hcore hpath oldest released held working here moved => ?_,
    fun s core path x hcore hpath oldest ended => ?_,
    fun s core path k used addr x hcore hpath oldest here hits hused more => ?_,
    fun s g rank a n tag dst data rsp m e d1 hg hrank member group working other address put => ?_,
    fun s q i c errs n addr stop w bs rsp g d1 d2 stands op zeros tail aligned read good plain here whole dst src form shapes hstop moved => ?_⟩
  · exact run_withDev (by simp [Instr.wf, hcore, hpath]) (Dev.dmaTransfer_moves oldest released held working here moved)
  · have wf : path < 11 := Nat.lt_trans hpath (by decide)
    refine ⟨_, run_withDev (by simp [Instr.wf, hcore, wf]) (Dev.dmaTransferComplete_ok hpath oldest ended), ?_, ?_, ?_⟩
    · rw [State.withDev, Dev.incMod_eq, Dev.put_core, Dev.put_core, Dev.countQueued_core, Dev.modCore_core]
    · rw [State.withDev, Dev.incMod_eq, Dev.get_put_apart _ _ _ _ _ _ (by decide), Dev.get_put_self _ _ _ _ _ (by decide)]
      rfl
    · rw [State.withDev, Dev.incMod_eq, Dev.put_core, Dev.put_core, Dev.countQueued_core, Dev.modCore_core]
  · have wf : path < 11 := Nat.lt_trans hpath (by decide)
    refine ⟨_, run_withDev (by simp [Instr.wf, hcore, wf]) (Dev.dmaRetry_retries hpath oldest here hits hused more), ?_, ?_⟩
    · rw [State.withDev, Dev.incSat_eq, Dev.put_core, Dev.modXfer, Dev.modCore_core]
    · exact Dev.get_incSat_self _ _ _ _ _ (by decide)
  · exact run_withDev (by simp [Instr.wf, hg, hrank]) (Dev.remoteWriteArrive_lands member group working other address put)
  · subst hstop
    exact run_withDev stands.named (Dev.dmaCopy_copies stands op zeros tail aligned read good plain here whole dst src form shapes moved)

end Sys2Proof.Machine
end

section
/-! PROOFS. Fabric ports (chapter 13): O26. -/

namespace Sys2Proof.Machine

section
variable {d : Dev} {p w : Nat} {lanes : BitVec 4} {kx : KeyExchange}

/-! ### Flits and replay (R275) -/

theorem Dev.countCodewords_port (d : Dev) (p : Nat) (symbols : List Nat) (k : Nat) : (d.countCodewords p symbols).port k = d.port k :=
  Dev.each_induct (·.port k = d.port k) _ _ _ rfl fun _ _ _ h => by
    split
    · exact h
    · exact h

theorem Dev.flitReceive_takes {f : Flit} {symbols : List Nat} (up : d.portIsUp p = true) (whole : f.bytes.length = 256)
    (reserved : bitsOf (fieldAt f.bytes 224 1) 6 2 = 0)
    (direction : bitsOf (fieldAt f.bytes 224 1) 0 2 = 2 ∨ bitOf (fieldAt f.bytes 224 1) 5 = false)
    (crc : crc32c (f.bytes.take 252) = fieldAt f.bytes 252 4) (next : fieldAt f.bytes 228 4 = (d.port p).rxSeq) (tag : f.tagOk = true)
    (cls : bitsOf (fieldAt f.bytes 224 1) 0 2 = classOf f.msg) : d.flitReceive p f symbols =
      (((d.countCodewords p symbols).incMod F.fabPortFlits_rx p).modPort p fun x =>
        { x with rxSeq := (x.rxSeq + 1) % 2 ^ 32, replay := x.replay.filter fun k => !seqLe k.seq (fieldAt f.bytes 232 4),
                 keyCount := SMap.set x.keyCount 1 (SMap.get x.keyCount 0 1 + 1) }).route p f := by
  have framing : framingOk f.bytes = true := by
    rcases direction with coll | outward
    · simp [framingOk, whole, reserved, coll]
    · simp [framingOk, whole, reserved, outward]
  have inOrder : (((d.countCodewords p symbols).incMod F.fabPortFlits_rx p).port p).rxSeq = fieldAt f.bytes 228 4 := by
    rw [Dev.incMod_eq, Dev.put_port, Dev.countCodewords_port, next]
  rw [Dev.flitReceive, if_neg (by simp [up])]
  dsimp only
  rw [if_neg (by simp [framing, crc]), if_neg (by simp [inOrder]), if_neg (by simp [tag]), if_pos cls]

/-- What one message after another emits stands last first. -/
theorem Dev.each_emit_out {α : Type} (d : Dev) (xs : List α) (g : α → Out) :
    (d.each xs fun x e => e.emit (g x)).out = (xs.map g).reverse ++ d.out := by
  induction xs generalizing d with
  | nil => rfl
  | cons x xs ih =>
    rw [Dev.each_cons, ih, List.map_cons, List.reverse_cons, List.append_assoc]
    rfl

theorem Dev.each_emit_port {α : Type} (d : Dev) (xs : List α) (g : α → Out) (k : Nat) :
    (d.each xs fun x e => e.emit (g x)).port k = d.port k :=
  Dev.each_induct (·.port k = d.port k) _ _ _ rfl fun _ _ _ h => h

/-- The flits of a port that its peer has not acknowledged, from a sequence number on. -/
def Dev.unacked (d : Dev) (p seq : Nat) : List Sent := (d.port p).replay.filter fun k => seqLe seq k.seq

theorem Dev.replayRequest_sends {seq : Nat} (up : d.portIsUp p = true) (fresh : (d.port p).replayRun.2 = 0) :
    d.replayRequest p seq = (((d.setPort p { d.port p with replayRun := (seq, 1) }).incMod F.fabPortFlits_tx p
      (d.unacked p seq).length).each (d.unacked p seq) fun k e => e.emit (.replayed p k)) := by
  rw [Dev.replayRequest, if_neg (by simp [up])]
  dsimp only
  rw [if_neg (c := ((d.port p).replayRun.2 ≠ 0 && (d.port p).replayRun.1 = seq) = true) (by simp [fresh])]
  exact if_neg (by decide)

/-! ### Training, keys and the end of a port (R273, R276, R298, R379) -/

theorem laneWidth_le {lanes : BitVec 4} (trains : laneWidth lanes = some w) : w ≤ 2 := by
  unfold laneWidth at trains
  split at trains
  · obtain rfl := Option.some.inj trains
    decide
  · split at trains
    · obtain rfl := Option.some.inj trains
      decide
    · split at trains
      · cases trains
      · obtain rfl := Option.some.inj trains
        decide

theorem Dev.widthAllowed_le (allowed : d.widthAllowed p lanes = some w) : w ≤ 2 := by
  obtain ⟨v, lane, rfl⟩ := Option.map_eq_some_iff.1 allowed
  exact Nat.max_le.2 ⟨laneWidth_le lane, Nat.le_of_lt_succ (Nat.mod_lt _ (by decide))⟩

theorem Dev.portTraining_trains (down : d.portIsUp p = false) (enabled : d.flag F.fabPortCfg_enable p = true)
    (named : d.flag F.fabPortStat_level_set p = true) (on : d.domOn (288 + p) = true) (allowed : d.widthAllowed p lanes = some w)
    (fresh : (d.port p).retrainAt = none) (exchange : d.exchange kx = some (d.port p).topoRank) :
    d.portTraining p lanes kx = (((d.put F.fabPortStat_peer p (d.port p).topoRank).modPort p fun x =>
      { Port.init with topoRank := x.topoRank, level := x.level }).put F.fabPortStat_width p w).put F.fabPortStat_state p portUp := by
  rw [Dev.portTraining, if_neg (by simp [down, enabled, named, on]), allowed]
  dsimp only
  rw [if_neg (by simp [fresh]), exchange]
  exact if_neg (by simp)

theorem Dev.retrainTimeout_falls {t0 : Nat} (since : (d.port p).retrainAt = some t0) (training : d.get F.fabPortStat_state p = portTrain)
    (late : t0 + 200000 < d.ns) : d.retrainTimeout p = d.portFall p := by
  rw [Dev.retrainTimeout, since]
  exact if_pos (by simp [training, late])

theorem Dev.rekey_renews {dir : Nat} (up : d.portIsUp p = true) (worn : (d.worn p rekeyAfter).contains dir = true)
    (idle : (d.port p).rekeyAt = none) (exchange : d.exchange kx = some (d.port p).topoRank) :
    d.rekey p dir kx = d.modPort p fun x =>
      { x with rekeyAt := none, keyIndex := SMap.set x.keyIndex dir ((SMap.get x.keyIndex 0 dir + 1) % 2 ^ 32),
               keyCount := SMap.set x.keyCount dir 0 } := by
  rw [Dev.rekey, if_pos (by rw [up, worn, idle]; rfl), Dev.newKeys, if_pos exchange]
  rfl

theorem Dev.rekeyRetry_retries {t0 : Nat} (since : (d.port p).rekeyAt = some t0) (up : d.portIsUp p = true)
    (due : t0 + 10 ^ 8 ≤ d.ns) : d.rekeyRetry p kx = d.newKeys p (d.worn p rekeyAfter) kx := by
  rw [Dev.rekeyRetry, since]
  exact if_pos (by simp [-Nat.reducePow, up, due])

theorem Dev.keyLimitReached_falls (up : d.portIsUp p = true) (worn : d.worn p keyLimit ≠ []) : d.keyLimitReached p = d.portFall p :=
  if_pos (by simp [up, worn])

/-! ### Recalibration (R300, R425) -/

theorem Dev.recalStart_starts (asked : d.flag F.fabPortCfg_recal p = true) (up : d.portIsUp p = true)
    (idle : (d.port p).recal = false) (unused : d.groupsOver p = []) :
    d.recalStart p = d.modPort p fun x => { x with recal := true } := by
  rw [Dev.recalStart, unused]
  exact if_pos (by simp [asked, up, idle])

theorem Dev.recalComplete_ends (running : (d.port p).recal = true) (allowed : d.widthAllowed p lanes = some w) :
    d.recalComplete p lanes =
      ((d.modPort p fun x => { x with recal := false }).put F.fabPortCfg_recal p 0).put F.fabPortStat_width p w := by
  have still : ((d.modPort p fun x => { x with recal := false }).put F.fabPortCfg_recal p 0).widthAllowed p lanes = some w := by
    rw [Dev.widthAllowed, Dev.get_put_apart _ _ _ _ _ _ (by decide)]
    exact allowed
  rw [Dev.recalComplete, if_pos running]
  dsimp only
  rw [still]

end

/-- Settles O26: each event passes the checks that its conditions state. -/
theorem portEventsComplete : Obligations.PortEventsComplete := by
  refine ⟨fun s p f symbols hp up whole reserved direction crc next tag cls => ?_, fun s p seq named up fresh => ?_,
    fun s p w lanes same hp down enabled named on allowed fresh peer exchange => ?_, fun s p hp up => ?_,
    fun s p t0 hp since training late => ?_, fun s p hp up => ?_, fun s p dir same named up worn idle exchange => ?_,
    fun s p t0 kx named since up due => ?_, fun s p hp up worn => ?_, fun s p hp served => ?_,
    fun s p hp asked up idle unused => ?_, fun s p w lanes hp running allowed => ?_⟩
  · exact run_withDev (by simp [Instr.wf, hp]) (Dev.flitReceive_takes up whole reserved direction crc next tag cls)
  · refine ⟨_, run_withDev named (Dev.replayRequest_sends up fresh), ?_, ?_⟩
    · rw [State.withDev, Dev.each_emit_out]
      rfl
    · rw [State.withDev, Dev.each_emit_port, Dev.incMod_eq, Dev.put_port, Dev.setPort_port]
  · have fits : w < 2 ^ F.fabPortStat_width.w := Nat.lt_of_le_of_lt (Dev.widthAllowed_le allowed) (by decide)
    refine ⟨_, run_withDev (by simp [Instr.wf, hp]) (Dev.portTraining_trains down enabled named on allowed fresh exchange), ?_, ?_, ?_⟩
    · rw [State.withDev, Dev.get_put_self _ _ _ _ _ (by decide)]
      rfl
    · rw [State.withDev, Dev.get_put_apart _ _ _ _ _ _ (by decide), Dev.get_put_self _ _ _ _ _ (by decide), Nat.mod_eq_of_lt fits]
    · rw [State.withDev, Dev.get_put_apart _ _ _ _ _ _ (by decide), Dev.get_put_apart _ _ _ _ _ _ (by decide)]
      exact (Dev.get_put_self s.dev F.fabPortStat_peer p _ 0 (by decide)).trans (Nat.mod_eq_of_lt peer)
  · exact run_withDev (by simp [Instr.wf, hp]) (if_pos up)
  · exact run_withDev (by simp [Instr.wf, hp]) (Dev.retrainTimeout_falls since training late)
  · exact run_withDev (by simp [Instr.wf, hp]) (if_neg up)
  · refine ⟨_, run_withDev named (Dev.rekey_renews up worn idle exchange), ?_, ?_⟩
    · rw [State.withDev, Dev.modPort_port]
      exact SMap.get_set_self _ _ _ _
    · rw [State.withDev, Dev.modPort_port]
      exact SMap.get_set_self _ _ _ _
  · exact run_withDev named (Dev.rekeyRetry_retries since up due)
  · exact run_withDev (by simp [Instr.wf, hp]) (Dev.keyLimitReached_falls up worn)
  · exact ⟨_, run_withDev (by simp [Instr.wf, hp]) (if_pos (by simp [served])), Dev.get_put_self _ _ _ _ _ (by decide)⟩
  · exact ⟨_, run_withDev (by simp [Instr.wf, hp]) (Dev.recalStart_starts asked up idle unused),
      congrArg Port.recal (Dev.modPort_port _ _ _)⟩
  · have fits : w < 2 ^ F.fabPortStat_width.w := Nat.lt_of_le_of_lt (Dev.widthAllowed_le allowed) (by decide)
    refine ⟨_, run_withDev (by simp [Instr.wf, hp]) (Dev.recalComplete_ends running allowed), ?_, ?_, ?_⟩
    · rw [State.withDev, Dev.put_port, Dev.put_port, Dev.modPort_port]
    · rw [State.withDev, Dev.get_put_apart _ _ _ _ _ _ (by decide), Dev.get_put_self _ _ _ _ _ (by decide)]
      rfl
    · rw [State.withDev, Dev.get_put_self _ _ _ _ _ (by decide), Nat.mod_eq_of_lt fits]

end Sys2Proof.Machine
end

section
/-! PROOFS. Collectives (chapter 13): O27 and O28. -/

namespace Sys2Proof.Machine

section
variable {d d1 : Dev} {q i op c g num : Nat} {w : Waiter} {bs : List Byte} {rsp : TierRsp}

/-! ### Descriptors (R284, R289, R292, R297) -/

/-- The member words of a GROUP's table, and the members that they name. -/
def tableWords (bs raw : List Byte) : List Nat := (List.range (CollRec.of bs).count).map fun k => fieldAt raw (4 * k) 4
def tableMembers (bs raw : List Byte) : List (Nat × Nat) := (tableWords bs raw).map fun v => (bitsOf v 0 12, bitsOf v 12 8)

/-- TMO_US of a GROUP, with its default. -/
def CollRec.timeout (r : CollRec) : Nat := if r.tmo = 0 then 2000 else r.tmo

/-- What a GROUP whose table has been read waits with. -/
def Dev.formingOf (d : Dev) (w : Waiter) (c : Nat) (bs raw : List Byte) : Forming :=
  ⟨w, c, tableMembers bs raw, (CollRec.of bs).cfg, (CollRec.of bs).timeout,
    joinDigest raw (CollRec.of bs).cfg (CollRec.of bs).timeout, d.ns⟩

theorem Dev.groupCreate_forms {t : Got} (stands : d.Stands q i 3 0 c w bs) (form : (CollRec.of bs).formOk bs = true)
    (read : d.readVa c none [] (CollRec.of bs).src (4 * (CollRec.of bs).count) = (t, d1)) (good : t.bad = none)
    (clear : (tableWords bs t.raw).all (fun v => bitsOf v 20 12 = 0) = true)
    (free : d1.flag F.fabGrpCfg_valid (CollRec.of bs).group = false) (idle : (d1.group (CollRec.of bs).group).forming = none)
    (mine : (tableMembers bs t.raw).filter (fun m => m.1 = d1.ownRank) = [(d1.ownRank, c)]) : d.groupCreate q i =
      ((((d1.accept w).modGroup (CollRec.of bs).group fun x =>
          { Group.init with joins := x.joins, forming := some (d1.formingOf w c bs t.raw) }).sendTree
        ((tableMembers bs t.raw).map (·.1)) (CollRec.of bs).group (.join d1.ownRank (d1.formingOf w c bs t.raw).digest) 32 []).tryForm
        (CollRec.of bs).group) := by
  have zeros : (tableWords bs t.raw).any (fun v => bitsOf v 20 12 ≠ 0) = false := by
    simpa using clear
  unfold tableWords at zeros
  unfold tableMembers tableWords at mine
  rw [Dev.groupCreate, Dev.withDesc_stands stands]
  dsimp only
  rw [if_neg (by simp [form]), read]
  dsimp only
  rw [good]
  dsimp only
  rw [if_neg (by simp only [zeros]; decide), if_neg (by simp only [free, idle, mine, ne_eq, not_true, Option.isSome_none]; decide)]
  rfl

theorem Dev.collDestroy_frees (stands : d.Stands q i 3 1 c w bs) (form : (CollRec.of bs).formOk bs = true)
    (usable : d.groupUsable c (CollRec.of bs).group = true) :
    d.collDestroy q i = (d.freeGroup (CollRec.of bs).group Status.collAbort).complete w Status.ok 0 := by
  rw [Dev.collDestroy, Dev.withDesc_stands stands]
  dsimp only
  rw [if_neg (by simp [form]), if_neg (by simp [usable])]

theorem Dev.collDesc_issues (stands : d.Stands q i 3 op c w bs) (checked : d.collCheck c false bs = none) :
    d.collDesc q i op rsp = (d.accept w).issueOp bs (some w) none rsp := by
  rw [Dev.collDesc, Dev.withDesc_stands stands, checked]

end

/-- Settles O27: each descriptor passes the checks that its conditions state; the five operations share one body. -/
theorem collectiveDescriptorsComplete : Obligations.CollectiveDescriptorsComplete := by
  refine ⟨fun s q i c w bs t d1 stands form read good clear free idle mine => ?_, fun s q i c w bs stands form usable => ?_,
    fun s q i op c w bs rsp stands _ checked => ?_⟩
  · exact ⟨d1.formingOf w c bs t.raw, _, rfl, rfl, rfl, rfl, rfl, rfl, run_withDev stands.named
      (Dev.groupCreate_forms stands form read good clear free idle mine)⟩
  · exact run_withDev stands.named (Dev.collDestroy_frees stands form usable)
  · refine ⟨?_, ?_, ?_, ?_, ?_⟩ <;> rintro rfl <;> exact run_withDev stands.named (Dev.collDesc_issues stands checked)

/-! ### Groups and their operations (R284, R289, R295, R296, R299) -/

section
variable {d d1 : Dev} {core seq off c g num n : Nat} {y : Clause} {o : CollOp} {rsp : TierRsp}

theorem Dev.groupJoinTimeout_fails {f : Forming} (waits : (d.group g).forming = some f) (late : f.since + 10 ^ 9 ≤ d.ns) :
    d.groupJoinTimeout g = d.failForm g f Status.collTimeout := by
  rw [Dev.groupJoinTimeout, waits]
  exact if_pos late

theorem Dev.coll_issues (runs : d.Runs core seq c y) (inStore : off + 64 ≤ storeBytes)
    (checked : d.collCheck c true (d.lsRead core off 64) = none) :
    d.coll core seq off rsp = (d.issues core seq).issueOp (d.lsRead core off 64) none (some (core, seq)) rsp := by
  rw [Dev.coll, Dev.withClause_runs runs]
  dsimp only
  rw [if_neg (Nat.not_lt.2 inStore), checked]

theorem Dev.collWait_met (runs : d.Runs core seq c y)
    (few : ((d.group g).ops.filter fun o => o.core = some (core, seq)).length ≤ n) : d.collWait core seq g n = d.issues core seq := by
  rw [Dev.collWait, Dev.withClause_runs runs]
  exact if_pos few

/-- COLL_STAT answers the first bad status of a sequencer's operations in a group, and forgets it. -/
def Dev.statColl (d : Dev) (core seq g : Nat) : Dev :=
  ((d.issues core seq).modCore core fun x => { x with collBad := SMap.erase x.collBad (seq * 64 + g) }).emit
    (.toClause core seq (SMap.get (d.core core).collBad 0 (seq * 64 + g)))

theorem Dev.collStat_answers (runs : d.Runs core seq c y) : d.collStat core seq g = d.statColl core seq g := by
  rw [Dev.collStat, Dev.withClause_runs runs]
  rfl

theorem Dev.statColl_out (d : Dev) (core seq g : Nat) : (d.statColl core seq g).out =
    .toClause core seq (SMap.get (d.core core).collBad 0 (seq * 64 + g)) :: d.out := rfl

theorem Dev.statColl_collBad (d : Dev) (core seq g : Nat) :
    ((d.statColl core seq g).core core).collBad = SMap.erase (d.core core).collBad (seq * 64 + g) := by
  rw [Dev.statColl, Dev.emit_core, Dev.modCore_core, Dev.issues_core]

section
variable (stands : (d.group g).op num = some o) (valid : d.flag F.fabGrpCfg_valid g = true)
  (ready : o.ready (d.ranksOf g) d.ownRank = true)
include stands valid ready

theorem Dev.collOperationComplete_user {bad : Option Nat} (user : o.use = .user) (mine : o.mine = true)
    (delivers : d.collDeliver (d.get F.fabGrpCfg_ctx g) rsp o (d.ranksOf g) = (bad, n, d1)) : d.collOperationComplete g num rsp =
      d1.finishOp g o (if o.status ≠ 0 then o.status else bad.getD Status.ok) n rsp := by
  rw [Dev.collOperationComplete, stands]
  dsimp only
  rw [if_neg (by simp [valid, ready]), user]
  dsimp only
  rw [Dev.completeUser, if_neg (by simp [mine]), delivers]

theorem Dev.collOperationComplete_plan (plan : o.use = .plan) : d.collOperationComplete g num rsp =
    (d.finishOp g o Status.ok 0 rsp).planKnown (d.get F.fabGrpCfg_ctx g)
      (fieldAt (((o.downs.head?).map (·.2.2)).getD []) 0 8 % 2) := by
  rw [Dev.collOperationComplete, stands]
  dsimp only
  rw [if_neg (by simp [valid, ready]), plan]

theorem Dev.collOperationComplete_summary (summary : o.use = .summary) : d.collOperationComplete g num rsp =
    (d.finishOp g o Status.ok 0 rsp).summariesKnown (d.get F.fabGrpCfg_ctx g) g o rsp := by
  rw [Dev.collOperationComplete, stands]
  dsimp only
  rw [if_neg (by simp [valid, ready]), summary]

theorem Dev.collOperationComplete_vote (vote : o.use = .vote) : d.collOperationComplete g num rsp =
    (d.finishOp g o Status.ok 0 rsp).votesKnown (d.get F.fabGrpCfg_ctx g) o rsp := by
  rw [Dev.collOperationComplete, stands]
  dsimp only
  rw [if_neg (by simp [valid, ready]), vote]

end

theorem Dev.collAbortTimeout_aborts {t0 : Nat} (stands : (d.group g).op num = some o) (issued : o.issued = some t0)
    (valid : d.flag F.fabGrpCfg_valid g = true) (aborts : d.get F.fabGrpCfg_mode g = 0)
    (late : t0 + 1000 * d.get F.fabGrpCtl_tmo_us g < d.ns) : d.collAbortTimeout g num = d.abortOp g num (d.groupRank g) 1 := by
  rw [Dev.collAbortTimeout, stands]
  dsimp only
  rw [issued]
  exact if_pos (by simp [valid, aborts, late])

section
variable {since : Nat} {edge : Option Nat} (stands : (d.group g).op num = some o) (capped : (edge, since) ∈ o.caps)
  (late : since + 1000 * orElse (d.get F.fabGrpCtl_stall_us g) 1 < d.ns) (full : d.collAtCap g o edge = true)

include capped late in
theorem Dev.overdue_of_capped :
    (o.caps.any fun e => e.1 = edge && e.2 + 1000 * orElse (d.get F.fabGrpCtl_stall_us g) 1 < d.ns) = true :=
  List.any_eq_true.2 ⟨_, capped, by simp [late]⟩

include stands capped late full

theorem Dev.collShareDetach_here (own : edge = none) :
    d.collShareDetach g num edge = (d.incSat F.fabGrpStat_detaches g).detachHere g o := by
  have overdue := Dev.overdue_of_capped capped late
  rw [Dev.collShareDetach, stands]
  dsimp only
  rw [if_neg (by simp only [overdue, full]; decide), own]

theorem Dev.collShareDetach_edge {p : Nat} (port : edge = some p)
    (cut : d1 = (((d.incSat F.fabGrpStat_detaches g).dropWaiting fun q x => q = p && downFlits g num x).modOp g num fun o =>
      { o with cut := o.cut ++ [p], caps := o.caps.filter fun e => e.1 ≠ edge })) :
    d.collShareDetach g num edge = d1.enqueue p (flitsOf p 0xFFFF g (.collDetach num d1.ownRank) 0) := by
  have overdue := Dev.overdue_of_capped capped late
  subst port cut
  rw [Dev.collShareDetach, stands]
  dsimp only
  rw [if_neg (by simp only [overdue, full]; decide)]

end

end

/-- Settles O28: each event passes the checks that its conditions state; an operation's use chooses its completion. -/
theorem collectiveEventsComplete : Obligations.CollectiveEventsComplete := by
  refine ⟨fun s g rank dg named other => ?_, fun s g f hg waits late => ?_, fun s core seq off c y rsp runs inStore checked => ?_,
    fun s core seq g n c y runs hg few => ?_, fun s core seq g c y runs hg => ?_,
    fun s g num c o rsp hg stands valid hc ready => ?_, fun s g num t0 o hg stands issued valid aborts late => ?_,
    fun s g num rank cause named valid => ?_, fun s g num since edge o hg stands capped late full => ?_⟩
  · exact run_withDev named (if_neg other)
  · exact run_withDev (by simp [Instr.wf, hg]) (Dev.groupJoinTimeout_fails waits late)
  · exact run_withDev (by simp [Instr.wf, runs.wf]) (Dev.coll_issues runs inStore checked)
  · exact run_withDev (by simp [Instr.wf, runs.wf, hg]) (Dev.collWait_met runs few)
  · exact ⟨_, run_withDev (by simp [Instr.wf, runs.wf, hg]) (Dev.collStat_answers runs), Dev.statColl_out _ _ _ _,
      Dev.statColl_collBad _ _ _ _⟩
  · subst hc
    have named : Instr.wf (.collOperationComplete g num rsp) = true := by simp [Instr.wf, hg]
    exact ⟨fun bad n d1 user mine delivers => run_withDev named (Dev.collOperationComplete_user stands valid ready user mine delivers),
      fun plan => run_withDev named (Dev.collOperationComplete_plan stands valid ready plan),
      fun summary => run_withDev named (Dev.collOperationComplete_summary stands valid ready summary),
      fun vote => run_withDev named (Dev.collOperationComplete_vote stands valid ready vote)⟩
  · exact run_withDev (by simp [Instr.wf, hg]) (Dev.collAbortTimeout_aborts stands issued valid aborts late)
  · exact run_withDev named (if_pos (by simp [valid]))
  · refine ⟨fun own => ?_, fun p d1 port hp cut => ?_⟩
    · exact run_withDev (by simp [Instr.wf, hg, own]) (Dev.collShareDetach_here stands capped late full own)
    · exact run_withDev (by simp [Instr.wf, hg, port, hp]) (Dev.collShareDetach_edge stands capped late full port cut)

end Sys2Proof.Machine
end

section
/-! PROOFS. Checkpoints (chapter 14): O29. -/

namespace Sys2Proof.Machine

section
variable {d d1 d2 d3 : Dev} {q i c : Nat} {w : Waiter} {bs : List Byte} {a : Area} {g : Got} {rsp : TierRsp}

/-! ### AREA (R305) -/

section
variable (stands : d.Stands q i 8 0 c w bs) (head : allZero (slice bs 17 7) = true) (tail : allZero (slice bs 48 16) = true)
  (place : fieldAt bs 24 8 % 2 ^ 30 = 0) (pool : fieldAt bs 40 8 % 2 ^ 21 = 0)
include stands head tail place pool

theorem Dev.area_maps (length : fieldAt bs 32 8 % 2 ^ 22 = 0) (nonempty : fieldAt bs 32 8 ≠ 0)
    (mapped : d.mapArea c (fieldAt bs 24 8) (fieldAt bs 32 8) (fieldAt bs 40 8) = .ok d1) :
    d.area q i = d1.complete w Status.ok 0 := by
  rw [Dev.area, Dev.withDesc_stands stands]
  dsimp only
  rw [if_neg (by simp [-Nat.reducePow, head, tail, place, pool, length]), if_neg nonempty, mapped]

theorem Dev.area_unmaps (empty : fieldAt bs 32 8 = 0) (named : d.areaAt c (fieldAt bs 24 8) = some a)
    (noSave : (d.ctx c).ckpt = none) (noRestore : (d.ctx c).restore = none) :
    d.area q i = (d.unmapArea c a).complete w Status.ok 0 := by
  rw [Dev.area, Dev.withDesc_stands stands]
  dsimp only
  rw [if_neg (by simp [-Nat.reducePow, head, tail, place, pool, empty]), if_pos empty, named]
  dsimp only
  rw [if_neg (by simp [noSave, noRestore])]

end

/-! ### SAVE (R312) -/

/-- The entries that a LIST's bytes hold. -/
def listEntries (bs raw : List Byte) : List Entry :=
  (List.range (fieldAt bs 20 4)).map fun k => Entry.of (slice raw (160 * k) 160)

theorem Dev.save_arms (stands : d.Stands q i 8 1 c w bs) (slot : fieldAt bs 17 1 ≤ 2) (head : allZero (slice bs 18 2) = true)
    (few : fieldAt bs 20 4 ≤ 65535) (tail : allZero (slice bs 60 4) = true) (kind : d.kindOf c ≠ 0)
    (named : d.areaAt c (fieldAt bs 24 8) = some a)
    (read : d.readVa c none [] (fieldAt bs 32 8) (160 * fieldAt bs 20 4) = (g, d1)) (good : g.bad = none)
    (checked : d1.entriesCheck c (listEntries bs g.raw) false = none)
    (fits : (shardPlaces (listEntries bs g.raw) (64 + 32 * fieldAt bs 20 4)).2 ≤ fieldAt bs 56 4 * 4096)
    (ahead : d1.stepNow c ≤ fieldAt bs 40 8) (idle : (d1.ctx c).ckpt = none) : d.save q i =
      ((d1.accept w).modCtx c fun x =>
        { x with ckpt := some ⟨w, bs ++ g.raw, fieldAt bs 24 8, a.len, 0, 0, 0, [], 0, [], 0⟩ }).put F.ckptStat_phase c 1 := by
  unfold listEntries at checked fits
  rw [Dev.save, Dev.withDesc_stands stands]
  dsimp only
  rw [if_neg (by simp [slot, head, few, tail]), if_neg kind, named]
  dsimp only
  rw [read]
  dsimp only
  rw [good]
  dsimp only
  rw [checked]
  dsimp only
  rw [if_neg (Nat.not_lt.2 fits), if_neg (by simp [ahead, idle])]

/-! ### RESTORE and QUERY (R317, R318, R322) -/

/-- The status of the first of two reads that a lower tier did not deliver. -/
def firstTier (sa sb : Option Nat) : Option Nat := match sa with | some st => some st | none => sb

theorem Dev.restore_tries {ra rb : List Byte} {sa sb : Option Nat} (stands : d.Stands q i 8 2 c w bs) (slot : fieldAt bs 17 1 ≤ 2)
    (head : allZero (slice bs 18 2) = true) (nonempty : 1 ≤ fieldAt bs 20 4) (few : fieldAt bs 20 4 ≤ 65535)
    (tail : allZero (slice bs 40 24) = true) (kind : d.kindOf c ≠ 0) (named : d.areaAt c (fieldAt bs 24 8) = some a)
    (read : d.readVa c none [] (fieldAt bs 32 8) (160 * fieldAt bs 20 4) = (g, d1)) (good : g.bad = none)
    (checked : d1.entriesCheck c (listEntries bs g.raw) true = none) (phase : d1.get F.lrnStepStat_phase c = LrnSt.idle)
    (noSave : (d1.ctx c).ckpt = none) (noRestore : (d1.ctx c).restore = none) (ready : d1.jobReady c = true)
    (first : d1.readRecord c rsp (fieldAt bs 24 8) a.len 0 = (ra, sa, d2))
    (second : d2.readRecord c rsp (fieldAt bs 24 8) a.len 1 = (rb, sb, d3)) : d.restore q i rsp =
      (d3.accept w).tryNext c rsp
        ⟨w, g.raw, fieldAt bs 24 8, a.len, candidatesOf (fieldAt bs 17 1) ra rb (d3.reg .ckptJobId c), (0, []), 0, 0, none,
          firstTier sa sb⟩ (candidatesOf (fieldAt bs 17 1) ra rb (d3.reg .ckptJobId c)) (firstTier sa sb) := by
  unfold listEntries at checked
  rw [Dev.restore, Dev.withDesc_stands stands]
  dsimp only
  rw [if_neg (by simp [slot, head, few, tail, Nat.ne_of_gt nonempty]), if_neg kind, named]
  dsimp only
  rw [read]
  dsimp only
  rw [good]
  dsimp only
  rw [checked]
  dsimp only
  rw [if_neg (by simp [phase, noSave, noRestore, ready]), first]
  dsimp only
  rw [second]
  rfl

/-- A commit record as QUERY answers it: zeros for an invalid one. -/
def answeredRecord (r : List Byte) (job : Nat) : List Byte := if commitValid r job then r else List.replicate 128 0

theorem Dev.query_answers {ra rb : List Byte} {n : Nat} (stands : d.Stands q i 8 3 c w bs) (head : allZero (slice bs 17 7) = true)
    (tail : allZero (slice bs 40 24) = true) (named : d.areaAt c (fieldAt bs 24 8) = some a)
    (writable : d.writable c (fieldAt bs 32 8) 256 = true) (first : d.readRecord c rsp a.va a.len 0 = (ra, none, d1))
    (second : d1.readRecord c rsp a.va a.len 1 = (rb, none, d2))
    (written : d2.writeVa c rsp (fieldAt bs 32 8)
      (answeredRecord ra (d2.reg .ckptJobId c) ++ answeredRecord rb (d2.reg .ckptJobId c)) = (none, n, d3)) :
    d.query q i rsp = d3.complete w Status.ok 0 := by
  unfold answeredRecord at written
  rw [Dev.query, Dev.withDesc_stands stands]
  dsimp only
  rw [if_neg (by simp [head, tail]), named]
  dsimp only
  rw [if_neg (by simp [writable]), first]
  dsimp only
  rw [second]
  dsimp only
  rw [written]

end

/-- Settles O29: each descriptor passes the checks that its conditions state. -/
theorem checkpointDescriptorsComplete : Obligations.CheckpointDescriptorsComplete := by
  refine ⟨fun s q i c w bs d1 stands head tail place length pool nonempty mapped => ?_,
    fun s q i c w bs a stands head tail place pool empty named noSave noRestore => ?_,
    fun s q i c w bs a g d1 stands slot head few tail kind named read good checked fits ahead idle => ?_,
    fun s q i c w bs a g rsp ra rb sa sb tier cs d1 d2 d3 stands slot head nonempty few tail kind named read good checked phase noSave
      noRestore ready first second hcs htier => ?_,
    fun s q i c n w bs a rsp ra rb d1 d2 d3 stands head tail named writable first second written => ?_⟩
  · exact run_withDev stands.named (Dev.area_maps stands head tail place pool length nonempty mapped)
  · exact run_withDev stands.named (Dev.area_unmaps stands head tail place pool empty named noSave noRestore)
  · refine ⟨_, run_withDev stands.named
      (Dev.save_arms stands slot head few tail kind named read good checked fits ahead idle), ?_, ?_⟩
    · exact Dev.get_put_self _ _ _ _ _ (by decide)
    · rw [State.withDev, Dev.put_ctx, Dev.modCtx_ctx]
  · subst hcs htier
    exact run_withDev stands.named (Dev.restore_tries stands slot head nonempty few tail kind named read good checked phase noSave noRestore
      ready first second)
  · exact run_withDev stands.named (Dev.query_answers stands head tail named writable first second written)

end Sys2Proof.Machine
end
